-- ==== Sys2Proof/Word.lean ====
section
/-! DEFINITION. Word.lean: the words of the device and the table type that holds numbered things (registers, contexts,
rows). Bit 0 is the least significant bit throughout (R8). -/

namespace Sys2Proof

/-- A 64-bit word: scalar and address registers, system registers, instruction words. -/
abbrev Word := BitVec 64

abbrev Byte := BitVec 8

/-- A row of 1,024 bytes; byte i of the row is bits [8i + 7 : 8i] (R8, R150). -/
abbrev Row := BitVec 8192

/-- A mask register: 512 bits, bit l governs container l (R150). -/
abbrev Mask := BitVec 512

/-- A table of numbered things, as pairs in rising order of their numbers. A number that is not listed reads as the
default that its reader names (its value at reset). -/
abbrev Tab (α : Type) := List (Nat × α)

namespace Tab

variable {α : Type}

/-- The thing numbered `k`, or `d` when it is not listed. -/
def get (t : Tab α) (k : Nat) (d : α) : α :=
  match t with
  | [] => d
  | (i, x) :: r => if i = k then x else Tab.get r k d

/-- The table with the thing numbered `k` replaced by `x`. -/
def set (t : Tab α) (k : Nat) (x : α) : Tab α :=
  match t with
  | [] => [(k, x)]
  | (i, y) :: r =>
    if i = k then (k, x) :: r
    else if k < i then (k, x) :: (i, y) :: r
    else (i, y) :: Tab.set r k x

end Tab

end Sys2Proof
end

