-- ==== Sys2Proof/Config.lean ====
section
/-! DEFINITION. Config.lean: what the spec fixes for the whole package, and the free values: opaque constants without
a body, so that no proof can know what they are (DESIGN CHOICE, assumption log 2). -/

namespace Sys2Proof.Config

/-- Fresh free values: the `n`-th choice that the spec leaves to the device. `State.free` counts them
(DESIGN CHOICE, assumption log 2). -/
opaque freeNat : Nat → Nat

/-- The contents of the read-only known-answer pool and of its checksums, by physical address (R143, R407, R408):
the spec names the pool and does not list its bytes (DESIGN CHOICE, assumption log 5). -/
opaque poolByte : Nat → BitVec 8

/-- The contents of the on-package flash before any store to it, by physical address (R407, R417)
(DESIGN CHOICE, assumption log 5). -/
opaque flashByte : Nat → BitVec 8

/-- The contents of other devices' memory before any store that this model sees (R290)
(DESIGN CHOICE, assumption log 83). -/
opaque remoteByte : Nat → BitVec 8

/-- Which of the values that meet the bound of Table 7.4 a binary32 special function returns: one fixed function of
the form's number and the input bits, the same on every device (R162) (DESIGN CHOICE, assumption log 27). -/
opaque specialPick : Nat → BitVec 32 → Nat

/-- Whether the RSA-3072 signature, and whether the SLH-DSA signature, of a boot image verifies against the key hashes in the
boot ROM, its covered bytes and its signature given (R416, R417); the key hashes are not in the spec (PRESUMED, assumption
log 10). -/
opaque rsaVerifies : List (BitVec 8) → List (BitVec 8) → Bool
opaque slhVerifies : List (BitVec 8) → List (BitVec 8) → Bool

/-- The values that a configuration record's bytes give, by number, and its identity public keys: the spec gives no layout of
the record (R418) (DESIGN CHOICE, assumption log 103). -/
opaque recordWord : Nat → List (BitVec 8) → BitVec 64
opaque recordKeys : List (BitVec 8) → List (BitVec 8)

/-- Novfin's memory key of the `n`-th boot (R357) (DESIGN CHOICE, assumption log 104). -/
opaque bootKey : Nat → BitVec 512

/-- SHA-384 of a byte sequence, for the measurement chain (R416) (PRESUMED, assumption log 10). -/
opaque sha384 : List (BitVec 8) → BitVec 384

/-- The bytes of an attestation report with a chain, a record hash, a device number, a nonce and the key and seed status of each
partition: the spec gives no layout (R419) (DESIGN CHOICE, assumption log 123). -/
opaque reportBytes : BitVec 384 → BitVec 384 → Nat → BitVec 256 → List (Bool × Bool) → List (BitVec 8)

/-- The signatures that the device's RSA-3072 and SLH-DSA identity keys make of a report, and whether such signatures verify
under some identity public keys (R419) (DESIGN CHOICE, assumption log 123). -/
opaque idRsaSign : List (BitVec 8) → List (BitVec 8)
opaque idSlhSign : List (BitVec 8) → List (BitVec 8)
opaque idRsaVerifies : List (BitVec 8) → List (BitVec 8) → List (BitVec 8) → Bool
opaque idSlhVerifies : List (BitVec 8) → List (BitVec 8) → List (BitVec 8) → Bool

/-- Where stage 1 of the booted slot is entered: the spec gives no load address (R416)
(DESIGN CHOICE, assumption log 9). -/
opaque stageEntry : Nat → BitVec 64

def numCores : Nat := 256
def numCrews : Nat := 64
def numDies : Nat := 4
def numServiceCores : Nat := 8
def numPartitions : Nat := 64
def numZones : Nat := 128
def numSlices : Nat := 64
def numContexts : Nat := 1024

/-- The pump budget in quanta of 10 mL/min (R262, Table 0.1). -/
def pumpQuanta : Nat := 256

/-- Core cycles in one millisecond at 1.75 GHz (R1). -/
def cyclesPerMs : Nat := 1750000

end Sys2Proof.Config
end

