-- ==== Sys2Proof/Syntax.lean ====
section
/-! DEFINITION. Syntax.lean: the instructions and events of the opcode table, one constructor of Instr per row.

The first part holds the words of the three opcode maps (Tables 3.7 to 3.9), with the suffixes of a row as an argument.
The second part holds the table's events: steps of the device that no word encodes. Their arguments name the unit and
carry what comes from outside the device (samples, error reports, host data). -/

namespace Sys2Proof

/-- A scalar register field, s0 to s63 (R49). -/
abbrev SReg := BitVec 6

/-- An address register field, a0 to a31 (R51). -/
abbrev AReg := BitVec 5

/-- A vector operand specifier (R52, Table 3.5). -/
abbrev Spec := BitVec 9

/-- Who issues words: the cox, ACC or VEC of job context `j` = 4 × global core + context, spore `k` of context `j`, or
service core `n` (R19, R20, R220, R275). -/
inductive Thread where
  | cox (j : Nat)
  | spore (j k : Nat)
  | acc (j : Nat)
  | vec (j : Nat)
  | svc (n : Nat)
deriving DecidableEq, Repr

/-- The upper fields of a cox word (Table 3.1): IDLE, the boost level BL, and PRED. LVL is always 000. -/
structure CoxH where
  idle : BitVec 10
  bl : BitVec 2
  pred : BitVec 4
deriving DecidableEq, Repr

/-- The upper fields of an ACC or VEC word (Table 3.1): IDLE, ITF, LVL and PRED. -/
structure LaneH where
  idle : BitVec 10
  itf : BitVec 2
  lvl : BitVec 3
  pred : BitVec 4
deriving DecidableEq, Repr

/-- The token fields of an engine command; 0 names no token (R47, Table 3.2). -/
structure Tok where
  wait : BitVec 4
  sig : BitVec 4
deriving DecidableEq, Repr

/-- The conditions of CMP (R235). -/
inductive CoxCC where
  | eq | ne | lt | le | gt | ge | ltu | leu | gtu | geu
deriving DecidableEq, Repr

/-- The ordering suffixes of an atomic, k = 0 to 7 in group 0x08 + k (R301). -/
inductive AmoOrd where
  | plain | acq | rel | acqrel | dom | acqDom | relDom | acqrelDom
deriving DecidableEq, Repr

/-- The call types (Table 3.3). -/
inductive CallTy where
  | trip | mask | arm | scal | stride | note
deriving DecidableEq, Repr

/-- The source of AMV (Table 3.4, modes 0x10, 0x11 and 0x12). -/
inductive AmvSrc where
  | reg (b : AReg)
  | imm (i : BitVec 16)
  | call
deriving DecidableEq, Repr

/-- The second operand of AADD and AMUL (Table 3.4, modes 0x10 and 0x11). -/
inductive AluSrc where
  | reg (i : AReg)
  | imm (i : BitVec 16)
deriving DecidableEq, Repr

/-- The address modes of the row forms (Table 3.4, modes 0x00, 0x01 and 0x02). -/
inductive AMode where
  | off (imm : BitVec 16)
  | idx (i : AReg)
  | post (imm : BitVec 16)
deriving DecidableEq, Repr

/-- The address modes of AGTH, ASCT and ASTX, whose index field names another register (R51). -/
inductive GMode where
  | off (imm : BitVec 16)
  | post (imm : BitVec 16)
deriving DecidableEq, Repr

/-- The element widths of ASTX (Table 3.8). -/
inductive XW where
  | n8 | i16 | i32
deriving DecidableEq, Repr

/-- Types of VADD, VSUB, VMUL, VABS and VNEG (Table 3.9). -/
inductive ArTy where
  | f32 | bf16 | f16 | i32 | i32s | i16 | i16s
deriving DecidableEq, Repr

/-- Types of VFMA and of the special functions. -/
inductive FlTy where
  | f32 | bf16 | f16
deriving DecidableEq, Repr

/-- Types of VMIN, VMAX and VCMP. -/
inductive MmTy where
  | f32 | bf16 | f16 | i32 | i16 | n32
deriving DecidableEq, Repr

inductive ShlTy where
  | i32 | i16
deriving DecidableEq, Repr

inductive ShrTy where
  | i32 | n32 | i16
deriving DecidableEq, Repr

/-- The conditions of VCMP (R165). -/
inductive VecCC where
  | eq | ne | lt | le | gt | ge
deriving DecidableEq, Repr

/-- The 24 forms of VCVT (Table 3.9, groups 0x16 to 0x18): `to` from FP32 with ties to even, `sr` stochastic, `rz` toward
zero, `from` into FP32. -/
inductive CvtForm where
  | toE4m3 | toE5m2 | toDm8 | toI8 | toN8 | toBf16 | toF16 | toI32
  | srE4m3 | srE5m2 | srDm8 | srI8 | srBf16 | srF16 | rzI32 | rzBf16
  | fromE4m3 | fromE5m2 | fromDm8 | fromI8 | fromN8 | fromBf16 | fromF16 | fromI32
deriving DecidableEq, Repr

/-- The 8 forms of VCVTA (group 0x19). -/
inductive CvtaForm where
  | e4m3 | e5m2 | dm8 | bf16 | f16 | srE4m3 | srE5m2 | srDm8
deriving DecidableEq, Repr

/-- The 8 forms of VCVTS (group 0x1A). -/
inductive CvtsForm where
  | e4m3 | e5m2 | dm8 | i8 | n8 | bf16 | f16 | f32
deriving DecidableEq, Repr

/-- The element formats of VQNT and VDQNT (group 0x1B). -/
inductive QFmt where
  | e4m3 | e5m2 | dm8 | i8
deriving DecidableEq, Repr

/-- Types of VRSUM and VRMAX. -/
inductive RdTy where
  | f32 | bf16 | i32
deriving DecidableEq, Repr

/-- Types of VARGM and VSHRT. -/
inductive RkTy where
  | f32 | bf16
deriving DecidableEq, Repr

/-- One millisecond's sample of a zone's sensors, numbered as R267 numbers them. -/
structure Sample where
  inletTemp : BitVec 16
  outletTemp : BitVec 16
  flow : BitVec 16
  pressure : BitVec 16
  wetInner : BitVec 10
  wetOuter : BitVec 10
  inletValve : BitVec 8
  purgeValve : BitVec 8
deriving DecidableEq, Repr

/-- Where an uncorrectable error strikes (Table 16.10): a 16-byte piece of the physical space, a piece of a core's
scratchpad, an element of a core's accumulator tile, an entry of a job's queue (numbered as W4 to W9 number the queues,
counted from its head), the registers of a job, a plane slot or directory entry. -/
inductive ErrAt where
  | piece (n : Nat)
  | scratch (core n : Nat)
  | tile (core row elt : Nat)
  | queue (j q i : Nat)
  | regs (j : Nat)
  | plane (crew slot : Nat)
deriving DecidableEq, Repr

/-- What a remote access asks its home device to do (R290, R291, R410). -/
inductive RemoteOp where
  | load
  | store (bytes : List Byte)
  | add (v : Word)
  /-- A .rel.dom store of a word, with the signature that its thread publishes (R293). -/
  | storeRel (v : Word) (sig : BitVec 1024)
  /-- An atomic add of .rel.dom form. -/
  | addRel (v : Word) (sig : BitVec 1024)
deriving DecidableEq, Repr

/-- The rows of the opcode table. -/
inductive Instr where
  -- Cox: integer and bit operations (R233 to R237)
  | add (h : CoxH) (d a b : SReg)
  | addImm (h : CoxH) (d a : SReg) (imm : BitVec 24)
  | sub (h : CoxH) (d a b : SReg)
  | mul (h : CoxH) (d a b : SReg)
  | mulImm (h : CoxH) (d a : SReg) (imm : BitVec 24)
  | mulh (h : CoxH) (d a b : SReg)
  | div (h : CoxH) (d a b : SReg)
  | rem (h : CoxH) (d a b : SReg)
  | min (h : CoxH) (d a b : SReg)
  | max (h : CoxH) (d a b : SReg)
  | and (h : CoxH) (d a b : SReg)
  | andImm (h : CoxH) (d a : SReg) (imm : BitVec 24)
  | or (h : CoxH) (d a b : SReg)
  | orImm (h : CoxH) (d a : SReg) (imm : BitVec 24)
  | xor (h : CoxH) (d a b : SReg)
  | xorImm (h : CoxH) (d a : SReg) (imm : BitVec 24)
  | shl (h : CoxH) (d a b : SReg)
  | shlImm (h : CoxH) (d a : SReg) (c : BitVec 6)
  | shr (h : CoxH) (d a b : SReg)
  | shrImm (h : CoxH) (d a : SReg) (c : BitVec 6)
  | sar (h : CoxH) (d a b : SReg)
  | sarImm (h : CoxH) (d a : SReg) (c : BitVec 6)
  | clz (h : CoxH) (d a : SReg)
  | popc (h : CoxH) (d a : SReg)
  | cmp (h : CoxH) (cc : CoxCC) (p : BitVec 3) (a b : SReg)
  | sel (h : CoxH) (d a b : SReg) (neg : Bool) (p : BitVec 3)
  | bfx (h : CoxH) (d a : SReg) (pos len1 : BitVec 6)
  | bfi (h : CoxH) (d a b : SReg) (pos len1 : BitVec 6)
  | ldi (h : CoxH) (d : SReg) (imm : BitVec 30)
  | ldih (h : CoxH) (d : SReg) (imm : BitVec 30)
  -- Cox: control (R239 to R243)
  | bra (idle : BitVec 10) (neg : Bool) (p : BitVec 3) (taken : Bool) (commit : BitVec 2) (disp : BitVec 29)
  | jmp (h : CoxH) (disp : BitVec 30)
  | call (h : CoxH) (disp : BitVec 30)
  | ret (h : CoxH)
  | go (h : CoxH) (a b : SReg)
  | join (h : CoxH)
  | node (h : CoxH)
  -- Cox: loads, stores, atomics (R300, R301)
  | ld (h : CoxH) (d a : SReg) (imm : BitVec 24)
  | ldI8 (h : CoxH) (d a : SReg) (imm : BitVec 24)
  | ldN8 (h : CoxH) (d a : SReg) (imm : BitVec 24)
  | ldI16 (h : CoxH) (d a : SReg) (imm : BitVec 24)
  | ldI32 (h : CoxH) (d a : SReg) (imm : BitVec 24)
  | ldN32 (h : CoxH) (d a : SReg) (imm : BitVec 24)
  | ldAcq (h : CoxH) (d a : SReg) (imm : BitVec 24)
  | ldDom (h : CoxH) (d a : SReg) (imm : BitVec 24)
  | ldAcqDom (h : CoxH) (d a : SReg) (imm : BitVec 24)
  | st (h : CoxH) (d a : SReg) (imm : BitVec 24)
  | stI8 (h : CoxH) (d a : SReg) (imm : BitVec 24)
  | stI16 (h : CoxH) (d a : SReg) (imm : BitVec 24)
  | stI32 (h : CoxH) (d a : SReg) (imm : BitVec 24)
  | stRel (h : CoxH) (d a : SReg) (imm : BitVec 24)
  | stDom (h : CoxH) (d a : SReg) (imm : BitVec 24)
  | stRelDom (h : CoxH) (d a : SReg) (imm : BitVec 24)
  | amoAdd (h : CoxH) (o : AmoOrd) (d a b : SReg)
  | amoAnd (h : CoxH) (o : AmoOrd) (d a b : SReg)
  | amoOr (h : CoxH) (o : AmoOrd) (d a b : SReg)
  | amoXor (h : CoxH) (o : AmoOrd) (d a b : SReg)
  | amoMin (h : CoxH) (o : AmoOrd) (d a b : SReg)
  | amoMax (h : CoxH) (o : AmoOrd) (d a b : SReg)
  | amoSwap (h : CoxH) (o : AmoOrd) (d a b : SReg)
  | cas (h : CoxH) (o : AmoOrd) (d a b e : SReg)
  | waita (h : CoxH) (a b : SReg)
  | fence (h : CoxH)
  | msg (h : CoxH) (t : Tok) (a b c : SReg) (ssp : Bool)
  | twait (h : CoxH) (t : BitVec 4) (n : BitVec 16)
  | tsig (h : CoxH) (t : BitVec 4) (n : BitVec 16)
  | wqpush (h : CoxH) (a b : SReg)
  | callv (h : CoxH) (ty : CallTy) (a : SReg) (g : BitVec 3)
  | calla (h : CoxH) (ty : CallTy) (a : SReg) (g : BitVec 3)
  | fmtp (h : CoxH) (a : SReg)
  | rqp (h : CoxH) (d : SReg)
  | mbsend (h : CoxH) (a : SReg) (k : BitVec 2)
  | mbrecv (h : CoxH) (d : SReg)
  -- Cox: matrix commands (Table 6.1)
  | mxgrp (h : CoxH) (n1 : BitVec 6)
  | mxldp (h : CoxH) (t : Tok) (a b c : SReg) (hi : Bool)
  | mxswp (h : CoxH) (t : Tok) (a b : SReg) (grad : Bool)
  | mxevp (h : CoxH) (t : Tok) (a : SReg)
  | mxpin (h : CoxH) (t : Tok) (a : SReg) (unpin : Bool)
  | mxmm (h : CoxH) (t : Tok) (a b c : SReg) (uni acc h1 : Bool)
  | mxga (h : CoxH) (t : Tok) (a b c : SReg) (uni : Bool)
  | mxdrg (h : CoxH) (t : Tok) (a b c : SReg) (clr : Bool)
  | mxres (h : CoxH) (drop : Bool)
  | mxkat (h : CoxH) (t : Tok) (a b : SReg)
  | mxtsm (h : CoxH) (t : Tok) (a : SReg)
  | mxdir (h : CoxH) (t : Tok) (a b : SReg) (idx : Bool)
  -- Cox: copy commands (Table 12.4)
  | cpy (h : CoxH) (t : Tok) (a b c : SReg) (dsp ssp : Bool)
  | cpx (h : CoxH) (t : Tok) (a b c : SReg) (dsp ssp : Bool)
  | cpk (h : CoxH) (t : Tok) (a b c : SReg)
  | cpq (h : CoxH) (t : Tok) (a b c : SReg) (dsp ssp : Bool)
  | cpg (h : CoxH) (t : Tok) (a b c : SReg) (dsp ssp : Bool)
  | cps (h : CoxH) (t : Tok) (a b c : SReg) (dsp ssp : Bool)
  | cpr (h : CoxH) (t : Tok) (a b c : SReg) (ssp fadd badd iadd fmax : Bool)
  | rtacq (h : CoxH) (t : Tok) (a : SReg)
  | rtrel (h : CoxH) (d a : SReg)
  | rtqry (h : CoxH) (d a : SReg) (w : BitVec 2)
  | nvq (h : CoxH) (t : Tok) (a b c : SReg)
  -- Cox: grammar unit, tile status, composition log (R252 to R259)
  | gmld (h : CoxH) (t : Tok) (a : SReg)
  | gmstep (h : CoxH) (a : SReg)
  | gmmask (h : CoxH) (d a : SReg) (g : BitVec 3)
  | gmsave (h : CoxH) (d : SReg) (slot : BitVec 4)
  | gmrest (h : CoxH) (d : SReg) (slot : BitVec 4)
  | rdtsf (h : CoxH) (d : SReg) (i : BitVec 4)
  | logb (h : CoxH) (t : Tok) (a b : SReg)
  -- Cox: spores, coolant, system (Tables 16.5, R263 to R267)
  | sparm (h : CoxH) (a : SReg)
  | spend (h : CoxH)
  | clreq (h : CoxH) (t : Tok) (a b : SReg)
  | clrel (h : CoxH) (a : SReg)
  | clrd (h : CoxH) (d a : SReg) (i : BitVec 3)
  | trap (h : CoxH) (code : BitVec 16)
  | eret (h : CoxH)
  | rdsys (h : CoxH) (d : SReg) (n : BitVec 12)
  | wrsys (h : CoxH) (a : SReg) (n : BitVec 12)
  | fltrd (h : CoxH) (d : SReg) (w : BitVec 4)
  | halt (h : CoxH)
  | killj (h : CoxH) (a : SReg)
  -- ACC (Table 12.2)
  | amv (h : LaneH) (t : AReg) (src : AmvSrc)
  | aadd (h : LaneH) (t b : AReg) (src : AluSrc)
  | amul (h : LaneH) (t b : AReg) (src : AluSrc)
  | ald (h : LaneH) (t : BitVec 5) (b : AReg) (m : AMode)
  | alds (h : LaneH) (t : BitVec 5) (b : AReg) (m : AMode)
  | ast (h : LaneH) (t : BitVec 5) (b : AReg) (m : AMode)
  | asts (h : LaneH) (t : BitVec 5) (b : AReg) (m : AMode)
  | agth (h : LaneH) (t : BitVec 5) (b i : AReg) (m : GMode)
  | asct (h : LaneH) (t : BitVec 5) (b i : AReg) (m : GMode)
  | apf (h : LaneH) (b : AReg) (m : AMode)
  | astx (h : LaneH) (w : XW) (t : BitVec 5) (b i : AReg) (m : GMode)
  | aldb (h : LaneH) (b : AReg) (f lines1 : BitVec 6)
  | awf (h : LaneH) (f : BitVec 6)
  | aloop (h : LaneH) (lvl : BitVec 3) (count : BitVec 16)
  | aarm (h : LaneH) (n : BitVec 4) (lens : Word)
  | acall (h : LaneH) (b : AReg)
  | accJoin (h : LaneH)
  -- VEC (Table 7.3)
  | vadd (h : LaneH) (ty : ArTy) (D A B : Spec)
  | vsub (h : LaneH) (ty : ArTy) (D A B : Spec)
  | vmul (h : LaneH) (ty : ArTy) (D A B : Spec)
  | vfma (h : LaneH) (ty : FlTy) (D A B C : Spec)
  | vmin (h : LaneH) (ty : MmTy) (D A B : Spec)
  | vmax (h : LaneH) (ty : MmTy) (D A B : Spec)
  | vabs (h : LaneH) (ty : ArTy) (D A : Spec)
  | vneg (h : LaneH) (ty : ArTy) (D A : Spec)
  | vexp2 (h : LaneH) (ty : FlTy) (D A : Spec)
  | vlog2 (h : LaneH) (ty : FlTy) (D A : Spec)
  | vrcp (h : LaneH) (ty : FlTy) (D A : Spec)
  | vrsq (h : LaneH) (ty : FlTy) (D A : Spec)
  | vtanh (h : LaneH) (ty : FlTy) (D A : Spec)
  | vsigm (h : LaneH) (ty : FlTy) (D A : Spec)
  | vand (h : LaneH) (D A B : Spec)
  | vor (h : LaneH) (D A B : Spec)
  | vxor (h : LaneH) (D A B : Spec)
  | vmov (h : LaneH) (D A : Spec)
  | vsel (h : LaneH) (D A B : Spec) (k : BitVec 3)
  | viota (h : LaneH) (D : Spec) (k : BitVec 3)
  | vshl (h : LaneH) (ty : ShlTy) (D A B : Spec)
  | vshr (h : LaneH) (ty : ShrTy) (D A B : Spec)
  | vcmp (h : LaneH) (cc : VecCC) (ty : MmTy) (k : BitVec 3) (A B : Spec)
  | vcvt (h : LaneH) (f : CvtForm) (D A : Spec)
  | vcvta (h : LaneH) (f : CvtaForm) (D A : Spec) (m : BitVec 2)
  | vcvts (h : LaneH) (f : CvtsForm) (q : BitVec 1) (A : Spec)
  | vqnt (h : LaneH) (f : QFmt) (D A : Spec)
  | vdqnt (h : LaneH) (f : QFmt) (D A : Spec)
  | vrsum (h : LaneH) (ty : RdTy) (D A : Spec)
  | vrmax (h : LaneH) (ty : RdTy) (D A : Spec)
  | vargm (h : LaneH) (ty : RkTy) (D A : Spec)
  | vamxr (h : LaneH) (D : Spec) (sel : BitVec 3)
  | vperm (h : LaneH) (D A B : Spec)
  | vrot (h : LaneH) (D A : Spec) (n : BitVec 9)
  | vlpsh (h : LaneH) (A : Spec)
  | vlpop (h : LaneH) (D : Spec) (k : BitVec 3)
  | vlcnt (h : LaneH) (D : Spec)
  | vrng (h : LaneH) (D : Spec) (load : Option Spec)
  | vshrt (h : LaneH) (ty : RkTy) (D A B C : Spec)
  | vmsk (h : LaneH) (k : BitVec 3)
  | vkand (h : LaneH) (kd ka kb : BitVec 3)
  | vkor (h : LaneH) (kd ka kb : BitVec 3)
  | vknot (h : LaneH) (kd ka : BitVec 3)
  | vkpop (h : LaneH) (D : Spec) (k : BitVec 3)
  | vrank (h : LaneH) (D A B : Spec)
  | vselb (h : LaneH) (D A B : Spec)
  | vloop (h : LaneH) (lvl : BitVec 3) (count1 step : BitVec 9)
  | varm (h : LaneH) (n : BitVec 4) (lens : Word)
  | vecJoin (h : LaneH)
  -- Events: memory and watches
  | watchWake (t : Thread)
  | spuriousWake (t : Thread)
  | grammarDescriptorLoad (j : Nat)
  | loadBlockFill (j : Nat) (f : BitVec 6)
  | noteCallDiscard (j : Nat) (vec : Bool)
  -- Events: writes of system registers that have a behaviour of their own (by service core n)
  | hamsWrite (n : Nat) (v : Word)
  | actWrite (j : Nat) (v : Word)
  | wqEnable (p q : Nat) (v : Word)
  | wqSuspend (p q : Nat) (v : Word)
  | wqResume (p q : Nat) (v : Word)
  | wqDisable (p q : Nat) (v : Word)
  | zoneEvacuate (z : Nat)
  | zoneRefill (z : Nat)
  | zoneClearFault (z : Nat)
  | pd0Write (p : Nat) (v : Word)
  | keyLoad (n p : Nat)
  | seedLoad (n p : Nat)
  | keyErase (n p : Nat)
  | invalidatePage (p : Nat) (v : Word)
  | invalidateAll (p : Nat)
  | wayLend (sl : Nat) (v : Word)
  | wayReturn (sl : Nat) (v : Word)
  | wprOwnerSet (sl : Nat) (v : Word)
  | lendComplete (sl : Nat)
  | returnComplete (sl : Nat)
  | forcedEviction (c : Nat) (v : Word)
  | binStep (c : Nat)
  | binRetest (c : Nat)
  | binRetire (c : Nat)
  | serviceCoreRestart (n : Nat) (v : Word)
  | hagtWrite (v : Word)
  -- Events: work queues, walker, jobs
  | launchPacket (p q : Nat)
  | fencePacket (p q : Nat)
  | fenceRecheck (p q : Nat)
  | signalPacket (p q : Nat)
  | nodePacket (p q : Nat)
  | logbPacket (p q : Nat)
  | iterationPlace (die : Nat)
  | walkerGo (j : Nat)
  | iterationReplace (die : Nat)
  | jobRetire (j : Nat)
  | retireCounterAdd (j : Nat)
  | budgetWarning (j : Nat)
  | budgetExhausted (j : Nat)
  | messageArrival (core : Nat)
  | sporeStart (j k : Nat)
  -- Events: frond array
  | matrixCommandStart (c : Nat)
  | leaseGrant (c : Nat)
  | groupWaitLimit (c : Nat)
  | tileLineArrival (j : Nat)
  | shadowFull (c : Nat)
  | rowEntry (c : Nat)
  | rowDrain (c : Nat) (err : Bool)
  | matrixCommandComplete (c : Nat)
  | tsfVisible (j : Nat)
  | mxkatTimeout (j : Nat)
  | knownAnswerSlot (c : Nat) (tile : BitVec 6)
  -- Events: copy engine, residency, random bits
  | copyCommandStart (j : Nat)
  | copyChunk (home : Nat)
  | copyComplete (home : Nat)
  | residencyFillComplete (home : Nat)
  | randomBlock (j : Nat)
  -- Events: other devices
  | remoteStoreAck (i : Nat)
  | remoteAccess (part : BitVec 6) (pa : Nat) (op : RemoteOp)
  | flitRetry (link : Nat)
  | pageWalkComplete (c p : Nat) (va : Word)
  -- Events: coolant
  | allocatorServe (i : Nat)
  | sensorSample (z : Nat) (x : Sample)
  | settleTimeout (z : Nat)
  | flowFaultTimeout (z : Nat)
  | evacuationKillTimeout (c : Nat)
  | evacuationStepEnd (z : Nat)
  | dryConfirmTimeout (z : Nat)
  | refillReserve (z : Nat)
  | refillPrimeEnd (z : Nat)
  -- Events: host
  | hostTimeout (fn : BitVec 3)
  | hostLinkDown
  | hostCompletion (id : Nat) (ok : Bool) (v : Word)
  -- Events: faults and recovery
  | handlerDelivery (j : Nat)
  | cutSample (j : Nat)
  | cutTimeout (j : Nat)
  | serviceTrap (n : Nat)
  | uncorrectableError (u : ErrAt)
  | correctedError (unit : Nat)
  | correctionReport (unit : Nat)
  | binSettle (c : Nat)
  | knownAnswerBattery (c : Nat) (clean : Bool)
  -- Events: boot, service, requests
  | reset
  | bootStage
  | diePass (d : Nat)
  | fullService
  | pcieLinkChange (up : Bool)
  | requestArrival (p q : Nat) (packet : List Word)
  | requestReply (p : Nat) (counter threshold : Word)
  | refillPurgeValveClosed (z : Nat)
  | mailboxWordAvailable (j : Nat)
  | dieTestFail (d : Nat)
deriving DecidableEq, Repr

end Sys2Proof
end

