-- ==== Sys2Proof/WellFormed.lean ====
section
/-! DEFINITION. WellFormed.lean: the limits of Tables 3.1 to 3.6 and of R55 that a word must keep on its own, without
the state (R60 class 1), and the bounds that the package sets to the operands of events. Limits that depend on the state
(an open level, the job's rows, the lane width, the thread's kind) are checked where the word is executed. -/

namespace Sys2Proof

/-- The header of a cox word that may be boosted (R60: groups 0x00 to 0x04 and LD to LD.n32). -/
def CoxH.okBoost (h : CoxH) : Bool := h.bl != 3

/-- The header of any other cox word: BL is 00 (R60). -/
def CoxH.okPlain (h : CoxH) : Bool := h.bl == 0

/-- ITF is not 11, LVL is not 7, and LVL is 0 when ITF is 00 (R60). -/
def LaneH.ok (h : LaneH) : Bool := h.itf != 3 && h.lvl != 7 && (h.itf != 0 || h.lvl == 0)

/-- A specifier that Table 3.5 assigns: 0x10E to 0x1FF are illegal (R52, R60). -/
def Spec.assigned (x : Spec) : Bool := x.ult 0x10E

/-- A destination specifier: assigned, and neither `zero` nor `lane` (R60). A source-only queue as a destination is a
queue-protocol fault, which the execution raises (R60 class 2). -/
def Spec.okDst (x : Spec) : Bool := Spec.assigned x && x != 0x10B && x != 0x10C

/-- Loads take targets 0x00 to 0x05 here: 0x04 and 0x05 are the other direction, a queue-protocol fault (R51). -/
def okTgt (t : BitVec 5) : Bool := t.ule 5

/-- The limits on a call's group field (R246). -/
def okCall (ty : CallTy) (g : BitVec 3) : Bool :=
  match ty with
  | .mask => true
  | .stride => g.ule 5
  | _ => g == 0

/-- The arm count is 1 to 8, and the length bytes at and beyond the count are zero (R55). -/
def okArms (n : BitVec 4) (lens : Word) : Bool :=
  decide (1 ≤ n.toNat ∧ n.toNat ≤ 8) && decide (lens.toNat < 2 ^ (8 * n.toNat))

/-! ## The operands of events: the units of the package (R1, R16 to R18) -/

def okJob (j : Nat) : Bool := decide (j < 1024)
def okCrew (c : Nat) : Bool := decide (c < 64)
def okPart (p : Nat) : Bool := decide (p < 64)

def okThread (t : Thread) : Bool :=
  match t with
  | .cox j | .acc j | .vec j => okJob j
  | .spore j k => okJob j && decide (k < 4)
  | .svc n => decide (n < 8)

def okError (u : ErrAt) : Bool :=
  match u with
  | .piece n => decide (n < 2 ^ 36)
  | .scratch g n => decide (g < 256 ∧ n < 2 ^ 17)
  | .tile g r e => decide (g < 256 ∧ r < 256 ∧ e < 256)
  | .queue j q i => okJob j && decide (q < 12 ∧ i < 64)
  | .regs j => okJob j
  | .plane c k => okCrew c && decide (k ≤ 16)

namespace Instr

/-- The word keeps every limit that the word alone decides. -/
def wellFormed : Instr → Bool
  | .add h .. | .addImm h .. | .sub h .. | .mul h .. | .mulImm h .. | .mulh h .. | .div h .. | .rem h ..
  | .min h .. | .max h .. | .and h .. | .andImm h .. | .or h .. | .orImm h .. | .xor h .. | .xorImm h ..
  | .shl h .. | .shlImm h .. | .shr h .. | .shrImm h .. | .sar h .. | .sarImm h .. | .clz h .. | .popc h ..
  | .sel h _ _ _ _ _ | .ldi h .. | .ldih h .. | .ld h .. | .ldI8 h .. | .ldN8 h .. | .ldI16 h .. | .ldI32 h ..
  | .ldN32 h .. => h.okBoost
  | .cmp h _ p _ _ => h.okBoost && p != 0
  | .bfx h _ _ pos len1 | .bfi h _ _ _ pos len1 => h.okBoost && decide (pos.toNat + len1.toNat + 1 ≤ 64)
  | .bra _ _ _ _ commit _ => commit != 3
  | .callv h ty _ g => h.okPlain && okCall ty g && ty != .stride
  | .calla h ty _ g => h.okPlain && okCall ty g
  | .jmp h .. | .call h .. | .ret h | .go h .. | .join h | .node h | .ldAcq h .. | .ldDom h .. | .ldAcqDom h ..
  | .st h .. | .stI8 h .. | .stI16 h .. | .stI32 h .. | .stRel h .. | .stDom h .. | .stRelDom h ..
  | .amoAdd h .. | .amoAnd h .. | .amoOr h .. | .amoXor h .. | .amoMin h .. | .amoMax h .. | .amoSwap h ..
  | .cas h .. | .waita h .. | .fence h | .msg h .. | .twait h .. | .tsig h .. | .wqpush h .. | .fmtp h ..
  | .rqp h .. | .mbsend h .. | .mbrecv h .. | .mxgrp h .. | .mxldp h .. | .mxswp h .. | .mxevp h .. | .mxpin h ..
  | .mxmm h .. | .mxga h .. | .mxdrg h .. | .mxres h .. | .mxkat h .. | .mxtsm h .. | .mxdir h .. | .cpy h ..
  | .cpx h .. | .cpk h .. | .cpq h .. | .cpg h .. | .cps h .. | .cpr h .. | .rtacq h .. | .rtrel h .. | .rtqry h ..
  | .nvq h .. | .gmld h .. | .gmstep h .. | .gmmask h .. | .gmsave h .. | .gmrest h .. | .rdtsf h .. | .logb h ..
  | .sparm h .. | .spend h | .clreq h .. | .clrel h .. | .clrd h .. | .trap h .. | .eret h | .rdsys h .. | .wrsys h ..
  | .fltrd h .. | .halt h | .killj h .. => h.okPlain
  | .amv h .. | .aadd h .. | .amul h .. | .apf h .. | .aldb h .. | .awf h .. | .acall h .. | .accJoin h
  | .vecJoin h => h.ok
  | .ald h t .. | .alds h t .. | .ast h t .. | .asts h t .. | .agth h t .. | .asct h t .. | .astx h _ t .. =>
      h.ok && okTgt t
  | .aloop h lvl count => h.ok && lvl.ule 5 && decide (1 ≤ count.toNat ∧ count.toNat ≤ 512)
  | .aarm h n lens | .varm h n lens => h.ok && okArms n lens
  | .vadd h _ D A B | .vsub h _ D A B | .vmul h _ D A B | .vmin h _ D A B | .vmax h _ D A B
  | .vand h D A B | .vor h D A B | .vxor h D A B | .vsel h D A B _ | .vshl h _ D A B | .vshr h _ D A B
  | .vperm h D A B | .vrank h D A B | .vselb h D A B =>
      h.ok && Spec.okDst D && Spec.assigned A && Spec.assigned B
  | .vfma h _ D A B C | .vshrt h _ D A B C =>
      h.ok && Spec.okDst D && Spec.assigned A && Spec.assigned B && Spec.assigned C
  | .vabs h _ D A | .vneg h _ D A | .vexp2 h _ D A | .vlog2 h _ D A | .vrcp h _ D A | .vrsq h _ D A
  | .vtanh h _ D A | .vsigm h _ D A | .vmov h D A | .vcvt h _ D A | .vcvta h _ D A _ | .vqnt h _ D A
  | .vdqnt h _ D A | .vrsum h _ D A | .vrmax h _ D A | .vargm h _ D A | .vrot h D A _ =>
      h.ok && Spec.okDst D && Spec.assigned A
  | .viota h D _ | .vkpop h D _ | .vlcnt h D => h.ok && Spec.okDst D
  | .vamxr h D i => h.ok && Spec.okDst D && i.ule 4
  | .vcmp h _ _ k A B => h.ok && k != 0 && Spec.assigned A && Spec.assigned B
  | .vcvts h _ _ A | .vlpsh h A => h.ok && Spec.assigned A
  | .vlpop h D k => h.ok && Spec.okDst D && k != 0
  | .vrng h D none => h.ok && Spec.okDst D
  | .vrng h D (some A) => h.ok && Spec.okDst D && Spec.assigned A
  | .vmsk h k => h.ok && k != 0
  | .vkand h kd _ _ | .vkor h kd _ _ | .vknot h kd _ => h.ok && kd != 0
  | .vloop h lvl _ _ => h.ok && lvl.ule 5
  | .watchWake t | .spuriousWake t => okThread t
  | .grammarDescriptorLoad j | .loadBlockFill j _ | .noteCallDiscard j _ | .actWrite j _ | .walkerGo j | .jobRetire j |
    .retireCounterAdd j | .budgetWarning j | .budgetExhausted j | .tileLineArrival j | .tsfVisible j | .mxkatTimeout j |
    .copyCommandStart j | .randomBlock j | .handlerDelivery j | .cutSample j | .cutTimeout j | .mailboxWordAvailable j =>
      okJob j
  | .sporeStart j k => okJob j && decide (k < 4)
  | .copyChunk h | .copyComplete h | .residencyFillComplete h => decide (h < 1032)
  | .hamsWrite n _ | .serviceCoreRestart n _ | .serviceTrap n => decide (n < 8)
  | .keyLoad n p | .seedLoad n p | .keyErase n p => decide (n < 8) && okPart p
  | .wqEnable p q _ | .wqSuspend p q _ | .wqResume p q _ | .wqDisable p q _ | .launchPacket p q | .fencePacket p q |
    .fenceRecheck p q | .signalPacket p q | .nodePacket p q | .logbPacket p q | .requestArrival p q _ =>
      okPart p && decide (q < 16)
  | .zoneEvacuate z | .zoneRefill z | .zoneClearFault z | .sensorSample z _ | .settleTimeout z | .flowFaultTimeout z |
    .evacuationStepEnd z | .dryConfirmTimeout z | .refillReserve z | .refillPrimeEnd z | .refillPurgeValveClosed z =>
      decide (z < 128)
  | .pd0Write p _ | .invalidatePage p _ | .invalidateAll p | .requestReply p _ _ => okPart p
  | .wayLend i _ | .wayReturn i _ | .wprOwnerSet i _ | .lendComplete i | .returnComplete i => decide (i < 64)
  | .forcedEviction c _ | .binStep c | .binRetest c | .binRetire c | .matrixCommandStart c | .leaseGrant c |
    .groupWaitLimit c | .shadowFull c | .rowEntry c | .rowDrain c _ | .matrixCommandComplete c | .knownAnswerSlot c _ |
    .evacuationKillTimeout c | .binSettle c | .knownAnswerBattery c _ => okCrew c
  | .iterationPlace d | .iterationReplace d | .diePass d | .dieTestFail d => decide (d < 4)
  | .messageArrival g => decide (g < 256)
  | .remoteAccess _ pa _ => decide (pa < 2 ^ 40)
  | .flitRetry l => decide (l < 16)
  | .pageWalkComplete c p _ => okCrew c && okPart p
  | .uncorrectableError u => okError u
  | .correctedError u | .correctionReport u => okCrew u || u == 0xFF
  | .hagtWrite _ | .remoteStoreAck _ | .allocatorServe _ | .hostTimeout _ | .hostLinkDown | .hostCompletion _ _ _ | .reset |
    .bootStage | .fullService | .pcieLinkChange _ => true

end Instr

end Sys2Proof
end

