-- ==== Sys2Proof/Decode.lean ====
section
/-! DEFINITION. Decode.lean: from words to instructions and back (R46 to R57, Tables 3.1 to 3.9).

One 64-bit word is one instruction, but for VARM and AARM, which take the arm-length word after them (R55). Each stream
decodes OPC against its own map. A word that no row of its map matches, or that breaks a limit of R60 class 1 which the
word alone decides, is rejected by name. -/

namespace Sys2Proof

/-- The three opcode maps (Tables 3.7, 3.8 and 3.9). -/
inductive OpMap where
  | cox | acc | vec
deriving DecidableEq, Repr

/-- Why a word is rejected; each is the illegal-instruction fault of R60 class 1, but for `short`. -/
inductive DecErr where
  /-- An OPC that the stream's map does not assign (R57). -/
  | unassigned
  /-- A nonzero reserved field or unused specifier (R48). -/
  | reserved
  /-- An operand value outside the limits of Tables 3.1 to 3.6 or of R55. -/
  | limits
  /-- The bytes end before the instruction does. -/
  | short
deriving DecidableEq, Repr

abbrev Dec := Except DecErr Instr

/-- `x` where the reserved fields are zero. -/
def needZero (c : Bool) (x : Instr) : Dec := if c then .ok x else .error .reserved

/-! ### Fields of a word -/

def fIdle (w : Word) : BitVec 10 := w.extractLsb' 54 10
def fTop (w : Word) : BitVec 2 := w.extractLsb' 52 2
def fLvl (w : Word) : BitVec 3 := w.extractLsb' 49 3
def fPred (w : Word) : BitVec 4 := w.extractLsb' 45 4
def fOpc (w : Word) : BitVec 9 := w.extractLsb' 36 9

def fD (w : Word) : SReg := w.extractLsb' 30 6
def fA (w : Word) : SReg := w.extractLsb' 24 6
def fB (w : Word) : SReg := w.extractLsb' 18 6
def fFun (w : Word) : BitVec 18 := w.extractLsb' 0 18
def fImm24 (w : Word) : BitVec 24 := w.extractLsb' 0 24
def fImm30 (w : Word) : BitVec 30 := w.extractLsb' 0 30

def eTok (w : Word) : Tok := ⟨w.extractLsb' 32 4, w.extractLsb' 28 4⟩
def eA (w : Word) : SReg := w.extractLsb' 22 6
def eB (w : Word) : SReg := w.extractLsb' 16 6
def eC (w : Word) : SReg := w.extractLsb' 10 6
def eMod (w : Word) : BitVec 10 := w.extractLsb' 0 10

def mTgt (w : Word) : BitVec 5 := w.extractLsb' 31 5
def mBase (w : Word) : AReg := w.extractLsb' 26 5
def mIdx (w : Word) : AReg := w.extractLsb' 21 5
def mMode (w : Word) : BitVec 5 := w.extractLsb' 16 5
def mImm (w : Word) : BitVec 16 := w.extractLsb' 0 16

def qD (w : Word) : Spec := w.extractLsb' 27 9
def qA (w : Word) : Spec := w.extractLsb' 18 9
def qB (w : Word) : Spec := w.extractLsb' 9 9
def qC (w : Word) : Spec := w.extractLsb' 0 9

def coxH (w : Word) : CoxH := ⟨fIdle w, fTop w, fPred w⟩
def laneH (w : Word) : LaneH := ⟨fIdle w, fTop w, fLvl w, fPred w⟩

/-- Bit `i` of a field of modifier bits. -/
def bit10 (m : BitVec 10) (i : Nat) : Bool := m.getLsbD i

/-! ### The cox map (Table 3.7) -/

def decS3 (w : Word) (f : CoxH → SReg → SReg → SReg → Instr) : Dec :=
  needZero (fFun w == 0) (f (coxH w) (fD w) (fA w) (fB w))

def decSI (w : Word) (f : CoxH → SReg → SReg → BitVec 24 → Instr) : Dec :=
  .ok (f (coxH w) (fD w) (fA w) (fImm24 w))

/-- Immediate shifts: imm24[23:6] is zero (Table 3.2). -/
def decShImm (w : Word) (f : CoxH → SReg → SReg → BitVec 6 → Instr) : Dec :=
  needZero (w.extractLsb' 6 18 == 0) (f (coxH w) (fD w) (fA w) (w.extractLsb' 0 6))

/-- S3 words all of whose fields are zero. -/
def decNone (w : Word) (f : CoxH → Instr) : Dec :=
  needZero (w.extractLsb' 0 36 == 0) (f (coxH w))

/-- S3 words that use a only. -/
def decA (w : Word) (f : CoxH → SReg → Instr) : Dec :=
  needZero (fD w == 0 && w.extractLsb' 0 24 == 0) (f (coxH w) (fA w))

/-- S3 words that use d only. -/
def decD (w : Word) (f : CoxH → SReg → Instr) : Dec :=
  needZero (w.extractLsb' 0 30 == 0) (f (coxH w) (fD w))

/-- S3 words that use a and b only. -/
def decAB (w : Word) (f : CoxH → SReg → SReg → Instr) : Dec :=
  needZero (fD w == 0 && fFun w == 0) (f (coxH w) (fA w) (fB w))

def decCmp (w : Word) (cc : CoxCC) : Dec :=
  needZero (w.extractLsb' 33 3 == 0 && fFun w == 0) (.cmp (coxH w) cc (w.extractLsb' 30 3) (fA w) (fB w))

def decTok (w : Word) (f : CoxH → BitVec 4 → BitVec 16 → Instr) : Dec :=
  needZero (w.extractLsb' 34 2 == 0 && fA w == 0 && w.extractLsb' 16 8 == 0)
    (f (coxH w) (w.extractLsb' 30 4) (w.extractLsb' 0 16))

/-- The call types of Table 3.3; codes 6 to 15 are illegal. -/
def decCallTy (c : BitVec 4) : Option CallTy :=
  match c.toNat with
  | 0 => some .trip
  | 1 => some .mask
  | 2 => some .arm
  | 3 => some .scal
  | 4 => some .stride
  | 5 => some .note
  | _ => none

def decCall (w : Word) (f : CoxH → CallTy → SReg → BitVec 3 → Instr) : Dec :=
  match decCallTy (w.extractLsb' 0 4) with
  | none => .error .limits
  | some ty => needZero (fD w == 0 && fB w == 0 && w.extractLsb' 7 11 == 0)
      (f (coxH w) ty (fA w) (w.extractLsb' 4 3))

/-- EC words that use a, b and c, with the modifier bits in `used` (Table 6.1, Table 12.4). -/
def decEC (w : Word) (used : BitVec 10) (f : CoxH → Tok → SReg → SReg → SReg → BitVec 10 → Instr) : Dec :=
  needZero (eMod w &&& ~~~ used == 0) (f (coxH w) (eTok w) (eA w) (eB w) (eC w) (eMod w))

def decGroup00 (w : Word) (slot : Nat) : Dec :=
  match slot with
  | 0 => decS3 w .add
  | 1 => decS3 w .sub
  | 2 => decS3 w .mul
  | 3 => decS3 w .mulh
  | 4 => decS3 w .div
  | 5 => decS3 w .rem
  | 6 => decS3 w .min
  | _ => decS3 w .max

def decGroup01 (w : Word) (slot : Nat) : Dec :=
  match slot with
  | 0 => decSI w .addImm
  | 1 => decSI w .mulImm
  | 2 => decSI w .andImm
  | 3 => decSI w .orImm
  | 4 => decSI w .xorImm
  | 5 => decShImm w .shlImm
  | 6 => decShImm w .shrImm
  | _ => decShImm w .sarImm

def decGroup02 (w : Word) (slot : Nat) : Dec :=
  match slot with
  | 0 => decS3 w .and
  | 1 => decS3 w .or
  | 2 => decS3 w .xor
  | 3 => decS3 w .shl
  | 4 => decS3 w .shr
  | 5 => decS3 w .sar
  | 6 => needZero (fB w == 0 && fFun w == 0) (.clz (coxH w) (fD w) (fA w))
  | _ => needZero (fB w == 0 && fFun w == 0) (.popc (coxH w) (fD w) (fA w))

def decGroup03 (w : Word) (slot : Nat) : Dec :=
  match slot with
  | 0 => decCmp w .eq
  | 1 => decCmp w .ne
  | 2 => decCmp w .lt
  | 3 => decCmp w .le
  | 4 => decCmp w .gt
  | 5 => decCmp w .ge
  | 6 => decCmp w .ltu
  | _ => decCmp w .leu

def decGroup04 (w : Word) (slot : Nat) : Dec :=
  match slot with
  | 0 => decCmp w .gtu
  | 1 => decCmp w .geu
  | 2 => needZero (w.extractLsb' 4 14 == 0)
      (.sel (coxH w) (fD w) (fA w) (fB w) (w.getLsbD 3) (w.extractLsb' 0 3))
  | 3 => needZero (fB w == 0 && w.extractLsb' 12 6 == 0)
      (.bfx (coxH w) (fD w) (fA w) (w.extractLsb' 6 6) (w.extractLsb' 0 6))
  | 4 => needZero (w.extractLsb' 12 6 == 0)
      (.bfi (coxH w) (fD w) (fA w) (fB w) (w.extractLsb' 6 6) (w.extractLsb' 0 6))
  | 5 => .ok (.ldi (coxH w) (fD w) (fImm30 w))
  | 6 => .ok (.ldih (coxH w) (fD w) (fImm30 w))
  | _ => .error .unassigned

/-- BRA carries its condition in its own field; BL and PRED are zero (R60, R239). -/
def decBra (w : Word) : Dec :=
  needZero (fTop w == 0 && fPred w == 0)
    (.bra (fIdle w) (w.getLsbD 35) (w.extractLsb' 32 3) (w.getLsbD 31) (w.extractLsb' 29 2) (w.extractLsb' 0 29))

def decGroup05 (w : Word) (slot : Nat) : Dec :=
  match slot with
  | 0 => decBra w
  | 1 => needZero (fD w == 0) (.jmp (coxH w) (fImm30 w))
  | 2 => needZero (fD w == 0) (.call (coxH w) (fImm30 w))
  | 3 => decNone w .ret
  | 4 => decAB w .go
  | 5 => decNone w .join
  | 6 => decNone w .node
  | _ => .error .unassigned

def decGroup06 (w : Word) (slot : Nat) : Dec :=
  match slot with
  | 0 => decSI w .ld
  | 1 => decSI w .ldI8
  | 2 => decSI w .ldN8
  | 3 => decSI w .ldI16
  | 4 => decSI w .ldI32
  | 5 => decSI w .ldN32
  | 6 => decSI w .ldAcq
  | _ => decSI w .ldDom

def decGroup07 (w : Word) (slot : Nat) : Dec :=
  match slot with
  | 0 => decSI w .ldAcqDom
  | 1 => decSI w .st
  | 2 => decSI w .stI8
  | 3 => decSI w .stI16
  | 4 => decSI w .stI32
  | 5 => decSI w .stRel
  | 6 => decSI w .stDom
  | _ => decSI w .stRelDom

/-- Group 0x08 + k selects the ordering (R301). -/
def decAmoOrd (k : Nat) : AmoOrd :=
  match k with
  | 0 => .plain
  | 1 => .acq
  | 2 => .rel
  | 3 => .acqrel
  | 4 => .dom
  | 5 => .acqDom
  | 6 => .relDom
  | _ => .acqrelDom

def decAmo (w : Word) (o : AmoOrd) (slot : Nat) : Dec :=
  match slot with
  | 0 => decS3 w (.amoAdd · o)
  | 1 => decS3 w (.amoAnd · o)
  | 2 => decS3 w (.amoOr · o)
  | 3 => decS3 w (.amoXor · o)
  | 4 => decS3 w (.amoMin · o)
  | 5 => decS3 w (.amoMax · o)
  | 6 => decS3 w (.amoSwap · o)
  | _ => needZero (w.extractLsb' 6 12 == 0) (.cas (coxH w) o (fD w) (fA w) (fB w) (w.extractLsb' 0 6))

def decGroup10 (w : Word) (slot : Nat) : Dec :=
  match slot with
  | 0 => decAB w .waita
  | 1 => decNone w .fence
  | 2 => decEC w 0b10 fun h t a b c m => .msg h t a b c (bit10 m 1)
  | 3 => decTok w .twait
  | 4 => decTok w .tsig
  | 5 => decAB w .wqpush
  | _ => .error .unassigned

def decGroup11 (w : Word) (slot : Nat) : Dec :=
  match slot with
  | 0 => decCall w .callv
  | 1 => decCall w .calla
  | 2 => decA w .fmtp
  | 3 => decD w .rqp
  | 4 => needZero (fD w == 0 && fB w == 0 && w.extractLsb' 2 16 == 0)
      (.mbsend (coxH w) (fA w) (w.extractLsb' 0 2))
  | 5 => decD w .mbrecv
  | _ => .error .unassigned

/-- EC commands that use fewer than three operands: the unused fields are zero (R115). -/
def ecZero (w : Word) (b c : Bool) (m : BitVec 10) : Bool :=
  (!b || eB w == 0) && (!c || eC w == 0) && eMod w &&& ~~~ m == 0

def decGroup12 (w : Word) (slot : Nat) : Dec :=
  match slot with
  | 0 => needZero (w.extractLsb' 6 30 == 0) (.mxgrp (coxH w) (w.extractLsb' 0 6))
  | 1 => decEC w 1 fun h t a b c m => .mxldp h t a b c (bit10 m 0)
  | 2 => needZero (ecZero w false true 1) (.mxswp (coxH w) (eTok w) (eA w) (eB w) (bit10 (eMod w) 0))
  | 3 => needZero (ecZero w true true 0) (.mxevp (coxH w) (eTok w) (eA w))
  | 4 => needZero (ecZero w true true 1) (.mxpin (coxH w) (eTok w) (eA w) (bit10 (eMod w) 0))
  | 5 => decEC w 7 fun h t a b c m => .mxmm h t a b c (bit10 m 0) (bit10 m 1) (bit10 m 2)
  | 6 => decEC w 1 fun h t a b c m => .mxga h t a b c (bit10 m 0)
  | _ => decEC w 1 fun h t a b c m => .mxdrg h t a b c (bit10 m 0)

def decGroup13 (w : Word) (slot : Nat) : Dec :=
  match slot with
  | 0 => needZero (w.extractLsb' 1 35 == 0) (.mxres (coxH w) (w.getLsbD 0))
  | 1 => needZero (ecZero w false true 0) (.mxkat (coxH w) (eTok w) (eA w) (eB w))
  | 2 => needZero (ecZero w true true 0) (.mxtsm (coxH w) (eTok w) (eA w))
  | 3 => needZero (ecZero w false true 1) (.mxdir (coxH w) (eTok w) (eA w) (eB w) (bit10 (eMod w) 0))
  | _ => .error .unassigned

def decGroup14 (w : Word) (slot : Nat) : Dec :=
  match slot with
  | 0 => decEC w 3 fun h t a b c m => .cpy h t a b c (bit10 m 0) (bit10 m 1)
  | 1 => decEC w 3 fun h t a b c m => .cpx h t a b c (bit10 m 0) (bit10 m 1)
  | 2 => decEC w 0 fun h t a b c _ => .cpk h t a b c
  | 3 => decEC w 3 fun h t a b c m => .cpq h t a b c (bit10 m 0) (bit10 m 1)
  | 4 => decEC w 3 fun h t a b c m => .cpg h t a b c (bit10 m 0) (bit10 m 1)
  | 5 => decEC w 3 fun h t a b c m => .cps h t a b c (bit10 m 0) (bit10 m 1)
  | 6 => decEC w 0x3E fun h t a b c m => .cpr h t a b c (bit10 m 1) (bit10 m 2) (bit10 m 3) (bit10 m 4) (bit10 m 5)
  | _ => .error .unassigned

def decGroup15 (w : Word) (slot : Nat) : Dec :=
  match slot with
  | 0 => needZero (ecZero w true true 0) (.rtacq (coxH w) (eTok w) (eA w))
  | 1 => needZero (fB w == 0 && fFun w == 0) (.rtrel (coxH w) (fD w) (fA w))
  | 2 => needZero (fB w == 0 && w.extractLsb' 2 16 == 0) (.rtqry (coxH w) (fD w) (fA w) (w.extractLsb' 0 2))
  | 3 => decEC w 0 fun h t a b c _ => .nvq h t a b c
  | _ => .error .unassigned

def decGroup16 (w : Word) (slot : Nat) : Dec :=
  match slot with
  | 0 => needZero (ecZero w true true 0) (.gmld (coxH w) (eTok w) (eA w))
  | 1 => decA w .gmstep
  | 2 => needZero (fB w == 0 && w.extractLsb' 3 15 == 0) (.gmmask (coxH w) (fD w) (fA w) (w.extractLsb' 0 3))
  | 3 => needZero (w.extractLsb' 4 26 == 0) (.gmsave (coxH w) (fD w) (w.extractLsb' 0 4))
  | 4 => needZero (w.extractLsb' 4 26 == 0) (.gmrest (coxH w) (fD w) (w.extractLsb' 0 4))
  | 5 => needZero (w.extractLsb' 4 26 == 0) (.rdtsf (coxH w) (fD w) (w.extractLsb' 0 4))
  | 6 => needZero (ecZero w false true 0) (.logb (coxH w) (eTok w) (eA w) (eB w))
  | _ => .error .unassigned

def decGroup17 (w : Word) (slot : Nat) : Dec :=
  match slot with
  | 0 => decA w .sparm
  | 1 => decNone w .spend
  | 2 => needZero (ecZero w false true 0) (.clreq (coxH w) (eTok w) (eA w) (eB w))
  | 3 => decA w .clrel
  | 4 => if fB w == 0 && w.extractLsb' 12 6 == 0 then
        (if w.extractLsb' 3 9 == 0 then .ok (.clrd (coxH w) (fD w) (fA w) (w.extractLsb' 0 3)) else .error .limits)
      else .error .reserved
  | _ => .error .unassigned

def decGroup18 (w : Word) (slot : Nat) : Dec :=
  match slot with
  | 0 => needZero (w.extractLsb' 16 20 == 0) (.trap (coxH w) (w.extractLsb' 0 16))
  | 1 => decNone w .eret
  | 2 => needZero (w.extractLsb' 12 18 == 0) (.rdsys (coxH w) (fD w) (w.extractLsb' 0 12))
  | 3 => needZero (fD w == 0 && w.extractLsb' 12 12 == 0) (.wrsys (coxH w) (fA w) (w.extractLsb' 0 12))
  | 4 => needZero (w.extractLsb' 4 26 == 0) (.fltrd (coxH w) (fD w) (w.extractLsb' 0 4))
  | 5 => decNone w .halt
  | 6 => decA w .killj
  | _ => .error .unassigned

/-- The cox map: OPC = group × 8 + slot (Table 3.7). LVL must be 000 (Table 3.1). -/
def parseCox (w : Word) : Dec :=
  let g := (fOpc w).toNat / 8
  let slot := (fOpc w).toNat % 8
  if fLvl w != 0 then .error .limits
  else if 0x08 ≤ g ∧ g ≤ 0x0F then decAmo w (decAmoOrd (g - 8)) slot
  else match g with
    | 0x00 => decGroup00 w slot
    | 0x01 => decGroup01 w slot
    | 0x02 => decGroup02 w slot
    | 0x03 => decGroup03 w slot
    | 0x04 => decGroup04 w slot
    | 0x05 => decGroup05 w slot
    | 0x06 => decGroup06 w slot
    | 0x07 => decGroup07 w slot
    | 0x10 => decGroup10 w slot
    | 0x11 => decGroup11 w slot
    | 0x12 => decGroup12 w slot
    | 0x13 => decGroup13 w slot
    | 0x14 => decGroup14 w slot
    | 0x15 => decGroup15 w slot
    | 0x16 => decGroup16 w slot
    | 0x17 => decGroup17 w slot
    | 0x18 => decGroup18 w slot
    | _ => .error .unassigned

/-! ### The ACC map (Table 3.8, field use of Table 3.4) -/

def decAmv (w : Word) : Dec :=
  match (mMode w).toNat with
  | 0x10 => needZero (mIdx w == 0 && mImm w == 0) (.amv (laneH w) (mTgt w) (.reg (mBase w)))
  | 0x11 => needZero (mBase w == 0 && mIdx w == 0) (.amv (laneH w) (mTgt w) (.imm (mImm w)))
  | 0x12 => needZero (mBase w == 0 && mIdx w == 0 && mImm w == 0) (.amv (laneH w) (mTgt w) .call)
  | _ => .error .limits

def decAlu (w : Word) (f : LaneH → AReg → AReg → AluSrc → Instr) : Dec :=
  match (mMode w).toNat with
  | 0x10 => needZero (mImm w == 0) (f (laneH w) (mTgt w) (mBase w) (.reg (mIdx w)))
  | 0x11 => needZero (mIdx w == 0) (f (laneH w) (mTgt w) (mBase w) (.imm (mImm w)))
  | _ => .error .limits

def decRow (w : Word) (f : LaneH → BitVec 5 → AReg → AMode → Instr) : Dec :=
  match (mMode w).toNat with
  | 0 => needZero (mIdx w == 0) (f (laneH w) (mTgt w) (mBase w) (.off (mImm w)))
  | 1 => needZero (mImm w == 0) (f (laneH w) (mTgt w) (mBase w) (.idx (mIdx w)))
  | 2 => needZero (mIdx w == 0) (f (laneH w) (mTgt w) (mBase w) (.post (mImm w)))
  | _ => .error .limits

def decGat (w : Word) (f : LaneH → BitVec 5 → AReg → AReg → GMode → Instr) : Dec :=
  match (mMode w).toNat with
  | 0 => .ok (f (laneH w) (mTgt w) (mBase w) (mIdx w) (.off (mImm w)))
  | 2 => .ok (f (laneH w) (mTgt w) (mBase w) (mIdx w) (.post (mImm w)))
  | _ => .error .limits

/-- APF: as a row form with target 0. -/
def decApf (w : Word) : Dec :=
  match decRow w (fun h _ b m => .apf h b m) with
  | .ok i => if mTgt w == 0 then .ok i else .error .limits
  | .error e => .error e

/-- The ACC map; `next` is the word after `w`, which AARM takes as its arm-length word. -/
def parseAcc (w next : Word) : Dec :=
  match (fOpc w).toNat with
  | 0x000 => decAmv w
  | 0x001 => decAlu w .aadd
  | 0x002 => decAlu w .amul
  | 0x008 => decRow w .ald
  | 0x009 => decRow w .alds
  | 0x00A => decRow w .ast
  | 0x00B => decRow w .asts
  | 0x00C => decGat w .agth
  | 0x00D => decGat w .asct
  | 0x00E => decApf w
  | 0x010 => decGat w (.astx · .n8)
  | 0x011 => decGat w (.astx · .i16)
  | 0x012 => decGat w (.astx · .i32)
  | 0x018 => needZero (mTgt w == 0 && mIdx w == 0 && mMode w == 0 && w.extractLsb' 6 4 == 0)
      (.aldb (laneH w) (mBase w) (w.extractLsb' 10 6) (w.extractLsb' 0 6))
  | 0x019 => needZero (w.extractLsb' 16 20 == 0 && w.extractLsb' 0 10 == 0)
      (.awf (laneH w) (w.extractLsb' 10 6))
  | 0x020 => needZero (w.extractLsb' 34 2 == 0 && w.extractLsb' 16 15 == 0)
      (.aloop (laneH w) (w.extractLsb' 31 3) (mImm w))
  | 0x021 => needZero (w.extractLsb' 35 1 == 0 && w.extractLsb' 0 31 == 0)
      (.aarm (laneH w) (w.extractLsb' 31 4) next)
  | 0x022 => needZero (mTgt w == 0 && w.extractLsb' 0 26 == 0) (.acall (laneH w) (mBase w))
  | 0x023 => needZero (w.extractLsb' 0 36 == 0) (.accJoin (laneH w))
  | _ => .error .unassigned

/-! ### The VEC map (Table 3.9, field use of Table 3.6) -/

def arTy (slot : Nat) : Option ArTy :=
  match slot with
  | 0 => some .f32
  | 1 => some .bf16
  | 2 => some .f16
  | 3 => some .i32
  | 4 => some .i32s
  | 5 => some .i16
  | 6 => some .i16s
  | _ => none

def flTy (slot : Nat) : Option FlTy :=
  match slot with
  | 0 => some .f32
  | 1 => some .bf16
  | 2 => some .f16
  | _ => none

/-- The slots of VMIN and VMAX (groups 0x04 and 0x05). -/
def mmTy (slot : Nat) : Option MmTy :=
  match slot with
  | 0 => some .f32
  | 1 => some .bf16
  | 2 => some .f16
  | 3 => some .i32
  | 5 => some .i16
  | 7 => some .n32
  | _ => none

/-- The groups of VCMP, 0x10 + k. -/
def cmpTy (k : Nat) : MmTy :=
  match k with
  | 0 => .f32
  | 1 => .bf16
  | 2 => .f16
  | 3 => .i32
  | 4 => .i16
  | _ => .n32

def vecCC (slot : Nat) : Option VecCC :=
  match slot with
  | 0 => some .eq
  | 1 => some .ne
  | 2 => some .lt
  | 3 => some .le
  | 4 => some .gt
  | 5 => some .ge
  | _ => none

/-- `f` of the type that the slot names; unassigned where the map has none. -/
def withTy {α : Type} (t : Option α) (f : α → Dec) : Dec :=
  match t with
  | none => .error .unassigned
  | some x => f x

/-- Two sources: C is unused. -/
def dec2 (w : Word) (f : LaneH → Spec → Spec → Spec → Instr) : Dec :=
  needZero (qC w == 0) (f (laneH w) (qD w) (qA w) (qB w))

/-- One source: B and C are unused. -/
def dec1 (w : Word) (f : LaneH → Spec → Spec → Instr) : Dec :=
  needZero (qB w == 0 && qC w == 0) (f (laneH w) (qD w) (qA w))

/-- A mask operand: bits [8:3] of its specifier are zero (R54). -/
def kOk (x : Spec) : Bool := x.extractLsb' 3 6 == 0
def kOf (x : Spec) : BitVec 3 := x.extractLsb' 0 3

def cvtForm (g slot : Nat) : CvtForm :=
  match g, slot with
  | 0x16, 0 => .toE4m3
  | 0x16, 1 => .toE5m2
  | 0x16, 2 => .toDm8
  | 0x16, 3 => .toI8
  | 0x16, 4 => .toN8
  | 0x16, 5 => .toBf16
  | 0x16, 6 => .toF16
  | 0x16, _ => .toI32
  | 0x17, 0 => .srE4m3
  | 0x17, 1 => .srE5m2
  | 0x17, 2 => .srDm8
  | 0x17, 3 => .srI8
  | 0x17, 4 => .srBf16
  | 0x17, 5 => .srF16
  | 0x17, 6 => .rzI32
  | 0x17, _ => .rzBf16
  | _, 0 => .fromE4m3
  | _, 1 => .fromE5m2
  | _, 2 => .fromDm8
  | _, 3 => .fromI8
  | _, 4 => .fromN8
  | _, 5 => .fromBf16
  | _, 6 => .fromF16
  | _, _ => .fromI32

def cvtaForm (slot : Nat) : CvtaForm :=
  match slot with
  | 0 => .e4m3
  | 1 => .e5m2
  | 2 => .dm8
  | 3 => .bf16
  | 4 => .f16
  | 5 => .srE4m3
  | 6 => .srE5m2
  | _ => .srDm8

def cvtsForm (slot : Nat) : CvtsForm :=
  match slot with
  | 0 => .e4m3
  | 1 => .e5m2
  | 2 => .dm8
  | 3 => .i8
  | 4 => .n8
  | 5 => .bf16
  | 6 => .f16
  | _ => .f32

def qFmt (k : Nat) : QFmt :=
  match k with
  | 0 => .e4m3
  | 1 => .e5m2
  | 2 => .dm8
  | _ => .i8

def decVGroup0E (w : Word) (slot : Nat) : Dec :=
  match slot with
  | 0 => dec2 w .vand
  | 1 => dec2 w .vor
  | 2 => dec2 w .vxor
  | 3 => dec1 w .vmov
  | 4 => needZero (kOk (qC w)) (.vsel (laneH w) (qD w) (qA w) (qB w) (kOf (qC w)))
  | 5 => needZero (kOk (qA w) && qB w == 0 && qC w == 0) (.viota (laneH w) (qD w) (kOf (qA w)))
  | _ => .error .unassigned

def decVGroup0F (w : Word) (slot : Nat) : Dec :=
  match slot with
  | 0 => dec2 w (.vshl · .i32)
  | 1 => dec2 w (.vshl · .i16)
  | 2 => dec2 w (.vshr · .i32)
  | 3 => dec2 w (.vshr · .n32)
  | 4 => dec2 w (.vshr · .i16)
  | _ => .error .unassigned

def decVGroup1C (w : Word) (slot : Nat) : Dec :=
  match slot with
  | 0 => dec1 w (.vrsum · .f32)
  | 1 => dec1 w (.vrsum · .bf16)
  | 2 => dec1 w (.vrsum · .i32)
  | 3 => dec1 w (.vrmax · .f32)
  | 4 => dec1 w (.vrmax · .bf16)
  | 5 => dec1 w (.vrmax · .i32)
  | 6 => dec1 w (.vargm · .f32)
  | _ => dec1 w (.vargm · .bf16)

/-- VRNG: B is 0x000, and then A is 0x000, or 0x001, the load form (R185). -/
def decRng (w : Word) : Dec :=
  if qC w != 0 then .error .reserved
  else if qB w == 0 then (if qA w == 0 then .ok (.vrng (laneH w) (qD w) none) else .error .limits)
  else if qB w == 1 then .ok (.vrng (laneH w) (qD w) (some (qA w)))
  else .error .limits

def decVGroup1D (w : Word) (slot : Nat) : Dec :=
  match slot with
  | 0 => if qA w == 0 && qB w == 0 then
        (if kOk (qC w) then .ok (.vamxr (laneH w) (qD w) (kOf (qC w))) else .error .limits)
      else .error .reserved
  | 1 => dec2 w .vperm
  | 2 => needZero (qC w == 0) (.vrot (laneH w) (qD w) (qA w) (qB w))
  | 3 => needZero (qD w == 0 && qB w == 0 && qC w == 0) (.vlpsh (laneH w) (qA w))
  | 4 => needZero (qA w == 0 && qB w == 0 && kOk (qC w)) (.vlpop (laneH w) (qD w) (kOf (qC w)))
  | 5 => needZero (qA w == 0 && qB w == 0 && qC w == 0) (.vlcnt (laneH w) (qD w))
  | 6 => decRng w
  | _ => .error .unassigned

def decVGroup1E (w : Word) (slot : Nat) : Dec :=
  match slot with
  | 0 => .ok (.vshrt (laneH w) .f32 (qD w) (qA w) (qB w) (qC w))
  | 1 => .ok (.vshrt (laneH w) .bf16 (qD w) (qA w) (qB w) (qC w))
  | 2 => needZero (kOk (qD w) && qA w == 0x10A && qB w == 0 && qC w == 0) (.vmsk (laneH w) (kOf (qD w)))
  | 3 => needZero (kOk (qD w) && kOk (qA w) && kOk (qB w) && qC w == 0)
      (.vkand (laneH w) (kOf (qD w)) (kOf (qA w)) (kOf (qB w)))
  | 4 => needZero (kOk (qD w) && kOk (qA w) && kOk (qB w) && qC w == 0)
      (.vkor (laneH w) (kOf (qD w)) (kOf (qA w)) (kOf (qB w)))
  | 5 => needZero (kOk (qD w) && kOk (qA w) && qB w == 0 && qC w == 0)
      (.vknot (laneH w) (kOf (qD w)) (kOf (qA w)))
  | 6 => needZero (kOk (qA w) && qB w == 0 && qC w == 0) (.vkpop (laneH w) (qD w) (kOf (qA w)))
  | _ => .error .unassigned

def decVGroup20 (w next : Word) (slot : Nat) : Dec :=
  match slot with
  | 0 => if qC w == 0 then
        (if kOk (qD w) then .ok (.vloop (laneH w) (kOf (qD w)) (qA w) (qB w)) else .error .limits)
      else .error .reserved
  | 1 => if qA w == 0 && qB w == 0 && qC w == 0 then
        (if (qD w).extractLsb' 4 5 == 0 then .ok (.varm (laneH w) ((qD w).extractLsb' 0 4) next) else .error .limits)
      else .error .reserved
  | 2 => needZero (w.extractLsb' 0 36 == 0) (.vecJoin (laneH w))
  | _ => .error .unassigned

/-- VCVTS takes sq0 or sq1 as its destination, specifiers 0x108 and 0x109 (Table 3.6). -/
def decCvts (w : Word) (slot : Nat) : Dec :=
  if qB w == 0 && qC w == 0 then
    (if (qD w).extractLsb' 1 8 == 0x84 then
      .ok (.vcvts (laneH w) (cvtsForm slot) ((qD w).extractLsb' 0 1) (qA w)) else .error .limits)
  else .error .reserved

/-- The VEC map; `next` is the word after `w`, which VARM takes as its arm-length word. -/
def parseVec (w next : Word) : Dec :=
  let g := (fOpc w).toNat / 8
  let slot := (fOpc w).toNat % 8
  match g with
  | 0x00 => withTy (arTy slot) fun t => dec2 w (.vadd · t)
  | 0x01 => withTy (arTy slot) fun t => dec2 w (.vsub · t)
  | 0x02 => withTy (arTy slot) fun t => dec2 w (.vmul · t)
  | 0x03 => withTy (flTy slot) fun t => .ok (.vfma (laneH w) t (qD w) (qA w) (qB w) (qC w))
  | 0x04 => withTy (mmTy slot) fun t => dec2 w (.vmin · t)
  | 0x05 => withTy (mmTy slot) fun t => dec2 w (.vmax · t)
  | 0x06 => withTy (arTy slot) fun t => dec1 w (.vabs · t)
  | 0x07 => withTy (arTy slot) fun t => dec1 w (.vneg · t)
  | 0x08 => withTy (flTy slot) fun t => dec1 w (.vexp2 · t)
  | 0x09 => withTy (flTy slot) fun t => dec1 w (.vlog2 · t)
  | 0x0A => withTy (flTy slot) fun t => dec1 w (.vrcp · t)
  | 0x0B => withTy (flTy slot) fun t => dec1 w (.vrsq · t)
  | 0x0C => withTy (flTy slot) fun t => dec1 w (.vtanh · t)
  | 0x0D => withTy (flTy slot) fun t => dec1 w (.vsigm · t)
  | 0x0E => decVGroup0E w slot
  | 0x0F => decVGroup0F w slot
  | 0x10 | 0x11 | 0x12 | 0x13 | 0x14 | 0x15 => withTy (vecCC slot) fun cc =>
      needZero (kOk (qD w) && qC w == 0) (.vcmp (laneH w) cc (cmpTy (g - 0x10)) (kOf (qD w)) (qA w) (qB w))
  | 0x16 | 0x17 | 0x18 => dec1 w (.vcvt · (cvtForm g slot))
  | 0x19 => if qB w == 0 then
        (if (qC w).extractLsb' 2 7 == 0 then
          .ok (.vcvta (laneH w) (cvtaForm slot) (qD w) (qA w) ((qC w).extractLsb' 0 2)) else .error .limits)
      else .error .reserved
  | 0x1A => decCvts w slot
  | 0x1B => if slot < 4 then dec1 w (.vqnt · (qFmt slot)) else dec1 w (.vdqnt · (qFmt (slot - 4)))
  | 0x1C => decVGroup1C w slot
  | 0x1D => decVGroup1D w slot
  | 0x1E => decVGroup1E w slot
  | 0x1F => match slot with
    | 0 => dec2 w .vrank
    | 1 => dec2 w .vselb
    | _ => .error .unassigned
  | 0x20 => decVGroup20 w next slot
  | _ => .error .unassigned

/-- The fields of the word, before the limits that the whole word must keep. -/
def parse (m : OpMap) (w next : Word) : Dec :=
  match m with
  | .cox => parseCox w
  | .acc => parseAcc w next
  | .vec => parseVec w next

/-- The instruction that a word is in a map; `next` is the word after it. -/
def decode (m : OpMap) (w next : Word) : Dec :=
  match parse m w next with
  | .error e => .error e
  | .ok i => if i.wellFormed then .ok i else .error .limits

/-- How many words the instruction takes: two where an arm-length word follows, else one (R55). -/
def Instr.words (i : Instr) : Nat :=
  match i with
  | .varm .. => 2
  | .aarm .. => 2
  | _ => 1

/-- The 64-bit word of eight bytes, the lowest address first (R8, R46). -/
def wordOfBytes : List Byte → Word
  | [] => 0
  | b :: bs => (wordOfBytes bs <<< 8) ||| b.zeroExtend 64

/-- The bytes of a word, the lowest address first. -/
def bytesOfWord (w : Word) : List Byte :=
  (List.range 8).map fun i => w.extractLsb' (8 * i) 8

/-- Decoding of any bytes: the instruction at their head and the bytes after it, or the reason there is none. -/
def decodeBytes (m : OpMap) (bs : List Byte) : Except DecErr (Instr × List Byte) :=
  if bs.length < 8 then .error .short
  else
    match decode m (wordOfBytes (bs.take 8)) (wordOfBytes ((bs.drop 8).take 8)) with
    | .error e => .error e
    | .ok i => if bs.length < 8 * i.words then .error .short else .ok (i, bs.drop (8 * i.words))

/-- The instruction in a word numbered as the opcode table numbers bits. A word has a meaning only in a stream's map
(R56); the table gives no stream, and the map taken here is the cox map, of the stream that the reset state runs
(R18, R416; DESIGN CHOICE, assumption log 6). -/
def decodeTableWord (_nbits w : Nat) : Option Instr :=
  match decodeBytes .cox (bytesOfWord (BitVec.ofNat 64 w) ++ bytesOfWord 0) with
  | .ok (i, _) => some i
  | .error _ => none

/-! ### The encoder (Tables 3.1 to 3.9, R47) -/

def mkWord (idle : BitVec 10) (top : BitVec 2) (lvl : BitVec 3) (pred : BitVec 4) (opc : BitVec 9) (o : BitVec 36) :
    Word := idle ++ top ++ lvl ++ pred ++ opc ++ o

def oS3 (d a b : SReg) (f : BitVec 18) : BitVec 36 := d ++ a ++ b ++ f
def oSI (d a : SReg) (imm : BitVec 24) : BitVec 36 := d ++ a ++ imm
def oSL (d : SReg) (imm : BitVec 30) : BitVec 36 := d ++ imm
def oBR (neg : Bool) (p : BitVec 3) (taken : Bool) (commit : BitVec 2) (disp : BitVec 29) : BitVec 36 :=
  BitVec.ofBool neg ++ p ++ BitVec.ofBool taken ++ commit ++ disp
def oAM (t : BitVec 5) (b i : AReg) (m : BitVec 5) (imm : BitVec 16) : BitVec 36 := t ++ b ++ i ++ m ++ imm
def oEC (t : Tok) (a b c : SReg) (m : BitVec 10) : BitVec 36 := t.wait ++ t.sig ++ a ++ b ++ c ++ m
def oQ4 (D A B C : Spec) : BitVec 36 := D ++ A ++ B ++ C

def CoxH.word (h : CoxH) (opc : BitVec 9) (o : BitVec 36) : Word := mkWord h.idle h.bl 0 h.pred opc o
def LaneH.word (h : LaneH) (opc : BitVec 9) (o : BitVec 36) : Word := mkWord h.idle h.itf h.lvl h.pred opc o

def CoxCC.opc (c : CoxCC) : BitVec 9 :=
  match c with
  | .eq => 0x018
  | .ne => 0x019
  | .lt => 0x01A
  | .le => 0x01B
  | .gt => 0x01C
  | .ge => 0x01D
  | .ltu => 0x01E
  | .leu => 0x01F
  | .gtu => 0x020
  | .geu => 0x021

/-- The first code of the ordering's group (R301). -/
def AmoOrd.base (o : AmoOrd) : BitVec 9 :=
  match o with
  | .plain => 0x040
  | .acq => 0x048
  | .rel => 0x050
  | .acqrel => 0x058
  | .dom => 0x060
  | .acqDom => 0x068
  | .relDom => 0x070
  | .acqrelDom => 0x078

def CallTy.code (t : CallTy) : BitVec 4 :=
  match t with
  | .trip => 0
  | .mask => 1
  | .arm => 2
  | .scal => 3
  | .stride => 4
  | .note => 5

def ArTy.slot (t : ArTy) : BitVec 9 :=
  match t with
  | .f32 => 0
  | .bf16 => 1
  | .f16 => 2
  | .i32 => 3
  | .i32s => 4
  | .i16 => 5
  | .i16s => 6

def FlTy.slot (t : FlTy) : BitVec 9 :=
  match t with
  | .f32 => 0
  | .bf16 => 1
  | .f16 => 2

def MmTy.slot (t : MmTy) : BitVec 9 :=
  match t with
  | .f32 => 0
  | .bf16 => 1
  | .f16 => 2
  | .i32 => 3
  | .i16 => 5
  | .n32 => 7

/-- The first code of the type's group of comparisons. -/
def MmTy.cmpBase (t : MmTy) : BitVec 9 :=
  match t with
  | .f32 => 0x080
  | .bf16 => 0x088
  | .f16 => 0x090
  | .i32 => 0x098
  | .i16 => 0x0A0
  | .n32 => 0x0A8

def VecCC.slot (c : VecCC) : BitVec 9 :=
  match c with
  | .eq => 0
  | .ne => 1
  | .lt => 2
  | .le => 3
  | .gt => 4
  | .ge => 5

def CvtForm.opc (f : CvtForm) : BitVec 9 :=
  match f with
  | .toE4m3 => 0x0B0
  | .toE5m2 => 0x0B1
  | .toDm8 => 0x0B2
  | .toI8 => 0x0B3
  | .toN8 => 0x0B4
  | .toBf16 => 0x0B5
  | .toF16 => 0x0B6
  | .toI32 => 0x0B7
  | .srE4m3 => 0x0B8
  | .srE5m2 => 0x0B9
  | .srDm8 => 0x0BA
  | .srI8 => 0x0BB
  | .srBf16 => 0x0BC
  | .srF16 => 0x0BD
  | .rzI32 => 0x0BE
  | .rzBf16 => 0x0BF
  | .fromE4m3 => 0x0C0
  | .fromE5m2 => 0x0C1
  | .fromDm8 => 0x0C2
  | .fromI8 => 0x0C3
  | .fromN8 => 0x0C4
  | .fromBf16 => 0x0C5
  | .fromF16 => 0x0C6
  | .fromI32 => 0x0C7

def CvtaForm.opc (f : CvtaForm) : BitVec 9 :=
  match f with
  | .e4m3 => 0x0C8
  | .e5m2 => 0x0C9
  | .dm8 => 0x0CA
  | .bf16 => 0x0CB
  | .f16 => 0x0CC
  | .srE4m3 => 0x0CD
  | .srE5m2 => 0x0CE
  | .srDm8 => 0x0CF

def CvtsForm.opc (f : CvtsForm) : BitVec 9 :=
  match f with
  | .e4m3 => 0x0D0
  | .e5m2 => 0x0D1
  | .dm8 => 0x0D2
  | .i8 => 0x0D3
  | .n8 => 0x0D4
  | .bf16 => 0x0D5
  | .f16 => 0x0D6
  | .f32 => 0x0D7

def QFmt.slot (f : QFmt) : BitVec 9 :=
  match f with
  | .e4m3 => 0
  | .e5m2 => 1
  | .dm8 => 2
  | .i8 => 3

def b1 (b : Bool) : BitVec 1 := BitVec.ofBool b

/-- The mask operand kN as a specifier (R54). -/
def kSpec (k : BitVec 3) : Spec := (0 : BitVec 6) ++ k

def encRow (h : LaneH) (opc : BitVec 9) (t : BitVec 5) (b : AReg) (m : AMode) : Word :=
  match m with
  | .off imm => h.word opc (oAM t b 0 0 imm)
  | .idx i => h.word opc (oAM t b i 1 0)
  | .post imm => h.word opc (oAM t b 0 2 imm)

def encGat (h : LaneH) (opc : BitVec 9) (t : BitVec 5) (b i : AReg) (m : GMode) : Word :=
  match m with
  | .off imm => h.word opc (oAM t b i 0 imm)
  | .post imm => h.word opc (oAM t b i 2 imm)

def encAlu (h : LaneH) (opc : BitVec 9) (t b : AReg) (s : AluSrc) : Word :=
  match s with
  | .reg i => h.word opc (oAM t b i 0x10 0)
  | .imm x => h.word opc (oAM t b 0 0x11 x)

def XW.opc (w : XW) : BitVec 9 :=
  match w with
  | .n8 => 0x010
  | .i16 => 0x011
  | .i32 => 0x012

/-- The words of a well-formed instruction; events have none. -/
def encode : Instr → List Word
  | .add h d a b => [h.word 0x000 (oS3 d a b 0)]
  | .sub h d a b => [h.word 0x001 (oS3 d a b 0)]
  | .mul h d a b => [h.word 0x002 (oS3 d a b 0)]
  | .mulh h d a b => [h.word 0x003 (oS3 d a b 0)]
  | .div h d a b => [h.word 0x004 (oS3 d a b 0)]
  | .rem h d a b => [h.word 0x005 (oS3 d a b 0)]
  | .min h d a b => [h.word 0x006 (oS3 d a b 0)]
  | .max h d a b => [h.word 0x007 (oS3 d a b 0)]
  | .addImm h d a imm => [h.word 0x008 (oSI d a imm)]
  | .mulImm h d a imm => [h.word 0x009 (oSI d a imm)]
  | .andImm h d a imm => [h.word 0x00A (oSI d a imm)]
  | .orImm h d a imm => [h.word 0x00B (oSI d a imm)]
  | .xorImm h d a imm => [h.word 0x00C (oSI d a imm)]
  | .shlImm h d a c => [h.word 0x00D (oSI d a ((0 : BitVec 18) ++ c))]
  | .shrImm h d a c => [h.word 0x00E (oSI d a ((0 : BitVec 18) ++ c))]
  | .sarImm h d a c => [h.word 0x00F (oSI d a ((0 : BitVec 18) ++ c))]
  | .and h d a b => [h.word 0x010 (oS3 d a b 0)]
  | .or h d a b => [h.word 0x011 (oS3 d a b 0)]
  | .xor h d a b => [h.word 0x012 (oS3 d a b 0)]
  | .shl h d a b => [h.word 0x013 (oS3 d a b 0)]
  | .shr h d a b => [h.word 0x014 (oS3 d a b 0)]
  | .sar h d a b => [h.word 0x015 (oS3 d a b 0)]
  | .clz h d a => [h.word 0x016 (oS3 d a 0 0)]
  | .popc h d a => [h.word 0x017 (oS3 d a 0 0)]
  | .cmp h cc p a b => [h.word cc.opc (oS3 ((0 : BitVec 3) ++ p) a b 0)]
  | .sel h d a b neg p => [h.word 0x022 (oS3 d a b ((0 : BitVec 14) ++ b1 neg ++ p))]
  | .bfx h d a pos len1 => [h.word 0x023 (oS3 d a 0 ((0 : BitVec 6) ++ pos ++ len1))]
  | .bfi h d a b pos len1 => [h.word 0x024 (oS3 d a b ((0 : BitVec 6) ++ pos ++ len1))]
  | .ldi h d imm => [h.word 0x025 (oSL d imm)]
  | .ldih h d imm => [h.word 0x026 (oSL d imm)]
  | .bra idle neg p taken commit disp => [mkWord idle 0 0 0 0x028 (oBR neg p taken commit disp)]
  | .jmp h disp => [h.word 0x029 (oSL 0 disp)]
  | .call h disp => [h.word 0x02A (oSL 0 disp)]
  | .ret h => [h.word 0x02B 0]
  | .go h a b => [h.word 0x02C (oS3 0 a b 0)]
  | .join h => [h.word 0x02D 0]
  | .node h => [h.word 0x02E 0]
  | .ld h d a imm => [h.word 0x030 (oSI d a imm)]
  | .ldI8 h d a imm => [h.word 0x031 (oSI d a imm)]
  | .ldN8 h d a imm => [h.word 0x032 (oSI d a imm)]
  | .ldI16 h d a imm => [h.word 0x033 (oSI d a imm)]
  | .ldI32 h d a imm => [h.word 0x034 (oSI d a imm)]
  | .ldN32 h d a imm => [h.word 0x035 (oSI d a imm)]
  | .ldAcq h d a imm => [h.word 0x036 (oSI d a imm)]
  | .ldDom h d a imm => [h.word 0x037 (oSI d a imm)]
  | .ldAcqDom h d a imm => [h.word 0x038 (oSI d a imm)]
  | .st h d a imm => [h.word 0x039 (oSI d a imm)]
  | .stI8 h d a imm => [h.word 0x03A (oSI d a imm)]
  | .stI16 h d a imm => [h.word 0x03B (oSI d a imm)]
  | .stI32 h d a imm => [h.word 0x03C (oSI d a imm)]
  | .stRel h d a imm => [h.word 0x03D (oSI d a imm)]
  | .stDom h d a imm => [h.word 0x03E (oSI d a imm)]
  | .stRelDom h d a imm => [h.word 0x03F (oSI d a imm)]
  | .amoAdd h o d a b => [h.word (o.base + 0) (oS3 d a b 0)]
  | .amoAnd h o d a b => [h.word (o.base + 1) (oS3 d a b 0)]
  | .amoOr h o d a b => [h.word (o.base + 2) (oS3 d a b 0)]
  | .amoXor h o d a b => [h.word (o.base + 3) (oS3 d a b 0)]
  | .amoMin h o d a b => [h.word (o.base + 4) (oS3 d a b 0)]
  | .amoMax h o d a b => [h.word (o.base + 5) (oS3 d a b 0)]
  | .amoSwap h o d a b => [h.word (o.base + 6) (oS3 d a b 0)]
  | .cas h o d a b e => [h.word (o.base + 7) (oS3 d a b ((0 : BitVec 12) ++ e))]
  | .waita h a b => [h.word 0x080 (oS3 0 a b 0)]
  | .fence h => [h.word 0x081 0]
  | .msg h t a b c ssp => [h.word 0x082 (oEC t a b c ((0 : BitVec 8) ++ b1 ssp ++ (0 : BitVec 1)))]
  | .twait h t n => [h.word 0x083 (oSI ((0 : BitVec 2) ++ t) 0 ((0 : BitVec 8) ++ n))]
  | .tsig h t n => [h.word 0x084 (oSI ((0 : BitVec 2) ++ t) 0 ((0 : BitVec 8) ++ n))]
  | .wqpush h a b => [h.word 0x085 (oS3 0 a b 0)]
  | .callv h ty a g => [h.word 0x088 (oS3 0 a 0 ((0 : BitVec 11) ++ g ++ ty.code))]
  | .calla h ty a g => [h.word 0x089 (oS3 0 a 0 ((0 : BitVec 11) ++ g ++ ty.code))]
  | .fmtp h a => [h.word 0x08A (oS3 0 a 0 0)]
  | .rqp h d => [h.word 0x08B (oS3 d 0 0 0)]
  | .mbsend h a k => [h.word 0x08C (oS3 0 a 0 ((0 : BitVec 16) ++ k))]
  | .mbrecv h d => [h.word 0x08D (oS3 d 0 0 0)]
  | .mxgrp h n1 => [h.word 0x090 ((0 : BitVec 30) ++ n1)]
  | .mxldp h t a b c hi => [h.word 0x091 (oEC t a b c ((0 : BitVec 9) ++ b1 hi))]
  | .mxswp h t a b grad => [h.word 0x092 (oEC t a b 0 ((0 : BitVec 9) ++ b1 grad))]
  | .mxevp h t a => [h.word 0x093 (oEC t a 0 0 0)]
  | .mxpin h t a unpin => [h.word 0x094 (oEC t a 0 0 ((0 : BitVec 9) ++ b1 unpin))]
  | .mxmm h t a b c uni acc h1 => [h.word 0x095 (oEC t a b c ((0 : BitVec 7) ++ b1 h1 ++ b1 acc ++ b1 uni))]
  | .mxga h t a b c uni => [h.word 0x096 (oEC t a b c ((0 : BitVec 9) ++ b1 uni))]
  | .mxdrg h t a b c clr => [h.word 0x097 (oEC t a b c ((0 : BitVec 9) ++ b1 clr))]
  | .mxres h drop => [h.word 0x098 ((0 : BitVec 35) ++ b1 drop)]
  | .mxkat h t a b => [h.word 0x099 (oEC t a b 0 0)]
  | .mxtsm h t a => [h.word 0x09A (oEC t a 0 0 0)]
  | .mxdir h t a b idx => [h.word 0x09B (oEC t a b 0 ((0 : BitVec 9) ++ b1 idx))]
  | .cpy h t a b c dsp ssp => [h.word 0x0A0 (oEC t a b c ((0 : BitVec 8) ++ b1 ssp ++ b1 dsp))]
  | .cpx h t a b c dsp ssp => [h.word 0x0A1 (oEC t a b c ((0 : BitVec 8) ++ b1 ssp ++ b1 dsp))]
  | .cpk h t a b c => [h.word 0x0A2 (oEC t a b c 0)]
  | .cpq h t a b c dsp ssp => [h.word 0x0A3 (oEC t a b c ((0 : BitVec 8) ++ b1 ssp ++ b1 dsp))]
  | .cpg h t a b c dsp ssp => [h.word 0x0A4 (oEC t a b c ((0 : BitVec 8) ++ b1 ssp ++ b1 dsp))]
  | .cps h t a b c dsp ssp => [h.word 0x0A5 (oEC t a b c ((0 : BitVec 8) ++ b1 ssp ++ b1 dsp))]
  | .cpr h t a b c ssp fadd badd iadd fmax => [h.word 0x0A6
      (oEC t a b c ((0 : BitVec 4) ++ b1 fmax ++ b1 iadd ++ b1 badd ++ b1 fadd ++ b1 ssp ++ (0 : BitVec 1)))]
  | .rtacq h t a => [h.word 0x0A8 (oEC t a 0 0 0)]
  | .rtrel h d a => [h.word 0x0A9 (oS3 d a 0 0)]
  | .rtqry h d a w => [h.word 0x0AA (oS3 d a 0 ((0 : BitVec 16) ++ w))]
  | .nvq h t a b c => [h.word 0x0AB (oEC t a b c 0)]
  | .gmld h t a => [h.word 0x0B0 (oEC t a 0 0 0)]
  | .gmstep h a => [h.word 0x0B1 (oS3 0 a 0 0)]
  | .gmmask h d a g => [h.word 0x0B2 (oS3 d a 0 ((0 : BitVec 15) ++ g))]
  | .gmsave h d slot => [h.word 0x0B3 (oS3 d 0 0 ((0 : BitVec 14) ++ slot))]
  | .gmrest h d slot => [h.word 0x0B4 (oS3 d 0 0 ((0 : BitVec 14) ++ slot))]
  | .rdtsf h d i => [h.word 0x0B5 (oS3 d 0 0 ((0 : BitVec 14) ++ i))]
  | .logb h t a b => [h.word 0x0B6 (oEC t a b 0 0)]
  | .sparm h a => [h.word 0x0B8 (oS3 0 a 0 0)]
  | .spend h => [h.word 0x0B9 0]
  | .clreq h t a b => [h.word 0x0BA (oEC t a b 0 0)]
  | .clrel h a => [h.word 0x0BB (oS3 0 a 0 0)]
  | .clrd h d a i => [h.word 0x0BC (oS3 d a 0 ((0 : BitVec 15) ++ i))]
  | .trap h code => [h.word 0x0C0 (oSL 0 ((0 : BitVec 14) ++ code))]
  | .eret h => [h.word 0x0C1 0]
  | .rdsys h d n => [h.word 0x0C2 (oS3 d 0 0 ((0 : BitVec 6) ++ n))]
  | .wrsys h a n => [h.word 0x0C3 (oS3 0 a 0 ((0 : BitVec 6) ++ n))]
  | .fltrd h d w => [h.word 0x0C4 (oS3 d 0 0 ((0 : BitVec 14) ++ w))]
  | .halt h => [h.word 0x0C5 0]
  | .killj h a => [h.word 0x0C6 (oS3 0 a 0 0)]
  | .amv h t (.reg b) => [h.word 0x000 (oAM t b 0 0x10 0)]
  | .amv h t (.imm x) => [h.word 0x000 (oAM t 0 0 0x11 x)]
  | .amv h t .call => [h.word 0x000 (oAM t 0 0 0x12 0)]
  | .aadd h t b s => [encAlu h 0x001 t b s]
  | .amul h t b s => [encAlu h 0x002 t b s]
  | .ald h t b m => [encRow h 0x008 t b m]
  | .alds h t b m => [encRow h 0x009 t b m]
  | .ast h t b m => [encRow h 0x00A t b m]
  | .asts h t b m => [encRow h 0x00B t b m]
  | .agth h t b i m => [encGat h 0x00C t b i m]
  | .asct h t b i m => [encGat h 0x00D t b i m]
  | .apf h b m => [encRow h 0x00E 0 b m]
  | .astx h w t b i m => [encGat h w.opc t b i m]
  | .aldb h b f lines1 => [h.word 0x018 (oAM 0 b 0 0 (f ++ (0 : BitVec 4) ++ lines1))]
  | .awf h f => [h.word 0x019 (oAM 0 0 0 0 (f ++ (0 : BitVec 10)))]
  | .aloop h lvl count => [h.word 0x020 (oAM ((0 : BitVec 2) ++ lvl) 0 0 0 count)]
  | .aarm h n lens => [h.word 0x021 (oAM ((0 : BitVec 1) ++ n) 0 0 0 0), lens]
  | .acall h b => [h.word 0x022 (oAM 0 b 0 0 0)]
  | .accJoin h => [h.word 0x023 0]
  | .vadd h ty D A B => [h.word (0x000 + ty.slot) (oQ4 D A B 0)]
  | .vsub h ty D A B => [h.word (0x008 + ty.slot) (oQ4 D A B 0)]
  | .vmul h ty D A B => [h.word (0x010 + ty.slot) (oQ4 D A B 0)]
  | .vfma h ty D A B C => [h.word (0x018 + ty.slot) (oQ4 D A B C)]
  | .vmin h ty D A B => [h.word (0x020 + ty.slot) (oQ4 D A B 0)]
  | .vmax h ty D A B => [h.word (0x028 + ty.slot) (oQ4 D A B 0)]
  | .vabs h ty D A => [h.word (0x030 + ty.slot) (oQ4 D A 0 0)]
  | .vneg h ty D A => [h.word (0x038 + ty.slot) (oQ4 D A 0 0)]
  | .vexp2 h ty D A => [h.word (0x040 + ty.slot) (oQ4 D A 0 0)]
  | .vlog2 h ty D A => [h.word (0x048 + ty.slot) (oQ4 D A 0 0)]
  | .vrcp h ty D A => [h.word (0x050 + ty.slot) (oQ4 D A 0 0)]
  | .vrsq h ty D A => [h.word (0x058 + ty.slot) (oQ4 D A 0 0)]
  | .vtanh h ty D A => [h.word (0x060 + ty.slot) (oQ4 D A 0 0)]
  | .vsigm h ty D A => [h.word (0x068 + ty.slot) (oQ4 D A 0 0)]
  | .vand h D A B => [h.word 0x070 (oQ4 D A B 0)]
  | .vor h D A B => [h.word 0x071 (oQ4 D A B 0)]
  | .vxor h D A B => [h.word 0x072 (oQ4 D A B 0)]
  | .vmov h D A => [h.word 0x073 (oQ4 D A 0 0)]
  | .vsel h D A B k => [h.word 0x074 (oQ4 D A B (kSpec k))]
  | .viota h D k => [h.word 0x075 (oQ4 D (kSpec k) 0 0)]
  | .vshl h .i32 D A B => [h.word 0x078 (oQ4 D A B 0)]
  | .vshl h .i16 D A B => [h.word 0x079 (oQ4 D A B 0)]
  | .vshr h .i32 D A B => [h.word 0x07A (oQ4 D A B 0)]
  | .vshr h .n32 D A B => [h.word 0x07B (oQ4 D A B 0)]
  | .vshr h .i16 D A B => [h.word 0x07C (oQ4 D A B 0)]
  | .vcmp h cc ty k A B => [h.word (ty.cmpBase + cc.slot) (oQ4 (kSpec k) A B 0)]
  | .vcvt h f D A => [h.word f.opc (oQ4 D A 0 0)]
  | .vcvta h f D A m => [h.word f.opc (oQ4 D A 0 ((0 : BitVec 7) ++ m))]
  | .vcvts h f q A => [h.word f.opc (oQ4 ((0x84 : BitVec 8) ++ q) A 0 0)]
  | .vqnt h f D A => [h.word (0x0D8 + f.slot) (oQ4 D A 0 0)]
  | .vdqnt h f D A => [h.word (0x0DC + f.slot) (oQ4 D A 0 0)]
  | .vrsum h .f32 D A => [h.word 0x0E0 (oQ4 D A 0 0)]
  | .vrsum h .bf16 D A => [h.word 0x0E1 (oQ4 D A 0 0)]
  | .vrsum h .i32 D A => [h.word 0x0E2 (oQ4 D A 0 0)]
  | .vrmax h .f32 D A => [h.word 0x0E3 (oQ4 D A 0 0)]
  | .vrmax h .bf16 D A => [h.word 0x0E4 (oQ4 D A 0 0)]
  | .vrmax h .i32 D A => [h.word 0x0E5 (oQ4 D A 0 0)]
  | .vargm h .f32 D A => [h.word 0x0E6 (oQ4 D A 0 0)]
  | .vargm h .bf16 D A => [h.word 0x0E7 (oQ4 D A 0 0)]
  | .vamxr h D m => [h.word 0x0E8 (oQ4 D 0 0 (kSpec m))]
  | .vperm h D A B => [h.word 0x0E9 (oQ4 D A B 0)]
  | .vrot h D A n => [h.word 0x0EA (oQ4 D A n 0)]
  | .vlpsh h A => [h.word 0x0EB (oQ4 0 A 0 0)]
  | .vlpop h D k => [h.word 0x0EC (oQ4 D 0 0 (kSpec k))]
  | .vlcnt h D => [h.word 0x0ED (oQ4 D 0 0 0)]
  | .vrng h D none => [h.word 0x0EE (oQ4 D 0 0 0)]
  | .vrng h D (some A) => [h.word 0x0EE (oQ4 D A 1 0)]
  | .vshrt h .f32 D A B C => [h.word 0x0F0 (oQ4 D A B C)]
  | .vshrt h .bf16 D A B C => [h.word 0x0F1 (oQ4 D A B C)]
  | .vmsk h k => [h.word 0x0F2 (oQ4 (kSpec k) 0x10A 0 0)]
  | .vkand h kd ka kb => [h.word 0x0F3 (oQ4 (kSpec kd) (kSpec ka) (kSpec kb) 0)]
  | .vkor h kd ka kb => [h.word 0x0F4 (oQ4 (kSpec kd) (kSpec ka) (kSpec kb) 0)]
  | .vknot h kd ka => [h.word 0x0F5 (oQ4 (kSpec kd) (kSpec ka) 0 0)]
  | .vkpop h D k => [h.word 0x0F6 (oQ4 D (kSpec k) 0 0)]
  | .vrank h D A B => [h.word 0x0F8 (oQ4 D A B 0)]
  | .vselb h D A B => [h.word 0x0F9 (oQ4 D A B 0)]
  | .vloop h lvl count1 step => [h.word 0x100 (oQ4 (kSpec lvl) count1 step 0)]
  | .varm h n lens => [h.word 0x101 (oQ4 ((0 : BitVec 5) ++ n) 0 0 0), lens]
  | .vecJoin h => [h.word 0x102 0]
  | .watchWake .. | .spuriousWake .. | .grammarDescriptorLoad .. | .loadBlockFill .. | .noteCallDiscard .. |
    .hamsWrite .. | .actWrite .. | .wqEnable .. | .wqSuspend .. | .wqResume .. | .wqDisable .. | .zoneEvacuate .. |
    .zoneRefill .. | .zoneClearFault .. | .pd0Write .. | .keyLoad .. | .seedLoad .. | .keyErase .. |
    .invalidatePage .. | .invalidateAll .. | .wayLend .. | .wayReturn .. | .wprOwnerSet .. | .lendComplete .. |
    .returnComplete .. | .forcedEviction .. | .binStep .. | .binRetest .. | .binRetire .. | .serviceCoreRestart .. |
    .hagtWrite .. | .launchPacket .. | .fencePacket .. | .fenceRecheck .. | .signalPacket .. | .nodePacket .. |
    .logbPacket .. | .iterationPlace .. | .walkerGo .. | .iterationReplace .. | .jobRetire .. | .retireCounterAdd .. |
    .budgetWarning .. | .budgetExhausted .. | .messageArrival .. | .sporeStart .. | .matrixCommandStart .. |
    .leaseGrant .. | .groupWaitLimit .. | .tileLineArrival .. | .shadowFull .. | .rowEntry .. | .rowDrain .. |
    .matrixCommandComplete .. | .tsfVisible .. | .mxkatTimeout .. | .knownAnswerSlot .. | .copyCommandStart .. |
    .copyChunk .. | .copyComplete .. | .residencyFillComplete .. | .randomBlock .. | .remoteStoreAck .. |
    .remoteAccess .. | .flitRetry .. | .pageWalkComplete .. | .allocatorServe .. | .sensorSample .. |
    .settleTimeout .. | .flowFaultTimeout .. | .evacuationKillTimeout .. | .evacuationStepEnd .. |
    .dryConfirmTimeout .. | .refillReserve .. | .refillPrimeEnd .. | .hostTimeout .. | .hostLinkDown |
    .hostCompletion .. | .handlerDelivery .. | .cutSample .. | .cutTimeout .. | .serviceTrap .. |
    .uncorrectableError .. | .correctedError .. | .correctionReport .. | .binSettle .. | .knownAnswerBattery .. |
    .reset | .bootStage | .diePass .. | .fullService | .pcieLinkChange .. | .requestArrival .. | .requestReply .. |
    .refillPurgeValveClosed .. | .mailboxWordAvailable .. | .dieTestFail .. => []

/-- The map that holds the instruction; events are in none. -/
def Instr.map (i : Instr) : Option OpMap :=
  match i with
  | .add .. | .addImm .. | .sub .. | .mul .. | .mulImm .. | .mulh .. | .div .. | .rem .. | .min .. | .max .. |
    .and .. | .andImm .. | .or .. | .orImm .. | .xor .. | .xorImm .. | .shl .. | .shlImm .. | .shr .. | .shrImm .. |
    .sar .. | .sarImm .. | .clz .. | .popc .. | .cmp .. | .sel .. | .bfx .. | .bfi .. | .ldi .. | .ldih .. | .bra .. |
    .jmp .. | .call .. | .ret .. | .go .. | .join .. | .node .. | .ld .. | .ldI8 .. | .ldN8 .. | .ldI16 .. |
    .ldI32 .. | .ldN32 .. | .ldAcq .. | .ldDom .. | .ldAcqDom .. | .st .. | .stI8 .. | .stI16 .. | .stI32 .. |
    .stRel .. | .stDom .. | .stRelDom .. | .amoAdd .. | .amoAnd .. | .amoOr .. | .amoXor .. | .amoMin .. |
    .amoMax .. | .amoSwap .. | .cas .. | .waita .. | .fence .. | .msg .. | .twait .. | .tsig .. | .wqpush .. |
    .callv .. | .calla .. | .fmtp .. | .rqp .. | .mbsend .. | .mbrecv .. | .mxgrp .. | .mxldp .. | .mxswp .. |
    .mxevp .. | .mxpin .. | .mxmm .. | .mxga .. | .mxdrg .. | .mxres .. | .mxkat .. | .mxtsm .. | .mxdir .. |
    .cpy .. | .cpx .. | .cpk .. | .cpq .. | .cpg .. | .cps .. | .cpr .. | .rtacq .. | .rtrel .. | .rtqry .. |
    .nvq .. | .gmld .. | .gmstep .. | .gmmask .. | .gmsave .. | .gmrest .. | .rdtsf .. | .logb .. | .sparm .. |
    .spend .. | .clreq .. | .clrel .. | .clrd .. | .trap .. | .eret .. | .rdsys .. | .wrsys .. | .fltrd .. |
    .halt .. | .killj .. => some .cox
  | .amv .. | .aadd .. | .amul .. | .ald .. | .alds .. | .ast .. | .asts .. | .agth .. | .asct .. | .apf .. |
    .astx .. | .aldb .. | .awf .. | .aloop .. | .aarm .. | .acall .. | .accJoin .. => some .acc
  | .vadd .. | .vsub .. | .vmul .. | .vfma .. | .vmin .. | .vmax .. | .vabs .. | .vneg .. | .vexp2 .. | .vlog2 .. |
    .vrcp .. | .vrsq .. | .vtanh .. | .vsigm .. | .vand .. | .vor .. | .vxor .. | .vmov .. | .vsel .. | .viota .. |
    .vshl .. | .vshr .. | .vcmp .. | .vcvt .. | .vcvta .. | .vcvts .. | .vqnt .. | .vdqnt .. | .vrsum .. | .vrmax .. |
    .vargm .. | .vamxr .. | .vperm .. | .vrot .. | .vlpsh .. | .vlpop .. | .vlcnt .. | .vrng .. | .vshrt .. |
    .vmsk .. | .vkand .. | .vkor .. | .vknot .. | .vkpop .. | .vrank .. | .vselb .. | .vloop .. | .varm .. |
    .vecJoin .. => some .vec
  | .watchWake .. | .spuriousWake .. | .grammarDescriptorLoad .. | .loadBlockFill .. | .noteCallDiscard .. |
    .hamsWrite .. | .actWrite .. | .wqEnable .. | .wqSuspend .. | .wqResume .. | .wqDisable .. | .zoneEvacuate .. |
    .zoneRefill .. | .zoneClearFault .. | .pd0Write .. | .keyLoad .. | .seedLoad .. | .keyErase .. |
    .invalidatePage .. | .invalidateAll .. | .wayLend .. | .wayReturn .. | .wprOwnerSet .. | .lendComplete .. |
    .returnComplete .. | .forcedEviction .. | .binStep .. | .binRetest .. | .binRetire .. | .serviceCoreRestart .. |
    .hagtWrite .. | .launchPacket .. | .fencePacket .. | .fenceRecheck .. | .signalPacket .. | .nodePacket .. |
    .logbPacket .. | .iterationPlace .. | .walkerGo .. | .iterationReplace .. | .jobRetire .. | .retireCounterAdd .. |
    .budgetWarning .. | .budgetExhausted .. | .messageArrival .. | .sporeStart .. | .matrixCommandStart .. |
    .leaseGrant .. | .groupWaitLimit .. | .tileLineArrival .. | .shadowFull .. | .rowEntry .. | .rowDrain .. |
    .matrixCommandComplete .. | .tsfVisible .. | .mxkatTimeout .. | .knownAnswerSlot .. | .copyCommandStart .. |
    .copyChunk .. | .copyComplete .. | .residencyFillComplete .. | .randomBlock .. | .remoteStoreAck .. |
    .remoteAccess .. | .flitRetry .. | .pageWalkComplete .. | .allocatorServe .. | .sensorSample .. |
    .settleTimeout .. | .flowFaultTimeout .. | .evacuationKillTimeout .. | .evacuationStepEnd .. |
    .dryConfirmTimeout .. | .refillReserve .. | .refillPrimeEnd .. | .hostTimeout .. | .hostLinkDown |
    .hostCompletion .. | .handlerDelivery .. | .cutSample .. | .cutTimeout .. | .serviceTrap .. |
    .uncorrectableError .. | .correctedError .. | .correctionReport .. | .binSettle .. | .knownAnswerBattery .. |
    .reset | .bootStage | .diePass .. | .fullService | .pcieLinkChange .. | .requestArrival .. | .requestReply .. |
    .refillPurgeValveClosed .. | .mailboxWordAvailable .. | .dieTestFail .. => none

end Sys2Proof
end

