-- ==== Sys2Proof/Machine/Bytes.lean ====
section
/-! DEFINITION. Machine/Bytes.lean: little-endian bytes (R8). -/

namespace Sys2Proof.Machine

/-- The bytes of `x`, lowest first. -/
def bytesLE : Nat → Nat → List Byte
  | 0, _ => []
  | n + 1, x => BitVec.ofNat 8 x :: bytesLE n (x / 256)

/-- The number whose bytes are given, lowest first. -/
def natLE : List Byte → Nat
  | [] => 0
  | b :: r => b.toNat + 256 * natLE r

def wordLE (l : List Byte) : Word := BitVec.ofNat 64 (natLE l)

end Sys2Proof.Machine
end

