-- ==== Sys2Proof/Machine/Aes.lean ====
section
/-! DEFINITION. Machine/Aes.lean: one block of AES-256 (FIPS 197), which R184 names for the random draws, its inverse, and
AES-XTS-256 over a line (R357). The S-box is computed from its definition: the inverse in GF(2^8) followed by the affine
map. -/

namespace Sys2Proof.Machine

/-- Multiplication by x in GF(2^8) with the polynomial 0x11B. -/
def gfDouble (a : Byte) : Byte := if a.getLsbD 7 then (a <<< 1) ^^^ 0x1B else a <<< 1

/-- Multiplication in GF(2^8), over the low `k` bits of `b`. -/
def gfMulBits : Nat → Byte → Byte → Byte
  | 0, _, _ => 0
  | k + 1, a, b => (if b.getLsbD 0 then a else 0) ^^^ gfMulBits k (gfDouble a) (b >>> 1)

def gfMul (a b : Byte) : Byte := gfMulBits 8 a b

def gfSquare (a : Byte) : Byte := gfMul a a

/-- The inverse, a^254; 0 for 0. -/
def gfInv (a : Byte) : Byte :=
  let a2 := gfSquare a
  let a3 := gfMul a2 a
  let a12 := gfSquare (gfSquare a3)
  let a15 := gfMul a12 a3
  let a240 := gfSquare (gfSquare (gfSquare (gfSquare a15)))
  gfMul (gfMul a240 a12) a2

def sbox (a : Byte) : Byte :=
  let b := gfInv a
  b ^^^ b.rotateLeft 1 ^^^ b.rotateLeft 2 ^^^ b.rotateLeft 3 ^^^ b.rotateLeft 4 ^^^ 0x63

def xorBytes (a b : List Byte) : List Byte := List.zipWith (· ^^^ ·) a b

/-! ## Key expansion: 60 words of 4 bytes -/

/-- Word `i` of the schedule from the eight words before it, the newest first. -/
def nextKeyWord (i : Nat) (rcon : Byte) (ws : List (List Byte)) : List Byte :=
  let prev := ws.getD 0 []
  let t :=
    if i % 8 = 0 then
      let r := (prev.drop 1 ++ prev.take 1).map sbox
      xorBytes r [rcon, 0, 0, 0]
    else if i % 8 = 4 then prev.map sbox
    else prev
  xorBytes (ws.getD 7 []) t

/-- The schedule, newest word first, after `k` more words from number `i` on. -/
def expandKey : Nat → Nat → Byte → List (List Byte) → List (List Byte)
  | 0, _, _, ws => ws
  | k + 1, i, rcon, ws =>
    expandKey k (i + 1) (if i % 8 = 0 then gfDouble rcon else rcon) (nextKeyWord i rcon ws :: ws)

/-- The 15 round keys of 16 bytes. -/
def roundKeys (key : List Byte) : List (List Byte) :=
  let first := ((List.range 8).map fun i => (key.drop (4 * i)).take 4).reverse
  let ws := (expandKey 52 8 1 first).reverse
  (List.range 15).map fun r => ((ws.drop (4 * r)).take 4).flatten

/-! ## Rounds. Byte r + 4c of the state stands in row r and column c. -/

def shiftRows (s : List Byte) : List Byte :=
  (List.range 16).map fun i => s.getD ((i % 4) + 4 * ((i / 4 + i % 4) % 4)) 0

def mixColumn (c : List Byte) : List Byte :=
  let g := fun i => c.getD (i % 4) 0
  (List.range 4).map fun i => gfDouble (g i) ^^^ gfMul 3 (g (i + 1)) ^^^ g (i + 2) ^^^ g (i + 3)

def mixColumns (s : List Byte) : List Byte := (List.range 4).flatMap fun c => mixColumn ((s.drop (4 * c)).take 4)

def aesRound (last : Bool) (s k : List Byte) : List Byte :=
  let t := shiftRows (s.map sbox)
  xorBytes (if last then t else mixColumns t) k

/-- The rounds after the first round key. -/
def aesRounds : List Byte → List (List Byte) → List Byte
  | s, [] => s
  | s, [k] => aesRound true s k
  | s, k :: r => aesRounds (aesRound false s k) r

/-- AES-256 of one block of 16 bytes under a key of 32 bytes. -/
def aes256 (key block : List Byte) : List Byte :=
  match roundKeys key with
  | [] => block
  | k :: r => aesRounds (xorBytes block k) r

/-! ## The inverse -/

def invSbox (a : Byte) : Byte := gfInv (a.rotateLeft 1 ^^^ a.rotateLeft 3 ^^^ a.rotateLeft 6 ^^^ 0x05)

def invShiftRows (s : List Byte) : List Byte :=
  (List.range 16).map fun i => s.getD ((i % 4) + 4 * ((i / 4 + 4 - i % 4) % 4)) 0

def invMixColumn (c : List Byte) : List Byte :=
  let g := fun i => c.getD (i % 4) 0
  (List.range 4).map fun i => gfMul 14 (g i) ^^^ gfMul 11 (g (i + 1)) ^^^ gfMul 13 (g (i + 2)) ^^^ gfMul 9 (g (i + 3))

def invMixColumns (s : List Byte) : List Byte := (List.range 4).flatMap fun c => invMixColumn ((s.drop (4 * c)).take 4)

/-- One round undone: the round key, the columns unless the round is the last of the cipher, the rows, the S-box. -/
def aesUnround (last : Bool) (s k : List Byte) : List Byte :=
  let t := xorBytes s k
  (invShiftRows (if last then t else invMixColumns t)).map invSbox

/-- The rounds undone, from the last round key on; the remaining key is the first one. -/
def aesUnrounds (last : Bool) : List Byte → List (List Byte) → List Byte
  | s, [] => s
  | s, [k] => xorBytes s k
  | s, k :: r => aesUnrounds false (aesUnround last s k) r

/-- The inverse of `aes256`. -/
def aes256Inv (key block : List Byte) : List Byte := aesUnrounds true block (roundKeys key).reverse

/-! ## AES-XTS-256 over a 128-byte line (R346, R357) -/

/-- Multiplication by x in GF(2^128), byte 0 of a block holding its lowest bits (PRESUMED, assumption log 87: the usual
reading of XTS). -/
def xtsDouble (t : BitVec 128) : BitVec 128 := if t.getLsbD 127 then (t <<< 1) ^^^ 0x87 else t <<< 1

/-- The tweaks of blocks 0 to k - 1. -/
def xtsTweaks : Nat → BitVec 128 → List (BitVec 128)
  | 0, _ => []
  | k + 1, t => t :: xtsTweaks k (xtsDouble t)

/-- One line under `cipher`: the data key is the low half of the 512-bit key and the tweak key the high half, and the tweak
is the line number (PRESUMED, assumption log 87). -/
def xtsLine (cipher : List Byte → List Byte → List Byte) (key : BitVec 512) (num : Nat) (l : List Byte) : List Byte :=
  let k1 := bytesLE 32 key.toNat
  let k2 := bytesLE 32 (key.toNat / 2 ^ 256)
  let t0 := BitVec.ofNat 128 (natLE (aes256 k2 (bytesLE 16 num)))
  ((xtsTweaks 8 t0).zipIdx).flatMap fun x =>
    let t := bytesLE 16 x.1.toNat
    xorBytes (cipher k1 (xorBytes ((l.drop (16 * x.2)).take 16) t)) t

def xtsEncrypt (key : BitVec 512) (num : Nat) (l : List Byte) : List Byte := xtsLine aes256 key num l
def xtsDecrypt (key : BitVec 512) (num : Nat) (l : List Byte) : List Byte := xtsLine aes256Inv key num l

end Sys2Proof.Machine
end

