-- ==== Sys2Proof/Machine/State.lean ====
section
/-! DEFINITION. Machine/State.lean: all the state the spec gives the machine, as plain data, and the machine after
reset. The model's own fields are `sched`, `cur`, `slow` and `free` (DESIGN CHOICE, assumption logs 1, 2
and 89). -/

namespace Sys2Proof.Machine

/-- Reasons for which a run stops. There are none: every fault of the spec is a record in the state that a handler or a
supervisor takes (R367 to R377), and every step of the spec leaves a next state. -/
inductive Fault
deriving DecidableEq, Repr

/-- Reasons for which a step is refused. -/
inductive Refusal where
  /-- Raised by a dispatch arm whose instruction has no meaning yet. Safe: the machine stops where the device goes on. -/
  | notModelled (mnemonic : String)
deriving DecidableEq, Repr

/-- One turn of the machine: a thread's local cycle, one event of the opcode table, or the passing of one package
cycle (DESIGN CHOICE, assumption log 1). In a `slow` turn a plain load of the cox performs late, and a row access of the
access stream performs one piece only; in a slow turn of an event the parser reads one piece of its packet or record only
(R279, R280; DESIGN CHOICE, assumption log 89). -/
inductive Turn where
  | thread (t : Thread)
  | slow (t : Thread)
  | event (i : Instr)
  | slowEvent (i : Instr)
  | cycle
deriving DecidableEq, Repr

/-! ## Memory -/

/-- Bytes of memory by physical address, in rising order, without an entry that equals what an unlisted address reads
as (DESIGN CHOICE, assumption log 4). -/
abbrev Memory := List Host.Cell

/-- A device thread that waits for a word to change (R288, R203). -/
structure Watch where
  who : Thread
  /-- A FENCE packet's watch: the queue, 16p + q; the thread field then says nothing. -/
  fence : Option Nat
  addr : Nat
  /-- The word's virtual address, for a fault of the load at its wake. -/
  va : Word
  /-- The cycle of the first store that changed the word (R288). -/
  hit : Option Nat
  /-- A store went to another word of the line, or restored the word's value (R289). -/
  touched : Bool
deriving DecidableEq, Repr

/-! ## Fault records (R371) -/

/-- What a poisoned shadow keeps (R216). -/
structure Poison where
  pc : Word
  addr : Word
  cls : Byte
  sub : Byte
deriving DecidableEq, Repr

/-- The unit a record is about (Table 16.1, STREAM). -/
inductive Unit where
  | cox | acc | vec | mxq | cpq
  | spore (k : Nat)
  | service
  | none
deriving DecidableEq, Repr

/-- A fault record (Table 16.1), with what the delivery rules need beside its words. -/
structure Record where
  cls : Byte
  sub : Byte
  unit : Unit
  part : BitVec 6
  core : Byte
  ctx : BitVec 2
  rst : Bool
  pc : Word
  addr : Word
  w3 : Word
  /-- Push and pop counts of the twelve queues, in the order of W4 to W9. -/
  cut : List (BitVec 16 × BitVec 16)
  tok : List (BitVec 16)
  cutv : Bool
  set : Bool
  budg : BitVec 40
  psv : BitVec 7
  /-- The home the record came from: a job's number, or 1024 + n for service core n. -/
  home : Nat
  /-- The number of the job's GO, by which a later action sees whether its job has ended (R380). -/
  gen : Nat
  /-- The cycle of the stop (R368, R370). -/
  at_ : Nat
  /-- The record of a pending counter add (R197). -/
  addPending : Bool
  /-- The sequence number of the service core's engine thread that the record is about (R331). -/
  thread : Option Nat
deriving DecidableEq, Repr

/-! ## Streams -/

/-- What a stream is doing. `parked` is a WAITA's wait (R288), `crashed` the halt of R377. -/
inductive Status where
  | off | ready | stopped | joined | parked | halted | crashed
deriving DecidableEq, Repr

/-- The program counter of a stream and its issue clock: `since` counts the local cycles since its previous issue
(R207); `hold` is the least count that a branch against its assumption leaves to the next word (R239); `occ` counts the local
cycles for which that issue occupies the stream after its own (R183); `ran` is the
cycle of its clock in which it had its latest turn, plus 1: a stream has one turn in a cycle. -/
structure Stream where
  pc : Word
  since : Nat
  hold : Nat
  occ : Nat
  ran : Nat
  status : Status
deriving DecidableEq, Repr

def Stream.reset : Stream := { pc := 0, since := 0, hold := 0, occ := 0, ran := 0, status := .off }

/-- A shadow of a register or predicate (R216). -/
structure Shadow where
  value : Word
  poison : Option Poison
deriving DecidableEq, Repr

/-- A plain load that has issued and has not performed yet (R280): its destination, its address, the bytes that it reads and
whether it sign-extends. -/
structure Late where
  dst : SReg
  addr : Nat
  size : Nat
  signed : Bool
deriving DecidableEq, Repr

/-- A cox stream: the cox of a job context, a spore or a service core. `sh1` and `sh2` number the shadow of register n
as n and of predicate p as 64 + p. -/
structure Cox where
  run : Stream
  regs : Tab Word
  preds : BitVec 8
  sh1 : Tab (Option Shadow)
  sh2 : Tab (Option Shadow)
  /-- The return stack, newest entry first (R241). -/
  stack : List Word
  /-- Plain loads that have issued and not performed, the oldest first (R280). -/
  late : List Late
deriving DecidableEq, Repr

def Cox.reset : Cox :=
  { run := Stream.reset, regs := [], preds := 0, sh1 := [], sh2 := [], stack := [], late := [] }

/-- An open loop level (R212 to R214): the body runs from `first` up to `last`; `strides` are the a-registers and the
bytes added at an iteration's end, `saved` the registers' values at the opening; `win` is VLOOP's window step. -/
structure Level where
  num : Nat
  first : Word
  last : Word
  idx : Nat
  trip : Nat
  win : Int
  strides : List (Nat × Word)
  saved : List (Nat × Word)
deriving DecidableEq, Repr

/-- An armed block in progress: the chosen arm ends before `stop`, and the stream goes on at `resume` (R215). -/
structure Armed where
  stop : Word
  resume : Word
deriving DecidableEq, Repr

/-- An open loop body or armed block. -/
inductive Frame where
  | loop (l : Level)
  | arm (a : Armed)
deriving DecidableEq, Repr

/-- The words that a replay-buffer share holds, by address: the word and the one after it, which an arm-length word uses
(R21, R212). -/
abbrev Buffer := Tab (Option (Word × Word))

/-- A row access in progress (R279): where its pieces lie that have still to perform, with their sizes and the addresses by
which the word names them; the bytes that the performed ones have read, or that those still to perform write; the lines
that they have brought into the crew's L2 slice (R309). -/
structure Moving where
  left : List (Nat × Nat)
  vas : List Word
  bytes : List Byte
  locked : List Nat
deriving DecidableEq, Repr

/-- An access stream. `taken` holds the rows that an ASTX in progress has popped (R311). -/
structure Acc where
  run : Stream
  regs : Tab Word
  preds : BitVec 8
  flags : BitVec 64
  /-- Open bodies and armed blocks, the innermost first. -/
  frames : List Frame
  taken : List (Option Row)
  moving : Option Moving
  buffer : Buffer
deriving DecidableEq, Repr

def Acc.reset : Acc :=
  { run := Stream.reset, regs := [], preds := 0, flags := BitVec.allOnes 64, frames := [], taken := [], moving := none,
    buffer := [] }

/-- A vector stream. k0 reads as all ones whatever the table holds (R150). -/
structure Vec where
  run : Stream
  masks : Tab Mask
  /-- Open bodies and armed blocks, the innermost first. -/
  frames : List Frame
  buffer : Buffer
deriving DecidableEq, Repr

def Vec.reset : Vec := { run := Stream.reset, masks := [], frames := [], buffer := [] }

/-! ## Queues and engine commands -/

/-- An entry of cqv or cqa (R50). -/
structure Call where
  ty : CallTy
  payload : Word
  g : BitVec 3
deriving DecidableEq, Repr

/-- The name of an engine thread at its home: the number of its job there, its number in its queue since GO, and whether the
queue is the mxq (R119, R316). -/
structure EngId where
  gen : Nat
  seq : Nat
  mx : Bool
deriving DecidableEq, Repr

/-- An engine command as it was issued: its code and modifier bits, its token fields, the values of its registers, the
word's address, the stream that forked it, its number and the number of its job (R47, R118, R316). -/
structure Cmd where
  opc : BitVec 9
  tok : Tok
  a : Word
  b : Word
  c : Word
  mods : BitVec 10
  pc : Word
  forker : Thread
  seq : Nat
  gen : Nat
deriving DecidableEq, Repr

/-- The lines that an engine thread has stored to and that no join has brought into SIG yet: the stream that forked it, its
name, its sig token (R292). -/
structure ForkSig where
  who : Thread
  eng : EngId
  tok : Nat
  sig : BitVec 1024
deriving DecidableEq, Repr

/-- What a started copy command waits for. -/
inductive CopyPhase where
  /-- A service core's thread that met a fault in its first step, and takes it again (R331). -/
  | starting
  /-- A CPG or CPS that reads its list (R326). -/
  | list
  | moving
  /-- A MSG whose payload has been read, at the port for spore `k` of job `j` and waiting for it to be ARMED (R329). -/
  | message (j k : Nat)
  /-- The payload of a MSG is in its spore's scratchpad range or on its way there; one piece per chunk (R329). -/
  | deliver (j k : Nat)
  /-- An RTACQ that counted its reference and waits for the fill, or waits for ABSENT (R335). -/
  | fill | evicting
  /-- The fill itself, made by this command (R335). -/
  | filling
  /-- An NVQ that reads its entry piece by piece (R337). -/
  | entry
  /-- An NVQ or a fill that the host completes (R337, Table 1.8). -/
  | host (id : Nat)
  | done
deriving DecidableEq, Repr

/-- A word in a mailbox: the cycle of its MBSEND, whether it has become available before its 24 cycles (R248), and whether an
uncorrectable error has poisoned it (R388). -/
structure Mail where
  value : Word
  at_ : Nat
  ready : Bool
  bad : Bool
deriving DecidableEq, Repr

/-- A started copy command: how far it is, its status so far, its data in flight; `mark` is the number of bytes that it had
moved when its current chunk began (R317). -/
structure Copy where
  cmd : Cmd
  /-- The partition and the number of the job that started it: a fill outlives its job (R330). -/
  part : Nat
  gen : Nat
  phase : CopyPhase
  /-- Bytes to write, bytes written. -/
  total : Nat
  pos : Nat
  mark : Nat
  st : BitVec 4
  /-- Bytes read and not yet used; CPQ's codes not yet written. -/
  buf : List Byte
  out : List Byte
  /-- What the command has read of its list (CPG, CPS), its scales and block status (CPQ), its entry (RTACQ). -/
  tail : List Nat
  /-- A fault stopped it before piece `pos` (R321, R331). -/
  stopped : Bool
deriving DecidableEq, Repr

/-- The fill of a residency entry, which outlives its job (R330). -/
def Copy.isFill (x : Copy) : Bool :=
  match x.phase with
  | .filling => true
  | .host _ => x.cmd.opc == 0x0A8
  | _ => false

/-- An ALDB fill or the block it left (R313); `held` are the physical numbers of its lines. -/
structure Block where
  flag : Nat
  addr : Word
  lines : Nat
  held : List Nat
  filled : Bool
deriving DecidableEq, Repr

/-- The automaton of a grammar unit (R250 to R256). The counts are NS, NCLS and NCH themselves. -/
structure Grammar where
  loaded : Bool
  ns : Nat
  ncls : Nat
  nch : Nat
  cls : Word
  tt : Word
  mt : Word
  ft : Word
  state : BitVec 12
  stack : List (BitVec 12)
  snaps : Tab (Option (BitVec 12 × List (BitVec 12)))
  /-- The mask cache by state[5:0]: state, chunk, mask, FT word (R254). -/
  cache : Tab (Option (BitVec 12 × Nat × BitVec 512 × Word))
  /-- The GMLD in progress. -/
  load : Option Cmd
deriving DecidableEq, Repr

def Grammar.reset : Grammar :=
  { loaded := false, ns := 0, ncls := 0, nch := 0, cls := 0, tt := 0, mt := 0, ft := 0, state := 0, stack := [],
    snaps := [], cache := [], load := none }

/-- The state of one spore context (Table 8.11). -/
inductive SporeState where
  | idle | armed | filling | running
deriving DecidableEq, Repr

structure Spore where
  state : SporeState
  tag : BitVec 16
deriving DecidableEq, Repr

/-! ## Jobs -/

/-- The parts of a loop-nest record that the walker keeps (Table 8.1). -/
structure Nest where
  addr : Word
  part : Nat
  queue : Nat
  ring : Nat
  mbtag : BitVec 16
  cool : Nat
  spores : Nat
  share : Nat
  group : Nat
  tier : Nat
  levels : Nat
  spad : Nat
  accRows : Nat
  budget : Nat
  ctl : Word
  acc : Word
  vec : Word
  handler : Word
  counter : Word
  trips : List Nat
  ranks : List Nat
  save : Word
deriving DecidableEq, Repr

/-- A switched-out iteration, as the walker keeps it for re-placement: where its save image lies, and what is left of its
budget (R226, R227). -/
structure Image where
  addr : Word
  left : Nat
deriving DecidableEq, Repr

/-- How far a resident job is: placed and waiting for its GO; running; ended, with its counter add still to perform; after
the add, in the last cycle before its context returns to the walker (R196, R197). -/
inductive Phase where
  | placed (at_ : Nat)
  | running
  | ending
  | left
deriving DecidableEq, Repr

/-- A resident job: its record, its iteration, its place on the core, its budget (R22, R196, R206, R228). -/
structure Job where
  nest : Nest
  seq : Nat
  image : Option Image
  spadBase : Nat
  spadLen : Nat
  accBase : Nat
  phase : Phase
  owned : Nat
  budget : Nat
  warned : Bool
  killed : Bool
deriving DecidableEq, Repr

/-! ## The frond array -/

/-- What the tile fetch unit has read for one entry of a command (R101, R102, R124): the row or token number, its
handle, the bytes of its x row and dy row, its row scales and its kblock scales, and the lines read, each by its virtual and
its physical number. -/
structure Fetch where
  idx : Nat
  handle : BitVec 16
  x : List Byte
  dy : List Byte
  rs : BitVec 32
  sdy : BitVec 32
  ea : List Byte
  lines : List (Nat × Nat)
deriving DecidableEq, Repr

/-- The pieces of the next entry that the tile fetch unit has read so far (R101, R279): the row or token number, its
handle once it is known, the pieces of the handle or of the operands that have still to be read, and the bytes and lines
of those read. -/
structure Fetching where
  idx : Nat
  handle : Option Nat
  left : List (Word × Nat)
  bytes : List Byte
  lines : List (Nat × Nat)
deriving DecidableEq, Repr

/-- A matrix command that has reached the head: entries passed and to pass, the first cycle in which it may complete, its
status and TSF bits so far, for MXDIR and MXDRG the values to store and the stores made, and the operand lines that it has
fetched and not consumed (R101, R119 to R144). -/
structure Mx where
  cmd : Cmd
  /-- The wait token has been taken; the checks have been made (R119, R120). -/
  tookTok : Bool
  began : Bool
  fmt : Word
  pos : Nat
  rows : Nat
  due : Nat
  status : BitVec 4
  handle : BitVec 16
  nan : Bool
  inf : Bool
  ovf : Bool
  iev : Bool
  rpl : Bool
  sum : Word
  out : List Word
  stored : Nat
  pins : List (Nat × Nat)
  /-- A replayed command that had completed before: it signals nothing (R112). -/
  again : Bool
  /-- It has completed while its padding rows still enter (R92). -/
  finished : Bool
  /-- It has left the head, and a privileged fault keeps its load or stores from performing (R135, R142). -/
  stopped : Bool
deriving DecidableEq, Repr

/-- How the mxq is stopped (R147, R148). -/
inductive MxStop where
  | miss | format | privileged
deriving DecidableEq, Repr

/-- A stopped command: how it stopped, until MXRES; the cycle of the stop; whether misses were the host's then (R34); the
commands and format words placed ahead of it (R147); a selector miss has raised its record (R96). -/
structure Held where
  mx : Mx
  stop : Option MxStop
  at_ : Nat
  host : Bool
  code : Byte
  told : Bool
  ahead : Nat
  fqAhead : Nat
deriving DecidableEq, Repr

/-- A row of an open replay window, kept for re-entry; a null row met no slot (R111, R112). -/
structure KeptRow where
  cmd : Cmd
  fmt : Word
  fetch : Fetch
  slot : Option Nat
deriving DecidableEq, Repr

/-- A replay window: the cycle of its opening, the named rows, the commands that have left the head since, the MXMM rows
that have entered, and whether a replay of it is in progress (R111 to R113). -/
structure Window where
  openAt : Nat
  first : Nat
  count : Nat
  left : Nat
  kept : List KeptRow
  replaying : Bool
deriving DecidableEq, Repr

/-- A replay in progress, which goes on to its end although its window may close meanwhile: the named rows, all the rows that
enter again, those still to enter, the first cycle in which one may, and whether the named rows have been zeroed (R112). -/
structure Redo where
  first : Nat
  count : Nat
  rows : List KeptRow
  left : List KeptRow
  from_ : Nat
  zeroed : Bool
deriving DecidableEq, Repr

/-- What an entry in flight does at its drain cycle. -/
inductive FlightKind where
  | mm | ga | kat | tsm
deriving DecidableEq, Repr

/-- An entry in flight: its drain cycle, its job and command, its row, and for an MXMM row its 256 results as 32-bit
values (R93, R107). `slot` is the plane slot that it met, `iev` marks a row that met an error there (R388), `dead` rows that
write nothing (R112, R149). -/
structure Flight where
  due : Nat
  kind : FlightKind
  job : Nat
  gen : Nat
  cmd : Cmd
  fmt : Word
  row : Nat
  slot : Option Nat
  res : Row
  ovf : Bool
  iev : Bool
  dead : Bool
deriving DecidableEq, Repr

/-- A plane slot: 65,536 weight bytes, cell (k, n) at 8(256k + n); 2-bit indices at 2(256k + n); the column-scale store,
cs[n] at 32n and eb[b][n] at 8(256b + n) (R83, R84, R127). -/
structure Plane where
  w : BitVec 524288
  idx : BitVec 131072
  cs : BitVec 8192
  eb : BitVec 32768
deriving DecidableEq, Repr

def Plane.reset : Plane := { w := 0, idx := 0, cs := 0, eb := 0 }

/-- A lease (R98, R99): its holder, its commands and rows; under MXGRP the commands left, the rows entered since, and the
cycles in which the head has waited. -/
structure Lease where
  job : Nat
  cmds : Nat
  rows : Nat
  group : Option Nat
  groupRows : Nat
  waited : Nat
deriving DecidableEq, Repr

/-- The MXLDP that fills the shadow slot (R127), with the pieces of its image that it has still to read and the bytes
and lines of those that it has read (R101, R279). -/
structure Load where
  job : Nat
  gen : Nat
  cmd : Cmd
  fmt : Word
  start : Nat
  left : List (Word × Nat)
  bytes : List Byte
  lines : List (Nat × Nat)
deriving DecidableEq, Repr

/-- A known-answer tile of the hardware's or the host's schedule (R34, R144): the cycle from which it waits for an idle
slot, the rows that have entered, the sum of their results so far, and the cycle of the last entry. -/
structure TileRun where
  tile : Nat
  from_ : Nat
  pos : Nat
  sum : Word
  last : Nat
deriving DecidableEq, Repr

/-! ## Caches (R22, R27, R28, R290) -/

/-- A data cache: the lines that it holds, the one fetched last first, and the bytes of those homed on another device,
whose copies are not kept coherent (R290). A line is numbered by its address over 128; remote lines stand above 2^33. -/
structure Cache where
  lines : List Nat
  remote : Tab (List Byte)
deriving DecidableEq, Repr

def Cache.reset : Cache := { lines := [], remote := [] }

/-- The caches that hold lines of this package without their bytes: the L1 and the instruction cache of core u, or of service
core u - 256, and the L2 slice of crew c. -/
inductive CacheOf where
  | l1 (u : Nat)
  | l2 (c : Nat)
  | icache (u : Nat)
deriving DecidableEq, Repr

/-- A cached line whose DRAM bytes have changed with the key in force while the cache held it: it keeps its plaintext
(R357). -/
structure Kept where
  cache : CacheOf
  line : Nat
  bytes : List Byte
deriving DecidableEq, Repr

/-- A line of an LLC way: its number, whether it differs from DRAM, and the key under which DRAM holds its bytes
(R357, R359). -/
structure Line where
  num : Nat
  dirty : Bool
  key : BitVec 512
deriving DecidableEq, Repr

/-! ## Homes: job contexts and service cores -/

/-- What a job context (or a service core, for the fields it has) holds beside its streams. -/
structure Ctx where
  job : Option Job
  gen : Nat
  tokens : Tab (BitVec 16)
  cqv : List Call
  cqa : List Call
  /-- lq0 to lq3 as 0 to 3; none is a void row (Table 3.11). -/
  lq : Tab (List (Option Row))
  /-- The lines that each entry of lq0 to lq3 keeps locked in the crew's L2 slice (R309). -/
  lqLines : Tab (List (List Nat))
  sq : Tab (List Row)
  rq : List Word
  fq : List Word
  mxq : List Cmd
  cpq : List Cmd
  mailbox : List Mail
  /-- Push and pop counts since GO, numbered as W4 to W9 name the queues: cqv 0, cqa 1, lq0-3 2-5, sq0-1 6-7, rq 8,
  fq 9, mxq 10, cpq 11. -/
  pushes : Tab (BitVec 16)
  pops : Tab (BitVec 16)
  /-- By call queue, the cycle, plus 1, in which its last NOTE was discarded (R211). -/
  noted : Tab Nat
  mxSeq : Nat
  cpSeq : Nat
  /-- The started command at the head of the mxq. -/
  mx : Option Mx
  /-- Commands that have left the head and have not completed. -/
  mxTail : List Mx
  /-- The stopped commands, the last to stop first (R147). -/
  held : List Held
  mxWaitFrom : Option Nat
  fetched : Option Fetch
  fetching : Option Fetching
  window : Option Window
  redoing : List Redo
  /-- The cpq is stopped by a fault (R321). -/
  cpStop : Bool
  copies : List Copy
  blocks : List Block
  grammar : Grammar
  amax : Tab (BitVec 32)
  cvs : Mask
  tsf : Tab Word
  /-- Tile-status entries not yet visible: index, cycle from which they are, value (R110). -/
  tsfNew : List (Nat × Nat × Word)
  comp : List (BitVec 64)
  lpov : Nat
  act : Word
  mxst : Word
  cstk : Word
  cpst : Word
  lhz : Word
  epc : Word
  drawCount : BitVec 128
  drawBuf : List (BitVec 128)
  /-- The cycle of the last blocks that the buffer took, plus 1. -/
  drawAt : Nat
  /-- The VRNG that VEC stands at has loaded the draw counter, and waits for its draw (R185). -/
  drawLoad : Bool
  sig : BitVec 1024
  sigForks : List ForkSig
  spores : Tab Spore
  records : List Record
  handling : Option Record
  /-- The stream that the cox issue port served last: 0 the cox, k + 1 spore k (R222). -/
  portLast : Nat
deriving DecidableEq, Repr

def Ctx.reset : Ctx :=
  { job := none, gen := 0, tokens := [], cqv := [], cqa := [], lq := [], lqLines := [], sq := [], rq := [], fq := [], mxq := [],
    cpq := [], mailbox := [], pushes := [], pops := [], noted := [], mxSeq := 0, cpSeq := 0, mx := none, mxTail := [],
    held := [], mxWaitFrom := none,
    fetched := none, fetching := none, window := none, redoing := [], cpStop := false, copies := [], blocks := [],
    grammar := Grammar.reset, amax := [], cvs := 0,
    tsf := [], tsfNew := [], comp := [], lpov := 0, act := 0, mxst := 0x0000_FFFF_0000_0000, cstk := 0, cpst := 0,
    lhz := 0, epc := 0, drawCount := 0, drawBuf := [], drawAt := 0, drawLoad := false, sig := 0, sigForks := [], spores := [],
    records := [], handling := none, portLast := 4 }

/-- What a service core holds beside its stream and its home: the trap registers, its fault intake with the record being
handled at the head, key staging, CLST (R345, R376, R377, R263). -/
structure Service where
  svec : Word
  sepc : Word
  fact : Word
  sin : Bool
  intake : List Record
  kst : Tab Word
  clst : Word
  l1 : Cache
  icache : List Nat
deriving DecidableEq, Repr

def Service.reset : Service :=
  { svec := 0, sepc := 0, fact := 0, sin := false, intake := [], kst := [], clst := 0, l1 := Cache.reset, icache := [] }

/-! ## Cores and crews -/

/-- A translation held in a cache (R354): the page's virtual base and size code, its physical base, its permissions. -/
structure Trans where
  part : Nat
  va : Nat
  size : Nat
  pa : Nat
  r : Bool
  w : Bool
  x : Bool
deriving DecidableEq, Repr

/-- A message at a core's port (R223, R329): the sender's home and the number of its command there, and its target. -/
structure PortMsg where
  home : Nat
  seq : Nat
  job : Nat
  spore : Nat
deriving DecidableEq, Repr

/-- What a core holds (Table 1.3). `slots` numbers, for an entry of the slot table, its context plus 1. `spadPart` and
`accPart` remember, by 4 KiB page and by run of 32 rows, the partition that held them last plus 1 (R196). -/
structure CoreSt where
  spad : Memory
  tile : Tab Row
  slots : Tab Nat
  spadPart : Tab Nat
  accPart : Tab Nat
  tlb : List Trans
  port : List PortMsg
  rot : Nat
  l1 : Cache
  icache : List Nat
deriving DecidableEq, Repr

def CoreSt.reset : CoreSt :=
  { spad := [], tile := [], slots := [], spadPart := [], accPart := [], tlb := [], port := [], rot := 3,
    l1 := Cache.reset, icache := [] }

/-- How far the re-binning of a crew is (R393). -/
inductive BinStep where
  | none
  | draining (from_ : Nat)
  | settling (from_ : Nat)
  | battery (from_ : Nat)
deriving DecidableEq, Repr

/-- What a forced eviction was requested for (R134, R364, Table 16.10): a WRSYS of FEV's value that waits at service core
n, or an uncorrectable error in a plane, whose entry is evicted. -/
inductive FevFor where
  | write (n : Nat) (value : Word)
  | error (entry : Nat)
deriving DecidableEq, Repr

/-- A requested forced eviction, and the cycle of the crew's clock in which it was requested (R134). -/
structure FevReq where
  at_ : Nat
  why : FevFor
deriving DecidableEq, Repr

/-- What a crew holds: the plane directory and slots (entry 16 is the shadow), its lease, its entries in flight, FEV and
BIN registers, translation cache, L2 slice, requested evictions, and the package cycles in which its clock has not ticked
(R270, R394). -/
structure Crew where
  dir : Tab Word
  planes : Tab Plane
  /-- The shadow was loaded under `hi` (R130). -/
  shHi : Bool
  load : Option Load
  tile : Option TileRun
  lease : Option Lease
  lastCore : Nat
  lastCtx : Tab Nat
  /-- The first cycle in which the entry port admits an entry; the kind and drain cycle of the last arithmetic entry;
  the entry cycle of the last swap (R89, R109, R94). -/
  portFree : Nat
  lastGa : Bool
  lastDrain : Nat
  lastSwap : Option Nat
  flights : List Flight
  fev : Word
  bin : Word
  step : BinStep
  retest : Bool
  replays : List Nat
  tlb : List Trans
  l2 : Cache
  fevs : List FevReq
  lost : Nat
deriving DecidableEq, Repr

def Crew.reset : Crew :=
  { dir := [], planes := [], shHi := false, load := none, tile := none, lease := none, lastCore := 3, lastCtx := [], portFree := 0, lastGa := false,
    lastDrain := 0, lastSwap := none, flights := [], fev := 0xFFFF, bin := 0, step := .none, retest := false,
    replays := [], tlb := [], l2 := Cache.reset, fevs := [], lost := 0 }

/-! ## Partitions, queues, walkers -/

/-- What the packet at a queue's head waits for. -/
inductive Parse where
  | idle
  /-- The packet, or the record of a LAUNCH, is read piece by piece (R275, R279). -/
  | reading
  /-- A FENCE that has made a pass, which read these values, and has registered its watches (R203). -/
  | fence (seen : List Word)
  /-- A packet forwarded to the host (Table 1.8, function 1). -/
  | host (id : Nat)
  /-- A forwarded packet that the host has decoded. -/
  | decoded
  /-- A LAUNCH that waits for a place among the walker's records, or a NODE reached while SUSPENDING (R194, R225). -/
  | waiting
  /-- A LOGB copy whose next 16-byte piece is `pos` (Table 8.5). -/
  | logb (pos : Nat)
deriving DecidableEq, Repr

/-- A work queue: WQD0, WQD1, its held ring translation as the physical bases of its 4 KiB pages (R198, R304); the words that
its parser has read of the packet in progress, and behind the packet's 32 those of a LAUNCH's record; the cycle, plus 1, in
which a job of it last passed a NODE (R226). -/
structure Queue where
  d0 : Word
  d1 : Word
  ring : Option (List Nat)
  parse : Parse
  got : List Word
  noded : Nat
deriving DecidableEq, Repr

def Queue.reset : Queue := { d0 := 0x400, d1 := 0, ring := none, parse := .idle, got := [], noded := 0 }

/-- A partition's registers, key and seed, and queues (R345, R332, R262, R414). -/
structure Part where
  pd0 : Word
  pd1 : Word
  key : BitVec 512
  seed : BitVec 256
  rtd0 : Word
  rtd1 : Word
  quota : BitVec 9
  nvq : Tab Word
  queues : Tab Queue
deriving DecidableEq, Repr

def Part.reset : Part :=
  { pd0 := 0, pd1 := 0xFFFF, key := 0, seed := 0, rtd0 := 0, rtd1 := 0, quota := 0, nvq := [], queues := [] }

/-- An active record of a walker: the next iteration to place and the core of the last one (R194, R195). -/
structure Active where
  nest : Nest
  next : Nat
  last : Option Nat
deriving DecidableEq, Repr

/-- A walk of a page table, waiting or in flight at a die: the partition, the 4 KiB page of the address, the homes that
wait for it, since identical walks are merged (R354), and the number of the host's request when it has been forwarded
(Table 1.8, function 0). -/
structure Walk where
  part : Nat
  page : Nat
  homes : List Nat
  host : Option Nat
deriving DecidableEq, Repr

/-- A walk that ended without a translation: the home that waited for it, and the cause that the host answered; none when the
device's own walk failed, whose cause is that of the tables when the access is made again (R354, R355, Table 15.7). -/
structure Failed where
  part : Nat
  page : Nat
  home : Nat
  cause : Option Byte
deriving DecidableEq, Repr

/-- A remote store on its way to its home: the stream that issued it, or whose engine thread did, and that thread's
name; `part` is the partition whose access it is, `dom` marks one that has updated no copy, and `seen` names the homes
that have read a copy with its bytes (R291, R300, R356). -/
structure Posted where
  who : Thread
  eng : Option EngId
  part : Option Nat
  addr : Nat
  bytes : List Byte
  dom : Bool
  seen : List Nat
deriving DecidableEq, Repr

/-- A die's walker, parser, page walker and links: active records, switched-out iterations, the record last considered and
the queue last served; the cycles, plus 1, of its last placement and of its last packet; its page walks in arrival order;
the link retry sequence of each of its four Qorkin links, and which of its two Ethernet ports were up when last asked (R17,
R194, R227, R354, R411, R413, R424). -/
structure Die where
  active : List Active
  switched : List (Nest × Nat × Image)
  rr : Nat
  lastQ : Nat
  placed : Nat
  parsed : Nat
  walks : List Walk
  links : Tab Nat
  ports : BitVec 2
deriving DecidableEq, Repr

def Die.reset : Die :=
  { active := [], switched := [], rr := 0, lastQ := 1023, placed := 0, parsed := 0, walks := [], links := [], ports := 0 }

/-- An LLC slice: WPR, WPRA, the release table with its oldest entry first, the residual signature, the lines that its ways
hold, way w of set i at 16i + w, and the number of ways that the window uses or is about to (R27, R293, R359 to R363).
Slice numbers from 64 on stand for the home slices of other devices, of which only the release table and the residual
signature are used. -/
structure Slice where
  wpr : Word
  wpra : Word
  rel : List (Nat × BitVec 1024)
  residual : BitVec 1024
  ways : Tab (Option Line)
  lent : Nat
deriving DecidableEq, Repr

def Slice.reset : Slice := { wpr := 0, wpra := 0, rel := [], residual := 0, ways := [], lent := 0 }

/-! ## Coolant -/

/-- A CLREQ or CLREL at the allocator (R265, R266). `host` is the request's number when it has been forwarded and
`ok` the host's decision (R268); `at_` is the cycle in which it reached the allocator, and `fwd` says that allocation was
host-assisted then (R34); `done` marks a CLREL that has performed and whose word has still to pass. -/
structure ClReq where
  svc : Nat
  at_ : Nat
  tok : Tok
  opnd : Word
  target : Byte
  rel : Bool
  fwd : Bool
  host : Option Nat
  ok : Option Bool
  done : Bool
deriving DecidableEq, Repr

/-- A zone: CATA, CATB, the latest sample, and what its rules count over samples and time (R261 to R274). -/
structure Zone where
  cata : Word
  catb : Word
  sample : Sample
  /-- The accepted request and its cycle; samples settled in a row. -/
  req : Option ClReq
  acceptAt : Nat
  settled : Nat
  /-- The partition for which an accepted raise reserves quanta (R262, R265). -/
  resFor : Option Nat
  /-- Conditions of Table 10.5 that hold: TEMP, FLOW, PRES, LEAK as bits 0 to 3. -/
  conds : BitVec 4
  flowFrom : Nat
  cool : Nat
  /-- A sequence's step: its start, its sample count, its failures; a leak evacuation; a pending CMD 3. -/
  stepAt : Nat
  count : Nat
  fails : Nat
  leak : Bool
  clearing : Bool
  /-- The step of a refill within its PHASE: 0 waits for quanta, 1 closes the purge valve, 2 primes, 3 checks (R274). -/
  sub : Nat
deriving DecidableEq, Repr

def Sample.zero : Sample :=
  { inletTemp := 0, outletTemp := 0, flow := 0, pressure := 0, wetInner := 0, wetOuter := 0, inletValve := 0,
    purgeValve := 0 }

def Zone.reset : Zone :=
  { cata := 0x0001_FF00_0020_0000, catb := 0x1540_0C80_1002_005A, sample := Sample.zero, req := none, acceptAt := 0,
    settled := 0, resFor := none, conds := 0, flowFrom := 0, cool := 0, stepAt := 0, count := 0, fails := 0,
    leak := false, clearing := false, sub := 0 }

/-! ## Host and boot -/

/-- What a request forwarded to the host agent asks (Table 1.8). -/
inductive HostWork where
  | walk (die part page : Nat)
  | packet (part queue : Nat)
  | fill (home seq : Nat)
  | nvme (home seq : Nat)
  | alloc
  | miss (r : Record)
  | tile (crew : Nat)
  /-- A cause of re-binning (R391). -/
  | trigger (crew : Nat)
  | log (words : List Word)
  | record (words : List Word)
deriving DecidableEq, Repr

/-- A forwarded request: its number, its function, what it asks, its cycle, and the Ethernet port it was sent on, none when it
was written into the host ring (R413). -/
structure HostReq where
  id : Nat
  fn : BitVec 3
  work : HostWork
  at_ : Nat
  port : Option Nat
deriving DecidableEq, Repr

/-- Boot and reduced service (R416 to R421): the next image to verify (1 to 4; 5 once Novfin runs, 6 when the boot has
stopped), the booted slot,
the measurement chain, the boot status word, the dies that have passed and failed, full service. -/
structure Boot where
  stage : Nat
  slot : Nat
  chain : BitVec 384
  status : Word
  passed : BitVec 4
  failed : BitVec 4
  full : Bool
  /-- From the signed configuration record: the device number, the domain identifier, the known-answer rate and the identity
  public keys (R418). -/
  dev : Nat
  domain : Nat
  katRate : Nat
  idKeys : List Byte
deriving DecidableEq, Repr

def Boot.reset : Boot :=
  { stage := 1, slot := 0, chain := 0, status := 0, passed := 0, failed := 0, full := false, dev := 0, domain := 0,
    katRate := 0, idKeys := [] }

/-- What has been sent to the sender of a request (R415): that its queue is DISABLED, or the reply of one whose completion
counter has reached its threshold. -/
inductive Reply where
  | refused (part queue : Nat)
  | reached (part : Nat) (counter threshold : Word)
deriving DecidableEq, Repr

/-! ## The machine -/

structure State where
  sched : List Turn
  cur : Thread
  slow : Bool
  free : Nat
  now : Nat
  mem : Memory
  kept : List Kept
  poison : List Nat
  coxes : Tab Cox
  accs : Tab Acc
  vecs : Tab Vec
  ctxs : Tab Ctx
  svcs : Tab Service
  cores : Tab CoreSt
  crews : Tab Crew
  parts : Tab Part
  dies : Tab Die
  slices : Tab Slice
  zones : Tab Zone
  watches : List Watch
  waitRecs : List (Nat × Record)
  clQueue : List ClReq
  /-- Quanta of the pump budget that are neither free nor granted, by zone: reserved by a raise or a refill, or given up by
  a lowering that has not settled (R262, R265, R274). -/
  reserved : Tab Nat
  hams : Word
  /-- The cycle, plus 1, of the last write of HAMS, and the MODE bits before it: a request of that cycle uses them (R34). -/
  hamsAt : Nat
  hamsWas : BitVec 7
  hagt : Word
  linkUp : Bool
  fotb : Word
  evl0 : Word
  evl1 : Word
  fdst : Tab (BitVec 3)
  dwin : Tab Word
  hostReqs : List HostReq
  nextReq : Nat
  refusedWalks : List Failed
  /-- Corrections counted by storage unit and not yet reported, and the cycle of the last report (R388). -/
  corrected : Tab Nat
  corrAt : Tab Nat
  /-- Memory of other devices, by device × 2^40 + physical address; the partition of its frames, by device × 2^19 +
  frame; the reachable devices; posted stores (R290, R291, R410). -/
  remote : Memory
  remoteFot : Tab Nat
  reach : List Nat
  posted : List Posted
  /-- The replies to requests so far, the first one first (R415). -/
  replies : List Reply
  boot : Boot
  /-- Resets so far: the number of Novfin's boot-generated memory key (R357). -/
  boots : Nat
deriving DecidableEq, Repr

/-- Right after reset (R416 step 1): SC0 runs at address 0, nothing else does; every register holds its reset value
(DESIGN CHOICE, assumption logs 3 and 8; DEDUCED, assumption log 7). -/
def State.reset : State :=
  { sched := [], cur := .svc 0, slow := false, free := 0, now := 0, mem := [], kept := [],
    poison := [],
    coxes := [(8192, { Cox.reset with run := { pc := 0, since := 0, hold := 0, occ := 0, ran := 0, status := .ready } })],
    accs := [], vecs := [], ctxs := [], svcs := [], cores := [], crews := [], parts := [], dies := [], slices := [],
    zones := [], watches := [], waitRecs := [], clQueue := [], reserved := [], hams := 0, hamsAt := 0, hamsWas := 0,
    hagt := 0, linkUp := false,
    fotb := 0, evl0 := 0, evl1 := 0, fdst := [], dwin := [], hostReqs := [], nextReq := 0, refusedWalks := [],
    corrected := [], corrAt := [], remote := [], remoteFot := [], reach := [], posted := [], replies := [], boot := Boot.reset, boots := 0 }

end Sys2Proof.Machine
end

