-- ==== Sys2Proof/Machine/Memory.lean ====
section
/-! DEFINITION. Machine/Memory.lean: the named operations over threads, tables, clocks, memory, the keys of its lines, and the
caches before it (R8, R27 to R31, R270, R288 to R292, R348, R357 to R363, R394, R402). -/

namespace Sys2Proof

/-! ## Threads -/

/-- The number of a cox stream in the table of cox streams. -/
def Thread.key : Thread → Nat
  | .cox j => 8 * j
  | .spore j k => 8 * j + 1 + k % 4
  | .acc j => 8 * j
  | .vec j => 8 * j
  | .svc n => 8192 + n

/-- The home of a thread: its job context, or 1024 + n for service core n. -/
def Thread.home : Thread → Nat
  | .cox j => j
  | .spore j _ => j
  | .acc j => j
  | .vec j => j
  | .svc n => 1024 + n

def Thread.isSvc : Thread → Bool
  | .svc _ => true
  | _ => false

def Thread.isSpore : Thread → Bool
  | .spore _ _ => true
  | _ => false

namespace Machine

/-! ## Fields of a word -/

/-- Bits [hi:lo] of a word as a number. -/
def fieldOf (w : Word) (lo len : Nat) : Nat := w.toNat / 2 ^ lo % 2 ^ len

/-- The word with bits [lo + len - 1 : lo] replaced by `x`. -/
def withField (w : Word) (lo len x : Nat) : Word :=
  (w &&& ~~~ (BitVec.ofNat 64 ((2 ^ len - 1) * 2 ^ lo))) ||| BitVec.ofNat 64 (x % 2 ^ len * 2 ^ lo)

/-- The word with the bits of `mask` taken from `x`. -/
def mergeBits (w mask x : Word) : Word := (w &&& ~~~ mask) ||| (x &&& mask)

/-! ## Sparse memory in canonical form -/

/-- The byte at `a`; `base` is what an unlisted address reads as (DESIGN CHOICE, assumption log 4). -/
def memGet (base : Nat → Byte) : Memory → Nat → Byte
  | [], a => base a
  | (k, v) :: r, a => if a < k then base a else if a = k then v else memGet base r a

/-- The memory with the byte at `a` replaced; an entry that equals what it would read as unlisted is removed
(DESIGN CHOICE, assumption log 4). -/
def memSet (base : Nat → Byte) : Memory → Nat → Byte → Memory
  | [], a, b => if b = base a then [] else [(a, b)]
  | (k, v) :: r, a, b =>
    if a < k then (if b = base a then (k, v) :: r else (a, b) :: (k, v) :: r)
    else if a = k then (if b = base a then r else (a, b) :: r)
    else (k, v) :: memSet base r a b

/-- Every entry lies at or above `lo` and differs from what its address reads as unlisted; entries rise strictly. -/
def memWfFrom (base : Nat → Byte) : Nat → Memory → Bool
  | _, [] => true
  | lo, (k, v) :: r => decide (lo ≤ k) && v != base k && memWfFrom base (k + 1) r

/-- The canonical form of a memory (DESIGN CHOICE, assumption log 4). -/
def memWf (base : Nat → Byte) (m : Memory) : Bool := memWfFrom base 0 m

def memRead (base : Nat → Byte) (m : Memory) (a : Nat) : Nat → List Byte
  | 0 => []
  | n + 1 => memGet base m a :: memRead base m (a + 1) n

def memWrite (base : Nat → Byte) (m : Memory) (a : Nat) : List Byte → Memory
  | [] => m
  | b :: r => memWrite base (memSet base m a b) (a + 1) r

/-- What an unlisted address of the 40-bit physical space reads as: the known-answer pool and the flash hold what the
package was built with, everything else zero (R407; DESIGN CHOICE, assumption logs 4 and 5). -/
def baseByte (a : Nat) : Byte :=
  if 0x4040000000 ≤ a ∧ a < 0x4050000000 then Config.flashByte a
  else if 0x4080000000 ≤ a ∧ a < 0x4080080200 then Config.poolByte a
  else 0

/-- DESIGN CHOICE, assumption log 4. -/
def zeroByte (_ : Nat) : Byte := 0

/-- The canonical form of the package's memory (DESIGN CHOICE, assumption log 4). -/
def Memory.wf (m : Memory) : Bool := memWf baseByte m

/-- Every memory of a state is in its canonical form: the package's, the scratchpad of every core, and other devices'
(DESIGN CHOICE, assumption log 4). -/
def State.memWf (s : State) : Bool :=
  Memory.wf s.mem && Machine.memWf Config.remoteByte s.remote && s.cores.all fun c => Machine.memWf zeroByte c.2.spad

/-! ## Access to the tables of the state -/

def State.cox (s : State) (t : Thread) : Cox := s.coxes.get t.key Cox.reset
def State.acc (s : State) (j : Nat) : Acc := s.accs.get j Acc.reset
def State.vec (s : State) (j : Nat) : Vec := s.vecs.get j Vec.reset
def State.ctx (s : State) (h : Nat) : Ctx := s.ctxs.get h Ctx.reset
def State.svc (s : State) (n : Nat) : Service := s.svcs.get n Service.reset
def State.core (s : State) (g : Nat) : CoreSt := s.cores.get g CoreSt.reset
def State.crew (s : State) (c : Nat) : Crew := s.crews.get c Crew.reset
def State.part (s : State) (p : Nat) : Part := s.parts.get p Part.reset
def State.die (s : State) (d : Nat) : Die := s.dies.get d Die.reset
def State.slice (s : State) (x : Nat) : Slice := s.slices.get x Slice.reset
def State.zone (s : State) (z : Nat) : Zone := s.zones.get z Zone.reset
def State.queue (s : State) (p q : Nat) : Queue := (s.part p).queues.get q Queue.reset

def State.setCox (s : State) (t : Thread) (c : Cox) : State := { s with coxes := s.coxes.set t.key c }
def State.setAcc (s : State) (j : Nat) (a : Acc) : State := { s with accs := s.accs.set j a }
def State.setVec (s : State) (j : Nat) (v : Vec) : State := { s with vecs := s.vecs.set j v }
def State.setCtx (s : State) (h : Nat) (c : Ctx) : State := { s with ctxs := s.ctxs.set h c }
def State.setSvc (s : State) (n : Nat) (x : Service) : State := { s with svcs := s.svcs.set n x }
def State.setCore (s : State) (g : Nat) (x : CoreSt) : State := { s with cores := s.cores.set g x }
def State.setCrew (s : State) (c : Nat) (x : Crew) : State := { s with crews := s.crews.set c x }
def State.setPart (s : State) (p : Nat) (x : Part) : State := { s with parts := s.parts.set p x }
def State.setDie (s : State) (d : Nat) (x : Die) : State := { s with dies := s.dies.set d x }
def State.setSlice (s : State) (i : Nat) (x : Slice) : State := { s with slices := s.slices.set i x }
def State.setZone (s : State) (z : Nat) (x : Zone) : State := { s with zones := s.zones.set z x }
def State.setQueue (s : State) (p q : Nat) (x : Queue) : State :=
  s.setPart p { s.part p with queues := (s.part p).queues.set q x }

/-- A fresh free value below `n` (or 0 when n = 0), and the state that has used it (DESIGN CHOICE, assumption log 2). -/
def State.pick (s : State) (n : Nat) : Nat × State := (Config.freeNat s.free % n, { s with free := s.free + 1 })

/-! ## Streams -/

/-- The issue clock of the stream that a thread names. -/
def State.stream (s : State) (t : Thread) : Stream :=
  match t with
  | .acc j => (s.acc j).run
  | .vec j => (s.vec j).run
  | t => (s.cox t).run

def State.setStream (s : State) (t : Thread) (r : Stream) : State :=
  match t with
  | .acc j => s.setAcc j { s.acc j with run := r }
  | .vec j => s.setVec j { s.vec j with run := r }
  | t => s.setCox t { s.cox t with run := r }

/-- The stream's word has issued: the next word stands at `pc` (R207). -/
def State.issueTo (s : State) (t : Thread) (pc : Word) : State :=
  s.setStream t { s.stream t with pc := pc, since := 0, hold := 0, occ := 0 }

/-- The stream goes on at `pc` as one that has just become ready (R207). -/
def Stream.restart (r : Stream) (pc : Word) : Stream :=
  { r with pc := pc &&& ~~~ 7, since := 0, hold := 0, occ := 0, status := .ready }

/-- The cox stream's word has issued and the next word follows it. -/
def State.next (s : State) (t : Thread) : State := s.issueTo t ((s.stream t).pc + 8)

def State.setStatus (s : State) (t : Thread) (x : Status) : State := s.setStream t { s.stream t with status := x }

/-! ## Jobs -/

/-- The partition of a home; a service core belongs to none, and 0 stands in its records (R404). -/
def State.partOf (s : State) (h : Nat) : Nat :=
  match (s.ctx h).job with
  | some j => j.nest.part
  | none => 0

/-- The unit that the tiers of a job context name: its core and its crew (R16). -/
def coreOf (h : Nat) : Nat := h / 4
def crewOf (h : Nat) : Nat := h / 16
def dieOf (h : Nat) : Nat := h / 256

/-- The job of a context has had its GO and has not ended. -/
def State.running (s : State) (h : Nat) : Bool :=
  match (s.ctx h).job with
  | some j => j.phase == .running
  | none => false

def Ctx.accRows (c : Ctx) : Nat := match c.job with | some j => j.nest.accRows | none => 0
def Ctx.accBase (c : Ctx) : Nat := match c.job with | some j => j.accBase | none => 0
def Ctx.spadLen (c : Ctx) : Nat := match c.job with | some j => j.spadLen | none => 0
def Ctx.spadBase (c : Ctx) : Nat := match c.job with | some j => j.spadBase | none => 0
def Ctx.part (c : Ctx) : Nat := match c.job with | some j => j.nest.part | none => 0

def Ctx.token (c : Ctx) (t : Nat) : BitVec 16 := c.tokens.get t 0
def Ctx.setToken (c : Ctx) (t : Nat) (x : BitVec 16) : Ctx := { c with tokens := c.tokens.set t x }

/-- Adds to a token, stopping at 65,535; token 0 of an engine command names none (R47, R244, R318). -/
def Ctx.addToken (c : Ctx) (t : Nat) (n : Nat) : Ctx :=
  c.setToken t (BitVec.ofNat 16 (Nat.min 65535 ((c.token t).toNat + n)))

def Ctx.signal (c : Ctx) (t : BitVec 4) : Ctx := if t = 0 then c else c.addToken t.toNat 1

def Ctx.bumpPush (c : Ctx) (q : Nat) : Ctx := { c with pushes := c.pushes.set q (c.pushes.get q 0 + 1) }
def Ctx.bumpPop (c : Ctx) (q : Nat) : Ctx := { c with pops := c.pops.set q (c.pops.get q 0 + 1) }

/-! ## Time -/

/-- Cycles of the package clock in one millisecond: 1.75 GHz, or 1.2 GHz in reduced service (R1, R420)
(DEDUCED, assumption log 62). -/
def State.ms (s : State) : Nat := if s.boot.full then Config.cyclesPerMs else 1200000

/-- A zone of crew c is THROTTLED (R270). -/
def State.throttled (s : State) (c : Nat) : Bool :=
  fieldOf (s.zone (2 * c)).cata 0 3 == 2 || fieldOf (s.zone (2 * c + 1)).cata 0 3 == 2

/-- The cycles of a bin's clock in the first n package cycles: 1.75 GHz, at bin 4 1.5 GHz and at bin 5 1.25 GHz (R392)
(DESIGN CHOICE, assumption log 88: how the two clocks lie to each other). -/
def binCycles (bin n : Nat) : Nat := if bin = 4 then 6 * n / 7 else if bin = 5 then 5 * n / 7 else n

/-- The package cycle is a cycle of crew c's clock: its bin gives it one, and a THROTTLED zone takes every second one (R270,
R394). In reduced service a crew runs at the package's 1.2 GHz (R420) (DESIGN CHOICE, assumption log 88). -/
def State.ticks (s : State) (c : Nat) : Bool :=
  let bin := if s.boot.full then fieldOf (s.crew c).bin 0 3 else 0
  binCycles bin s.now != binCycles bin (s.now + 1) && !(s.throttled c && binCycles bin s.now % 2 == 1)

/-- The cycles of crew c's clock so far, by which everything in it is counted (R270, R394). -/
def State.crewNow (s : State) (c : Nat) : Nat := s.now - (s.crew c).lost

/-- The clock that the streams of home `h` run by. -/
def State.clockOf (s : State) (h : Nat) : Nat := if h < 1024 then s.crewNow (crewOf h) else s.now

/-- The package cycle passes for the crews: one whose clock does not tick loses it. -/
def State.loseCycle (s : State) : State :=
  (List.range 64).foldl (fun x c => if s.ticks c then x else x.setCrew c { x.crew c with lost := (x.crew c).lost + 1 }) s

/-! ## Pieces of a line -/

/-- The bytes of `l` with those from `i` on replaced by `b`. -/
def patch (l : List Byte) (i : Nat) (b : List Byte) : List Byte :=
  l.take i ++ b ++ l.drop (i + b.length)

/-! ## Signatures (R292) -/

/-- The line number of remote physical address `pa` on device `dev`. -/
def lineNumber (dev pa : Nat) : Nat := dev * 2 ^ 31 + pa / 128

def sigH1 (ln : Nat) : Nat :=
  Nat.xor (Nat.xor (Nat.xor (Nat.xor (ln % 1024) (ln / 2 ^ 10 % 1024)) (ln / 2 ^ 20 % 1024)) (ln / 2 ^ 30 % 1024))
    (ln / 2 ^ 40 % 64)

def sigH2 (ln : Nat) : Nat :=
  (ln % 1024 + 3 * (ln / 2 ^ 10 % 1024) + 5 * (ln / 2 ^ 20 % 1024) + 7 * (ln / 2 ^ 30 % 1024) +
    9 * (ln / 2 ^ 40 % 64)) % 1024

/-- The signature with both bits of a line set. -/
def sigAdd (g : BitVec 1024) (ln : Nat) : BitVec 1024 :=
  g ||| BitVec.ofNat 1024 (2 ^ sigH1 ln) ||| BitVec.ofNat 1024 (2 ^ sigH2 ln)

def sigCovers (g : BitVec 1024) (ln : Nat) : Bool := g.getLsbD (sigH1 ln) && g.getLsbD (sigH2 ln)

def popcount : Nat → Nat → Nat
  | 0, _ => 0
  | n + 1, x => x % 2 + popcount n (x / 2)

/-! ## Physical addresses (R29, R407 to R409)

A resolved address below 2^40 is a physical address of this package; one at or above 2^40 names remote memory, device d
at (d + 1) × 2^40. -/

/-- What lies at a physical address of the package. -/
inductive Place where
  | dram
  | window (sl off : Nat)
  | flash (slot : Nat)
  | pool
  | domain (i off : Nat)
  | aperture
  | nothing
deriving DecidableEq, Repr

/-- DESIGN CHOICE, assumption log 23. -/
def place (pa : Nat) : Place :=
  if pa < 0x4000000000 then .dram
  else if pa < 0x4040000000 then .window ((pa - 0x4000000000) / 0x1000000) (pa % 0x1000000)
  else if pa < 0x4050000000 then .flash ((pa - 0x4040000000) / 0x8000000)
  else if 0x4080000000 ≤ pa ∧ pa < 0x4080080200 then .pool
  else if 0x8000000000 ≤ pa ∧ pa < 0xA000000000 then .domain ((pa - 0x8000000000) / 2 ^ 30) (pa % 2 ^ 30)
  else if 0xC000000000 ≤ pa ∧ pa < 0x10000000000 then .aperture
  else .nothing

def inWindow (a : Nat) : Bool := match place a with | .window _ _ => true | _ => false

/-- The DRAM channel of a DRAM address, its offset there, and its LLC set (R30). -/
def channelOf (pa : Nat) : Nat := pa / 2 ^ 30 % 256
def channelOffset (pa : Nat) : Nat := pa % 2 ^ 30
def llcSet (pa : Nat) : Nat := pa / 2 ^ 7 % 2 ^ 13

/-- The home slice of a resolved address; the slices of device d stand at 64 + 64d (R30, R293). -/
def homeSlice (ra : Nat) : Nat :=
  if 2 ^ 40 ≤ ra then 64 + (ra / 2 ^ 40 - 1) * 64 + ra / 2 ^ 32 % 64
  else match place ra with
    | .dram => ra / 2 ^ 32
    | .window sl _ => sl
    | _ => 0

/-- A fault of an access: its class and its subcause (Tables 15.7 and 16.2). -/
structure Cause where
  cls : Byte
  sub : Byte
deriving DecidableEq, Repr

def xlateCause (n : Byte) : Cause := { cls := 16, sub := n }

def State.hostPath (s : State) : Bool := fieldOf s.hagt 48 2 == 1 && s.linkUp

/-- A DWIN register's view of an offset: the device and physical address it names, and its owner (R409). -/
def State.domainTarget (s : State) (i off : Nat) : Option (Nat × Nat × Nat) :=
  let w := s.dwin.get i 0
  if fieldOf w 63 1 = 1 then some (fieldOf w 48 15, fieldOf w 30 8 * 2 ^ 30 + off, fieldOf w 40 6) else none

def remoteAddr (dev pa : Nat) : Nat := (dev + 1) * 2 ^ 40 + pa

/-- An image of the slot has been chosen and runs (R408, R416). -/
def Boot.runs (b : Boot) : Bool := decide (2 ≤ b.stage ∧ b.stage ≤ 5)

/-- The test of an access where it performs: the scratch window's ways (R31, R403), read-only ranges and the host link
(R408), and for remote memory the reach and the home's frame owner (R410). `p` is the thread's partition
(DESIGN CHOICE, assumption log 23). -/
def State.placeFault (s : State) (p : Nat) (store : Bool) (ra : Nat) : Option Cause :=
  if ra < 2 ^ 40 then
    match place ra with
    | .dram => none
    | .window sl off =>
      let w := (s.slice sl).wpr
      if fieldOf w 62 2 ≠ 2 then some { cls := 17, sub := 1 }
      else if fieldOf w 0 4 * 0x100000 ≤ off then some { cls := 17, sub := 2 }
      else none
    | .flash sl => if store && s.boot.runs && s.boot.slot == sl then some (xlateCause 3) else none
    | .pool => if store then some (xlateCause 3) else none
    | .aperture => if s.hostPath then none else some (xlateCause 7)
    | _ => some (xlateCause 6)
  else
    let dev := ra / 2 ^ 40 - 1
    if ¬ s.reach.contains dev then some (xlateCause 6)
    else if s.remoteFot.get (dev * 2 ^ 19 + ra % 2 ^ 40 / 2 ^ 21) 0 = p + 1 then none
    else some (xlateCause 4)

/-- Bytes where they are held, without any test (DESIGN CHOICE, assumption log 23). -/
def State.rawRead (s : State) (ra n : Nat) : List Byte :=
  if ra < 2 ^ 40 then memRead baseByte s.mem ra n
  else memRead Config.remoteByte s.remote (ra - 2 ^ 40) n

def State.rawWrite (s : State) (ra : Nat) (l : List Byte) : State :=
  if ra < 2 ^ 40 then { s with mem := memWrite baseByte s.mem ra l }
  else { s with remote := memWrite Config.remoteByte s.remote (ra - 2 ^ 40) l }

def State.readWord (s : State) (ra : Nat) : Word := wordLE (s.rawRead ra 8)

/-! ## Stores and watches -/

/-- The pieces of 16 bytes that [a, a + n) covers whole. -/
def wholePiece (a n pc : Nat) : Bool := a ≤ 16 * pc && 16 * pc + 16 ≤ a + n

/-- What a store to [a, a + n) in cycle `now` of the waiter's clock does to one watch: `before` and `after` are the
watched word's values (R288, R289). -/
def watchStore (now a n : Nat) (before after : Word) (w : Watch) : Watch :=
  if before ≠ after then
    if w.hit.isNone then { w with hit := some now } else { w with touched := true }
  else if a / 128 ≤ w.addr / 128 ∧ w.addr / 128 ≤ (a + n - 1) / 128 then { w with touched := true }
  else w

/-! ## Keys of the lines (R348, R357) -/

/-- The frame ownership byte of a DRAM address: the owner plus 1, or 0 for Novfin (R348). -/
def State.frameOwner (s : State) (pa : Nat) : Nat :=
  let b := memGet baseByte s.mem (fieldOf s.fotb 12 28 * 4096 + pa / 2 ^ 21)
  if b.toNat / 128 = 1 then b.toNat % 64 + 1 else 0

/-- The key in force for a DRAM address: that of its frame's owner, or Novfin's, which each boot generates anew (R357)
(DESIGN CHOICE, assumption log 104). -/
def State.lineKey (s : State) (pa : Nat) : BitVec 512 :=
  match s.frameOwner pa with
  | 0 => Config.bootKey s.boots
  | p + 1 => (s.part p).key

/-- DRAM line `num`, written under key k0 and read under k1. -/
def recrypt (m : Memory) (num : Nat) (k0 k1 : BitVec 512) : Memory :=
  if k0 = k1 then m
  else memWrite baseByte m (128 * num) (xtsDecrypt k1 num (xtsEncrypt k0 num (memRead baseByte m (128 * num) 128)))

/-! ## LLC slices (R359, R402) -/

/-- The way of a slice that holds line `num`, whose set is `set`; a lookup hits in any way. -/
def Slice.wayOf (x : Slice) (num set : Nat) : Option Nat :=
  (List.range 16).find? fun w => match x.ways.get (16 * set + w) none with | some l => l.num == num | none => false

/-- The line of `pa` is in its home slice. -/
def State.lineHeld (s : State) (pa : Nat) : Bool := ((s.slice (homeSlice pa)).wayOf (pa / 128) (llcSet pa)).isSome

/-- The ways into which the line of `pa` may be allocated: not lent, and of its owner's AMASK; Novfin's lines may use them all
(R359, R402). -/
def State.eligibleWays (s : State) (pa : Nat) : List Nat :=
  let o := s.frameOwner pa
  (List.range (16 - (s.slice (homeSlice pa)).lent)).filter fun w => o == 0 || (s.part (o - 1)).pd1.getLsbD w

/-- The DRAM bytes after a line has left its way. A dirty one has been written back under the key in force; a clean one whose
DRAM copy was written under another key reads from now on as the key in force makes of it (R357). -/
def State.memWithout (s : State) (x : Line) : Memory :=
  if x.dirty then s.mem else recrypt s.mem x.num x.key (s.lineKey (128 * x.num))

/-- Every line of this package that an L1, an L2 slice or an instruction cache holds. -/
def State.cachedLines (s : State) : List (CacheOf × Nat) :=
  (s.cores.flatMap fun e =>
    e.2.l1.lines.map (fun l => (CacheOf.l1 e.1, l)) ++ e.2.icache.map fun l => (CacheOf.icache e.1, l)) ++
  (s.svcs.flatMap fun e =>
    e.2.l1.lines.map (fun l => (CacheOf.l1 (256 + e.1), l)) ++ e.2.icache.map fun l => (CacheOf.icache (256 + e.1), l)) ++
  s.crews.flatMap fun e => e.2.l2.lines.map fun l => (CacheOf.l2 e.1, l)

/-- The bytes that a cache keeps of a line of this package, when they are not those of memory (R357). -/
def State.keptOf (s : State) (c : CacheOf) (ln : Nat) : Option (List Byte) :=
  (s.kept.find? fun k => k.cache == c && k.line == ln).map (·.bytes)

/-- The copies that the caches keep when the DRAM bytes of the lines that `gone` names change under them (R28, R357). -/
def State.keptWith (s : State) (gone : Nat → Bool) : List Kept :=
  s.kept ++ (s.cachedLines.filter fun x => gone x.2 && (s.keptOf x.1 x.2).isNone).map fun x =>
    { cache := x.1, line := x.2, bytes := memRead baseByte s.mem (128 * x.2) 128 }

/-- A line takes its place in a cache with the bytes of memory, or with the copy `b` that the next cache keeps. -/
def State.keep (s : State) (c : CacheOf) (ln : Nat) (b : Option (List Byte)) : State :=
  if s.kept.isEmpty then s
  else
    { s with
      kept := (s.kept.filter fun k => !(k.cache == c && k.line == ln)) ++
        b.toList.map fun l => { cache := c, line := ln, bytes := l } }

/-- The caches keep no bytes of their own of the lines of [ra, ra + n) any more. -/
def State.unkeep (s : State) (ra n : Nat) : State :=
  { s with kept := s.kept.filter fun k => !(ra / 128 ≤ k.line && k.line ≤ (ra + n - 1) / 128) }

/-- Way w of the set of `pa` takes the line of `pa`; a line that was there leaves. -/
def State.allocate (s : State) (pa w : Nat) (dirty : Bool) : State :=
  let i := homeSlice pa
  let x := s.slice i
  let k := 16 * llcSet pa + w
  let (m, kept) := match x.ways.get k none with
    | some l => (s.memWithout l, if l.dirty || l.key == s.lineKey (128 * l.num) then s.kept else s.keptWith (· == l.num))
    | none => (s.mem, s.kept)
  { s with mem := m, kept := kept }.setSlice i
    { x with ways := x.ways.set k (some { num := pa / 128, dirty := dirty, key := s.lineKey pa }) }

/-- An access of the line of `pa` at its home slice: a hit in any way; otherwise the lowest invalid eligible way, or a victim
among the eligible ways by the slice's own policy, or none (R359, R402) (DESIGN CHOICE, assumption log 2). -/
def State.llc (s : State) (pa : Nat) (write : Bool) : State :=
  let i := homeSlice pa
  let x := s.slice i
  if place pa ≠ .dram then s
  else
    match x.wayOf (pa / 128) (llcSet pa) with
    | some w =>
      if write then
        let l := (x.ways.get (16 * llcSet pa + w) none).map fun l => { l with dirty := true }
        s.setSlice i { x with ways := x.ways.set (16 * llcSet pa + w) l }
      else s
    | none =>
      let ws := s.eligibleWays pa
      match ws.find? fun w => (x.ways.get (16 * llcSet pa + w) none).isNone with
      | some w => s.allocate pa w write
      | none =>
        if ws.isEmpty then s
        else
          let (k, s1) := s.pick ws.length
          s1.allocate pa (ws.getD k 0) write

/-! ## A change of the key in force (R357) -/

/-- Frame f has the same key in force in both states. -/
def sameKey (old new : State) (f : Nat) : Bool :=
  match old.frameOwner (f * 2 ^ 21), new.frameOwner (f * 2 ^ 21) with
  | 0, 0 => old.boots == new.boots
  | p + 1, q + 1 => (old.part p).key == (new.part q).key
  | _, _ => false

/-- A frame whose key has changed from `old` to `new`: each of its lines that no way holds reads as the new key makes of
it. -/
def rekeyFrame (old new : State) (m : Memory) (f : Nat) : Memory :=
  let k0 := old.lineKey (f * 2 ^ 21)
  let k1 := new.lineKey (f * 2 ^ 21)
  if sameKey old new f then m
  else (List.range 16384).foldl (fun m i => if new.lineHeld (128 * (16384 * f + i)) then m else recrypt m (16384 * f + i) k0 k1) m

/-- The memory of `new`, where the keys of some frames may have changed since `old`: a cache that holds a line whose
bytes change keeps it as it was. -/
def State.rekey (new old : State) (fs : List Nat) : State :=
  let gone := fun (n : Nat) => fs.contains (n / 16384) && !sameKey old new (n / 16384) && !new.lineHeld (128 * n)
  { new with mem := fs.foldl (rekeyFrame old new) new.mem, kept := if fs.isEmpty then new.kept else new.keptWith gone }

/-- Every frame. -/
def allFrames : List Nat := List.range 131072

/-- The frames that may have an owner: those whose ownership bytes are listed, when the table lies in DRAM. -/
def State.ownedFrames (s : State) : List Nat :=
  let b := fieldOf s.fotb 12 28 * 4096
  if b + 131072 ≤ 0x4000000000 then
    s.mem.filterMap fun c => if b ≤ c.1 ∧ c.1 < b + 131072 then some (c.1 - b) else none
  else allFrames

/-- The frames whose ownership bytes lie in [ra, ra + n). -/
def State.fotFrames (s : State) (ra n : Nat) : List Nat :=
  let b := fieldOf s.fotb 12 28 * 4096
  if ra + n ≤ b ∨ b + 131072 ≤ ra then []
  else (List.range n).filterMap fun i => if b ≤ ra + i ∧ ra + i < b + 131072 then some (ra + i - b) else none

/-! ## Stores -/

/-- A store performs: its line is allocated and dirty, its bytes are written, poison of the pieces it covers whole is cleared,
and the watches of its words see it; no cache keeps other bytes of the line; a store into the frame ownership table changes
keys (R277, R288, R289, R357, R389, R402). -/
def State.store (s : State) (ra : Nat) (l : List Byte) : State :=
  let n := l.length
  let s0 := (s.llc ra true).unkeep ra n
  let s1 := s0.rawWrite ra l
  let s2 := { s1 with
    poison := s.poison.filter fun pc => !wholePiece ra n pc
    watches := s.watches.map fun (w : Watch) =>
      watchStore (s.clockOf w.who.home) ra n (s.readWord w.addr) (s1.readWord w.addr) w }
  s2.rekey s0 (s.fotFrames ra n)

/-- A piece that [a, a + n) reads is poisoned (R389). -/
def State.poisoned (s : State) (ra n : Nat) : Bool :=
  s.poison.any fun pc => decide (ra < 16 * pc + 16 ∧ 16 * pc < ra + n)

/-! ## Data caches (R22, R27, R28, R290, R291) -/

/-- Where an access begins to look for its line. -/
inductive Tier where
  | l1 | l2 | home
deriving DecidableEq, Repr

/-- The capacities of Table 1.5, in lines. -/
def l1Lines : Nat := 1024
def l2Lines : Nat := 49152
def icacheLines : Nat := 256

/-- The line enters a cache of `cap` lines; a full one loses line number `drop` of those that are not locked. -/
def Cache.enter (c : Cache) (cap drop : Nat) (locked : List Nat) (ln : Nat) : Cache :=
  if c.lines.contains ln then c
  else if c.lines.length < cap then { c with lines := ln :: c.lines }
  else
    let v := (c.lines.filter fun l => !locked.contains l).getD drop 0
    { lines := ln :: c.lines.erase v, remote := c.remote.filter fun e => e.1 ≠ v }

/-- The copy of a remote line in a cache. -/
def Cache.copy (c : Cache) (ln : Nat) : Option (List Byte) :=
  match c.remote.get ln [] with
  | [] => none
  | l => some l

def Cache.drop (c : Cache) (gone : Nat → Bool) : Cache :=
  { lines := c.lines.filter fun l => !gone l, remote := c.remote.filter fun e => !gone e.1 }

/-- The L1 data cache that home `h` uses: its core's, or the service core's own. -/
def State.l1 (s : State) (h : Nat) : Cache := if h < 1024 then (s.core (coreOf h)).l1 else (s.svc (h - 1024)).l1

def State.setL1 (s : State) (h : Nat) (c : Cache) : State :=
  if h < 1024 then s.setCore (coreOf h) { s.core (coreOf h) with l1 := c }
  else s.setSvc (h - 1024) { s.svc (h - 1024) with l1 := c }

/-- The L2 slice of the crew of home `h`; a service core has none (R18). -/
def State.l2 (s : State) (h : Nat) : Cache := if h < 1024 then (s.crew (crewOf h)).l2 else Cache.reset

def State.setL2 (s : State) (h : Nat) (c : Cache) : State :=
  if h < 1024 then s.setCrew (crewOf h) { s.crew (crewOf h) with l2 := c } else s

/-- The number of a cache of home `h` among `CacheOf`'s. -/
def cacheUnit (h : Nat) : Nat := if h < 1024 then coreOf h else 256 + (h - 1024)

/-- The lines that context h keeps in its crew's L2 slice: those brought in for the rows of its load queues and for the
row that its access stream is loading, those of its load blocks, and the pinned lines of its matrix operands (R101,
R309, R313). -/
def Ctx.locked (c : Ctx) (moving : Option Moving) : List Nat :=
  (c.lqLines.flatMap fun e => e.2.flatten) ++ (match moving with | some y => y.locked | none => []) ++
    c.blocks.flatMap (fun b => if b.filled then b.held else []) ++
    ((match c.window with | some w => w.kept.flatMap fun k => k.fetch.lines | none => []) ++
      (c.mx.toList ++ c.held.map (·.mx)).flatMap (·.pins) ++
      (match c.fetched with | some f => f.lines | none => []) ++
      (match c.fetching with | some f => f.lines | none => [])).map (·.2)

/-- The lines of crew c's L2 slice that are never chosen for replacement. -/
def State.lockedLines (s : State) (c : Nat) : List Nat :=
  ((List.range 16).flatMap fun i => (s.ctx (16 * c + i)).locked (s.acc (16 * c + i)).moving) ++
    (match (s.crew c).load with | some l => l.lines.map (·.2) | none => [])

/-- A free number of a line that has to leave a cache of `cap` lines; none is needed while the cache has room. -/
def State.victim (s : State) (c : Cache) (cap : Nat) (locked : List Nat) (ln : Nat) : Nat × State :=
  if c.lines.contains ln || decide (c.lines.length < cap) then (0, s)
  else s.pick (c.lines.filter fun l => !locked.contains l).length

def State.enterL1 (s : State) (h ln : Nat) : State :=
  let (k, s1) := s.victim (s.l1 h) l1Lines [] ln
  s1.setL1 h ((s1.l1 h).enter l1Lines k [] ln)

def State.enterL2 (s : State) (h ln : Nat) : State :=
  let locked := s.lockedLines (crewOf h)
  let (k, s1) := s.victim (s.l2 h) l2Lines locked ln
  s1.setL2 h ((s1.l2 h).enter l2Lines k locked ln)

/-- The bytes that the L2 slice before home `h` keeps of a line that it holds. -/
def State.l2Kept (s : State) (h ln : Nat) : Option (List Byte) :=
  if h < 1024 ∧ (s.l2 h).lines.contains ln then s.keptOf (.l2 (crewOf h)) ln else none

/-- A load of the line of `ra`, homed in this package, takes the first of L1, L2 and the home slice that holds it, and leaves
it in those before it (R28). Only DRAM lines are held in caches (R402). -/
def State.lookup (s : State) (h ra : Nat) (lv : Tier) : State :=
  let ln := ra / 128
  if place ra ≠ .dram ∨ (lv = .l1 ∧ (s.l1 h).lines.contains ln) then s
  else
    let s1 := if lv = .l1 then (s.enterL1 h ln).keep (.l1 (cacheUnit h)) ln (s.l2Kept h ln) else s
    if lv ≠ .home ∧ h < 1024 then
      (if (s.l2 h).lines.contains ln then s1 else ((s1.enterL2 h ln).keep (.l2 (crewOf h)) ln none).llc ra false)
    else s1.llc ra false

/-- The bytes that the first copy of a line keeps, if they are not those of memory (R28, R357). -/
def State.keptFor (s : State) (h ln : Nat) (lv : Tier) : Option (List Byte) :=
  if lv = .l1 ∧ (s.l1 h).lines.contains ln then s.keptOf (.l1 (cacheUnit h)) ln
  else if lv = .home then none
  else s.l2Kept h ln

/-- The bytes that a load from the first copy of its line reads (R28). -/
def State.lookBytes (s : State) (h ra n : Nat) (lv : Tier) : List Byte :=
  match s.keptFor h (ra / 128) lv with
  | some l => (l.drop (ra % 128)).take n
  | none => s.rawRead ra n

/-- Two homes that reach remote memory through the same caches. -/
def sameCaches (h k : Nat) : Bool := h == k || (decide (h < 1024 ∧ k < 1024) && crewOf h == crewOf k)

/-- A posted store to remote line `ln` whose bytes the copies in the caches of home `h` take in. -/
def Posted.inCopies (x : Posted) (h ln : Nat) : Bool := x.addr / 128 == ln && !x.dom && sameCaches h x.who.home

/-- The bytes of remote line `ln` as a copy in the caches of home `h` holds them after a fetch: those of its home, with
the stores that have passed the same caches and are still on their way. -/
def State.remoteBytes (s : State) (h ln : Nat) : List Byte :=
  s.posted.foldl (fun l x => if x.inCopies h ln then patch l (x.addr % 128) x.bytes else l) (s.rawRead (128 * ln) 128)

/-- Home `h` has read a copy of remote line `ln`: the stores in it that are still on their way come, for its threads, before
what they do at the line's home later (R291). -/
def State.seeLine (s : State) (h ln : Nat) : State :=
  { s with posted := s.posted.map fun x =>
    if x.inCopies h ln && !x.seen.contains h then { x with seen := x.seen ++ [h] } else x }

/-- Copies of remote line `ln` are set: in the caches that `keep` names, and wherever one is held. -/
def State.setCopies (s : State) (h ln : Nat) (l : List Byte) (keep1 keep2 : Bool) : State :=
  let s1 := if keep1 then s.enterL1 h ln else s
  let s2 := if keep2 then s1.enterL2 h ln else s1
  let put := fun (c : Cache) (keep : Bool) =>
    if keep || (c.copy ln).isSome then { c with remote := c.remote.set ln l } else c
  let s3 := s2.setL1 h (put (s2.l1 h) keep1)
  s3.setL2 h (put (s3.l2 h) keep2)

/-- A plain load of `n` bytes of a remote line may take the copy of L1 or of L2, or fetch the line again, as the device
chooses. A fetched line becomes the caches' copy (R290, R291) (DESIGN CHOICE, assumption log 36). -/
def State.copyLoad (s : State) (h ra n : Nat) (lv : Tier) : List Byte × State :=
  let ln := ra / 128
  let c1 := if lv = .l1 then (s.l1 h).copy ln else none
  let c2 := (s.l2 h).copy ln
  let (k, s1) := if c1.isNone && c2.isNone then (2, s) else s.pick 3
  match (if k = 0 then c1 else none), (if k < 2 then c2 else none) with
  | some l, _ => ((l.drop (ra % 128)).take n, s1)
  | none, some l => ((l.drop (ra % 128)).take n, if lv = .l1 then s1.setCopies h ln l true false else s1)
  | none, none =>
    let l := s1.remoteBytes h ln
    ((l.drop (ra % 128)).take n, s1.setCopies h ln l (lv == .l1) (decide (h < 1024)))

/-- A load of `n` bytes of a remote line: one at the home reads the bytes of the home itself, and the copies that are
held take them in; a plain one, a copy or the home (R291, R294) (DESIGN CHOICE, assumption log 36). -/
def State.remoteLoad (s : State) (h ra n : Nat) (lv : Tier) : List Byte × State :=
  if lv = .home then (s.rawRead ra n, s.setCopies h (ra / 128) (s.remoteBytes h (ra / 128)) false false)
  else
    let (l, s1) := s.copyLoad h ra n lv
    (l, s1.seeLine h (ra / 128))

/-- A load of home `h`, of `n` bytes that do not cross a line, performs (R28, R291). -/
def State.loadAt (s : State) (h ra n : Nat) (lv : Tier) : List Byte × State :=
  if ra < 2 ^ 40 then (s.lookBytes h ra n lv, s.lookup h ra lv) else s.remoteLoad h ra n lv

/-- The caches of home `h` lose the copy of the line of `ra` (R291). -/
def State.dropCopy (s : State) (h ra : Nat) : State :=
  if 2 ^ 40 ≤ ra then
    let s1 := s.setL1 h ((s.l1 h).drop fun l => l == ra / 128)
    s1.setL2 h ((s1.l2 h).drop fun l => l == ra / 128)
  else s

/-- The name of an engine command: the commands of the mxq and of the cpq count apart, and each job's anew (R119, R316). -/
def Cmd.number (c : Cmd) : EngId := { gen := c.gen, seq := c.seq, mx := c.opc.toNat / 16 == 9 }

/-- Line `ln` enters the signature of an engine thread's stores. -/
def signFork (c : Cmd) (ln : Nat) : List ForkSig → List ForkSig
  | [] => [{ who := c.forker, eng := c.number, tok := c.tok.sig.toNat, sig := sigAdd 0 ln }]
  | x :: r => if x.who = c.forker ∧ x.eng = c.number then { x with sig := sigAdd x.sig ln } :: r else x :: signFork c ln r

/-- A remote line that a thread of home `h` has stored to enters SIG, or one that its engine command `eng` has stored to that
thread's signature (R292). -/
def State.signLine (s : State) (h ra : Nat) (eng : Option Cmd) : State :=
  let ln := lineNumber (ra / 2 ^ 40 - 1) (ra % 2 ^ 40)
  let c := s.ctx h
  s.setCtx h (match eng with
    | some m => { c with sigForks := signFork m ln c.sigForks }
    | none => { c with sig := sigAdd c.sig ln })

/-- A remote store's bytes enter the copies of the line in the core's L1 and the crew's L2. -/
def State.patchCopies (s : State) (h ra : Nat) (l : List Byte) : State :=
  let new := fun (c : Cache) => match c.copy (ra / 128) with
    | some old => { c with remote := c.remote.set (ra / 128) (patch old (ra % 128) l) }
    | none => c
  let s1 := s.setL1 h (new (s.l1 h))
  s1.setL2 h (new (s1.l2 h))

/-- The partition whose access a store of home `h`, or of its engine command `eng`, is: its job's, or that of the
command, which a fill keeps beyond its job (R330, R356). -/
def Ctx.storePart (c : Ctx) (eng : Option Cmd) : Option Nat :=
  let job := c.job.map fun j => j.nest.part
  match eng with
  | none => job
  | some m => match c.copies.find? fun y => y.cmd.number == m.number with
    | some y => some y.part
    | none => job

/-- A remote store of thread `t`, or of its engine thread `eng`, enters the signature and is posted; one of domain scope
updates no copy (R291, R292, R300) (DESIGN CHOICE, assumption log 36). -/
def State.post (s : State) (t : Thread) (eng : Option Cmd) (ra : Nat) (l : List Byte) (dom : Bool) : State :=
  let s1 := s.signLine t.home ra eng
  let s2 := if dom then s1 else s1.patchCopies t.home ra l
  { s2 with
    posted := s2.posted ++
      [{ who := t, eng := eng.map Cmd.number, part := (s.ctx t.home).storePart eng, addr := ra, bytes := l, dom := dom,
         seen := [] }] }

/-- A store of thread `t`, or of its engine thread `eng`, of bytes that do not cross a line: at the home for memory of this
package; a remote store is posted, and updates the copies in the core's L1 and the crew's L2 (R277, R291, R292). -/
def State.storeAt (s : State) (t : Thread) (eng : Option Cmd) (ra : Nat) (l : List Byte) : State :=
  if ra < 2 ^ 40 then s.store ra l else s.post t eng ra l false

end Machine
end Sys2Proof
end

