-- ==== Sys2Proof/Machine/Ops.lean ====
section
/-! DEFINITION. Machine/Ops.lean: translation and its checks, access at checked addresses, the event log, taking an exception
(raising a fault record, its delivery) and returning from one. Every meaning goes through these. -/

namespace Sys2Proof.Machine

/-! ## Modes of the functions of Table 1.8 (R32 to R34) -/

/-- Function i runs in host-assisted mode for a request that starts now. One that starts in the cycle of a write of HAMS goes
before the write (R34). -/
def State.assisted (s : State) (i : Nat) : Bool :=
  if s.hamsAt = s.now + 1 then s.hamsWas.getLsbD i else fieldOf s.hams i 1 == 1

/-! ## Translation (R297, R349 to R354) -/

/-- The check of R349 and R407 on the physical address of a translation of p, with the resolved address. An upper address
that Table 20.1 does not name has cause 6 (DESIGN CHOICE, assumption log 114). -/
def State.frameCheck (s : State) (p pa : Nat) : Except Cause Nat :=
  match place pa with
  | .dram => if s.frameOwner pa = p + 1 then .ok pa else .error (xlateCause 4)
  | .window sl _ =>
    let w := (s.slice sl).wpr
    if fieldOf w 16 6 = p ∧ 1 ≤ fieldOf w 0 4 then .ok pa else .error (xlateCause 4)
  | .domain i off =>
    match s.domainTarget i off with
    | some (dev, rpa, owner) => if owner = p then .ok (remoteAddr dev rpa) else .error (xlateCause 4)
    | none => .error (xlateCause 4)
  | .nothing => .error (xlateCause 6)
  | _ => .error (xlateCause 4)

/-- What an access needs (R352), and whether it stores. -/
structure Perm where
  r : Bool
  w : Bool
  x : Bool
  st : Bool
deriving DecidableEq, Repr

def Perm.load : Perm := { r := true, w := false, x := false, st := false }
def Perm.store : Perm := { r := false, w := true, x := false, st := true }
def Perm.both : Perm := { r := true, w := true, x := false, st := true }
/-- WAITA needs R and W, and only loads (R288). -/
def Perm.watch : Perm := { r := true, w := true, x := false, st := false }
def Perm.fetch : Perm := { r := false, w := false, x := true, st := false }
/-- RT forms ignore write permission (R332). -/
def Perm.table : Perm := Perm.load

def Perm.okFor (p : Perm) (t : Trans) : Bool := (!p.r || t.r) && (!p.w || t.w) && (!p.x || t.x)

def pageSize : Nat → Nat
  | 0 => 2 ^ 12
  | 1 => 2 ^ 16
  | 2 => 2 ^ 21
  | _ => 2 ^ 30

/-- An entry's reserved bits, [63:40] and [7:6] (Table 15.6). -/
def pteReserved (e : Word) : Bool := fieldOf e 40 24 ≠ 0 || fieldOf e 6 2 ≠ 0

def pteTrans (p va size : Nat) (e : Word) : Except Cause Trans :=
  let pa := fieldOf e 12 28 * 4096
  if pa % pageSize size ≠ 0 then .error (xlateCause 2)
  else .ok { part := p, va := va / pageSize size * pageSize size, size := size, pa := pa,
             r := fieldOf e 2 1 = 1, w := fieldOf e 3 1 = 1, x := fieldOf e 4 1 = 1 }

/-- An entry of a page table is read at a physical address: one without memory, or in a window that is absent, fails the
access for which the walk is made (R29, R402, R407) (DEDUCED, assumption log 38). -/
def State.readEntry (s : State) (a : Nat) : Except Cause Word :=
  match s.placeFault 0 false a with
  | some c => .error c
  | none => .ok (s.readWord a)

/-- What the entry of the last level gives, with the first entry of its group of sixteen (R350, R351). -/
def lastEntry (p va : Nat) (g e : Word) : Except Cause Trans :=
  if fieldOf g 0 2 = 3 ∧ fieldOf g 5 1 = 1 then
    if pteReserved g then .error (xlateCause 2) else pteTrans p va 1 g
  else if fieldOf e 0 1 = 0 then .error (xlateCause 1)
  else if pteReserved e ∨ fieldOf e 1 1 = 0 then .error (xlateCause 2)
  else pteTrans p va 0 e

/-- The walk of partition p's tables from the table of level 3 - `n` (R350, R351). -/
def State.walkFrom (s : State) (p va : Nat) : Nat → Nat → Except Cause Trans
  | 0, table =>
    let idx := va / 2 ^ 12 % 512
    match s.readEntry (table + 8 * (idx / 16 * 16)), s.readEntry (table + 8 * idx) with
    | .ok g, .ok e => lastEntry p va g e
    | .error c, _ | _, .error c => .error c
  | n + 1, table =>
    match s.readEntry (table + 8 * (va / 2 ^ (12 + 9 * (n + 1)) % 512)) with
    | .error c => .error c
    | .ok e =>
      if fieldOf e 0 1 = 0 then .error (xlateCause 1)
      else if pteReserved e ∨ fieldOf e 5 1 = 1 then .error (xlateCause 2)
      else if fieldOf e 1 1 = 1 then
        if n = 2 then .error (xlateCause 2) else pteTrans p va (n + 2) e
      else s.walkFrom p va n (fieldOf e 12 28 * 4096)

/-- DEDUCED, assumption log 37. -/
def State.walk (s : State) (p va : Nat) : Except Cause Trans :=
  s.walkFrom p va 3 (fieldOf (s.part p).pd0 12 28 * 4096)

/-- A cached translation of p for `va`, in the core's cache or the crew's (R354). `h` is the home of the thread. -/
def State.cached (s : State) (h p va : Nat) : Option Trans :=
  let hit := fun t : Trans => t.part == p && decide (t.va ≤ va ∧ va < t.va + pageSize t.size)
  if h < 1024 then ((s.core (coreOf h)).tlb ++ (s.crew (crewOf h)).tlb).find? hit else none

/-- The result of a translation: an address, a fault, or a walk that the host has to make (Table 1.8, function 0). -/
inductive Xlate where
  | ok (ra : Nat)
  | bad (c : Cause)
  | forward
deriving DecidableEq, Repr

/-- What a walk of p's tables for an access gives: its address, or the cause of its fault (R352, R353)
(DEDUCED, assumption log 38). -/
def State.walked (s : State) (p : Nat) (perm : Perm) (a : Nat) : Except Cause Nat :=
  match s.walk p a with
  | .error c => .error c
  | .ok t => if perm.okFor t then s.frameCheck p (t.pa + a % pageSize t.size) else .error (xlateCause 3)

/-- The walk that a home waited for ended without a translation. -/
def State.failedWalk (s : State) (h p page : Nat) : Option Failed :=
  s.refusedWalks.find? fun x => x.home == h && x.part == p && x.page == page

/-- Translates virtual address `va` of partition `p` for a thread of home `h` (R297, R347, R352 to R354): from the caches; an
access that misses waits for a walk. The threads of a service core have no translation cache, and each of their accesses
walks (DEDUCED, assumption logs 37 and 38). -/
def State.xlateVirt (s : State) (h p : Nat) (perm : Perm) (va : Word) : Xlate :=
  let a := va.toNat
  let made := fun (x : Except Cause Nat) (ok : Nat → Xlate) => match x with | .ok ra => ok ra | .error c => .bad c
  if 2 ^ 48 ≤ a then .bad (xlateCause 5)
  else if fieldOf (s.part p).pd0 63 1 = 0 then .bad (xlateCause 8)
  else if 1024 ≤ h then made (s.walked p perm a) .ok
  else
    match s.cached h p a with
    | some t => if perm.okFor t then .ok (t.pa + (a - t.va)) else .bad (xlateCause 3)
    | none =>
      match s.failedWalk h p (a / 4096) with
      | none => .forward
      | some x =>
        match x.cause with
        | some c => .bad (xlateCause c)
        | none => made (s.walked p perm a) fun _ => .forward

/-- A service core's address: physical, bits [39:0] (R401, R407 to R409). -/
def State.xlatePhys (s : State) (va : Word) : Xlate :=
  let a := va.toNat
  if 2 ^ 40 ≤ a then .bad (xlateCause 5)
  else
    match place a with
    | .nothing => .bad (xlateCause 6)
    | .domain i off =>
      match s.domainTarget i off with
      | some (dev, rpa, _) => .ok (remoteAddr dev rpa)
      | none => .bad (xlateCause 6)
    | _ => .ok a

/-- The partition that an access carries: the job's, or for a service core that of the domain window (log 21)
(DEDUCED, assumption log 21). -/
def State.carried (s : State) (h : Nat) (va : Word) : Nat :=
  if h < 1024 then s.partOf h
  else
    match place va.toNat with
    | .domain i _ => fieldOf (s.dwin.get i 0) 40 6
    | _ => 0

/-- Translates an address of a thread of home `h`. -/
def State.xlate (s : State) (h : Nat) (perm : Perm) (va : Word) : Xlate :=
  if h < 1024 then s.xlateVirt h (s.partOf h) perm va else s.xlatePhys va

/-- Splits [va, va + n) where 16-byte pieces begin; at most `fuel` pieces. -/
def pieces : Nat → Word → Nat → List (Word × Nat)
  | 0, _, _ => []
  | _, _, 0 => []
  | fuel + 1, va, n =>
    let k := Nat.min n (16 - va.toNat % 16)
    (va, k) :: pieces fuel (va + BitVec.ofNat 64 k) (n - k)

def piecesOf (va : Word) (n : Nat) : List (Word × Nat) := pieces (n / 16 + 2) va n

/-- The outcome of the checks of an access. -/
inductive Chk where
  | ok
  | bad (c : Cause) (addr : Word)
  | forward (addr : Word)
deriving DecidableEq, Repr

/-- The first translation fault among some pieces (R299, step 3). -/
def State.chkXlate (s : State) (h : Nat) (perm : Perm) : List (Word × Nat) → Chk
  | [] => .ok
  | (va, _) :: r =>
    match s.xlate h perm va with
    | .ok _ => s.chkXlate h perm r
    | .bad c => .bad c va
    | .forward => .forward va

/-- The first fault where pieces that translate perform (R299, step 4; R408, R410). -/
def State.chkPlace (s : State) (h : Nat) (perm : Perm) : List (Word × Nat) → Chk
  | [] => .ok
  | (va, _) :: r =>
    match s.xlate h perm va with
    | .ok ra =>
      match s.placeFault (s.carried h va) perm.st ra with
      | some c => .bad c va
      | none => s.chkPlace h perm r
    | .bad c => .bad c va
    | .forward => .forward va

/-- The first poisoned piece that is read (R389). -/
def State.chkPoison (s : State) (h : Nat) (perm : Perm) : List (Word × Nat) → Chk
  | [] => .ok
  | (va, n) :: r =>
    match s.xlate h perm va with
    | .ok ra => if perm.r && s.poisoned ra n then .bad { cls := 18, sub := 1 } va else s.chkPoison h perm r
    | _ => .ok

/-- The checks of R299 over some pieces from step 3 on, and then the poison test of R389. -/
def State.chkPieces (s : State) (h : Nat) (perm : Perm) (l : List (Word × Nat)) : Chk :=
  match s.chkXlate h perm l with
  | .ok =>
    match s.chkPlace h perm l with
    | .ok => s.chkPoison h perm l
    | c => c
  | c => c

def State.chk (s : State) (h : Nat) (perm : Perm) (va : Word) (n : Nat) : Chk := s.chkPieces h perm (piecesOf va n)

/-! ## Access at checked addresses -/

/-- Where a checked address lies. -/
def State.addr (s : State) (h : Nat) (perm : Perm) (va : Word) : Nat :=
  match s.xlate h perm va with
  | .ok ra => ra
  | _ => 0

/-- Reads checked bytes at a virtual (or a service core's physical) address, piece by piece in ascending order. -/
def State.readPieces (s : State) (h : Nat) (perm : Perm) (lv : Tier) : List (Word × Nat) → List Byte × State
  | [] => ([], s)
  | (va, n) :: r =>
    let (b, s1) := s.loadAt h (s.addr h perm va) n lv
    let (bs, s2) := s1.readPieces h perm lv r
    (b ++ bs, s2)

def State.readV (s : State) (h : Nat) (perm : Perm) (lv : Tier) (va : Word) (n : Nat) : List Byte × State :=
  s.readPieces h perm lv (piecesOf va n)

/-- Writes checked bytes piece by piece in ascending order. -/
def State.writePieces (s : State) (t : Thread) (eng : Option Cmd) (perm : Perm) : List (Word × Nat) → List Byte → State
  | [], _ => s
  | (va, n) :: r, l =>
    (s.storeAt t eng (s.addr t.home perm va) (l.take n)).writePieces t eng perm r (l.drop n)

def State.writeV (s : State) (t : Thread) (eng : Option Cmd) (perm : Perm) (va : Word) (l : List Byte) : State :=
  s.writePieces t eng perm (piecesOf va l.length) l

/-! ## Scratchpad and accumulator tile (R22, R24, R285) -/

/-- The poison numbers of scratchpad pieces and of accumulator elements stand above those of the physical space. -/
def spadPiece (g off : Nat) : Nat := 2 ^ 60 + g * 2 ^ 17 + off / 16
def tilePiece (g row elt : Nat) : Nat := 2 ^ 61 + g * 2 ^ 16 + row * 256 + elt

def State.spadRead (s : State) (h off n : Nat) : List Byte :=
  memRead zeroByte (s.core (coreOf h)).spad ((s.ctx h).spadBase + off) n

/-- A write of the scratchpad clears the poison of the 16-byte pieces that it covers whole (R389). -/
def State.spadWrite (s : State) (h off : Nat) (l : List Byte) : State :=
  let g := coreOf h
  let a := (s.ctx h).spadBase + off
  let s1 := s.setCore g { s.core g with spad := memWrite zeroByte (s.core g).spad a l }
  { s1 with
    poison := s1.poison.filter fun pc =>
      !(spadPiece g 0 ≤ pc && pc < spadPiece (g + 1) 0 && wholePiece a l.length (pc - spadPiece g 0)) }

/-- An offset and a length lie inside the job's range (R297). -/
def State.spadOk (s : State) (h off n : Nat) : Bool := decide (off + n ≤ (s.ctx h).spadLen)

/-- Row `r` of the job's accumulator run (R24). -/
def State.row (s : State) (h r : Nat) : Row := (s.core (coreOf h)).tile.get ((s.ctx h).accBase + r) 0

def State.setRow (s : State) (h r : Nat) (x : Row) : State :=
  let g := coreOf h
  s.setCore g { s.core g with tile := (s.core g).tile.set ((s.ctx h).accBase + r) x }

/-- A read of [off, off + n) of the job's scratchpad range meets poison (R389). -/
def State.spadPoisoned (s : State) (h off n : Nat) : Bool :=
  let a := (s.ctx h).spadBase + off
  s.poison.any fun pc => decide (spadPiece (coreOf h) a ≤ pc ∧ pc ≤ spadPiece (coreOf h) (a + n - 1))

/-! ## Poisoned entries of queues (R388) -/

/-- The number of the entry that queue q of job j pops as its n-th; q counts as W4 to W9 do. -/
def queuePiece (j q n : Nat) : Nat := 2 ^ 62 + (j * 16 + q) * 2 ^ 16 + n % 2 ^ 16

/-- Job, queue and number of the entry that a mark stands for. -/
def queueMark (pc : Nat) : Option (Nat × Nat × Nat) :=
  if 2 ^ 62 ≤ pc then some ((pc - 2 ^ 62) / 2 ^ 20, (pc - 2 ^ 62) / 2 ^ 16 % 16, (pc - 2 ^ 62) % 2 ^ 16) else none

/-- The entry at the head of queue q of job j is poisoned. -/
def State.headPoisoned (s : State) (j q : Nat) : Bool := s.poison.contains (queuePiece j q ((s.ctx j).pops.get q 0).toNat)

/-- The queues of job j hold nothing any more. -/
def State.clearQueues (s : State) (j : Nat) : State :=
  { s with poison := s.poison.filter fun pc => !(queuePiece j 0 0 ≤ pc && pc < queuePiece (j + 1) 0 0) }

/-! ## Requests to the host (R413) -/

/-- A record of 64 bytes enters the host's request ring at RING × 64, or goes out on the port that PORT names. The record's
layout is not given: its bytes are free values (DESIGN CHOICE, assumption log 25). -/
def State.hostRecord (s : State) : State :=
  let a := fieldOf s.hagt 0 42 * 64
  if fieldOf s.hagt 48 2 = 1 ∧ a + 64 ≤ 2 ^ 38 then
    { s.store (0xC000000000 + a) (bytesLE 64 (Config.freeNat s.free)) with free := s.free + 1 }
  else s

/-- A request of function `fn` waits for its completion; 7 stands for the NVMe controller's (R337). -/
def State.request (s : State) (fn : Nat) (w : HostWork) (port : Option Nat) : State :=
  { s with
    hostReqs := s.hostReqs ++ [{ id := s.nextReq, fn := BitVec.ofNat 3 fn, work := w, at_ := s.now, port := port }]
    nextReq := s.nextReq + 1 }

/-- Forwards a request of function `fn` to the host. -/
def State.forward (s : State) (fn : Nat) (w : HostWork) : State :=
  s.hostRecord.request fn w (if fieldOf s.hagt 48 2 = 2 then some (fieldOf s.hagt 45 3) else none)

/-! ## The event log (R390, R425) -/

/-- An event record's eight words enter the ring at its number; a write that cannot perform is dropped (R390)
(DESIGN CHOICE, assumption log 61). -/
def State.storeLog (s : State) (n : Nat) (words : List Word) : State :=
  let a := fieldOf s.evl0 12 28 * 4096 + n % 2 ^ (fieldOf s.evl1 0 4 + 6) * 64
  match s.placeFault 0 true a with
  | none => s.store a (words.flatMap fun w => bytesLE 8 w.toNat)
  | some _ => s

/-- Writes an event record, or forwards it to the host in host-assisted error logging; NEXT counts it either way
(DESIGN CHOICE, assumption log 20). -/
def State.logEvent (s : State) (kind sub unit : Nat) (e : List Word) : State :=
  let n := fieldOf s.evl1 32 32
  let words : List Word :=
    [BitVec.ofNat 64 (kind * 2 ^ 56 + sub % 256 * 2 ^ 48 + unit % 256 * 2 ^ 40), BitVec.ofNat 64 n,
      BitVec.ofNat 64 s.now] ++ (e ++ [0, 0, 0, 0]).take 4 ++ [0]
  let s1 := { s with evl1 := withField s.evl1 32 32 (n + 1) }
  if s.assisted 6 then s1.forward 6 (.log words) else s1.storeLog n words

/-! ## Fault records (R371, R372) -/

/-- The class restarts its unit (Table 16.2). -/
def restartable (c : Cause) : Bool :=
  [4, 5, 6, 9, 10, 12, 13, 16, 17].contains c.cls.toNat || (c.cls == 18 && c.sub == 1)

/-- The class goes to the partition supervisor. -/
def privClass (c : Cause) : Bool := 16 ≤ c.cls.toNat

def unitOf : Thread → Unit
  | .cox _ => .cox
  | .acc _ => .acc
  | .vec _ => .vec
  | .spore _ k => .spore k
  | .svc _ => .service

/-- The order of delivery of records of one cycle (R370). -/
def Unit.rank : Unit → Nat
  | .cox => 0
  | .none => 0
  | .acc => 1
  | .vec => 2
  | .spore k => 3 + k
  | .mxq => 7
  | .cpq => 8
  | .service => 9

/-- STREAM of Table 16.1. -/
def Unit.code : Unit → Nat
  | .cox => 0
  | .acc => 1
  | .vec => 2
  | .mxq => 3
  | .cpq => 4
  | .spore _ => 5
  | .service => 6
  | .none => 7

def Unit.spn : Unit → Nat
  | .spore k => k
  | _ => 0

/-- The bit of PEND for a unit; a record that stops no unit goes with the cox's (R228). -/
def Unit.pend : Unit → Nat
  | .cox => 0
  | .none => 0
  | .acc => 1
  | .vec => 2
  | .mxq => 3
  | .cpq => 4
  | .spore _ => 5
  | .service => 0

def Job.left (j : Job) : Nat := j.budget - j.owned

def Ctx.cut (c : Ctx) : List (BitVec 16 × BitVec 16) :=
  (List.range 12).map fun q => (c.pushes.get q 0, c.pops.get q 0)

def Ctx.tokWords (c : Ctx) : List (BitVec 16) := (List.range 16).map fun t => c.token t

/-- The record of a fault of unit `u` of home `h`. -/
def State.mkRecord (s : State) (h : Nat) (u : Unit) (c : Cause) (pc addr w3 : Word) : Record :=
  let x := s.ctx h
  let svc := u == .service
  { cls := c.cls, sub := c.sub, unit := u,
    part := if svc then 0 else BitVec.ofNat 6 x.part,
    core := if svc then BitVec.ofNat 8 (h - 1024) else BitVec.ofNat 8 (coreOf h),
    ctx := if svc then 0 else BitVec.ofNat 2 h,
    rst := restartable c, pc := pc, addr := addr, w3 := w3, cut := [],
    tok := if svc then x.tokWords else [], cutv := svc, set := svc,
    budg := match x.job with | some j => BitVec.ofNat 40 j.left | none => 0,
    psv := 0, home := h, gen := x.gen, at_ := s.clockOf h, addPending := false, thread := none }

/-- Words 4 to 13 are zero and can be read at once in a record that carries no cut (R368, R382). -/
def Record.noCut (r : Record) : Bool := r.unit == .none

def queueHalf (x : BitVec 16 × BitVec 16) : Nat := x.1.toNat * 2 ^ 16 + x.2.toNat

/-- Word `w` of a record (Table 16.1); `pend` is PEND as it stands. -/
def Record.word (r : Record) (pend : Nat) (w : Nat) : Word :=
  if w = 0 then
    BitVec.ofNat 64 (r.cls.toNat * 2 ^ 56 + r.sub.toNat * 2 ^ 48 + r.unit.code * 2 ^ 45 + r.unit.spn * 2 ^ 40 +
      pend * 2 ^ 32 + r.part.toNat * 2 ^ 24 + r.core.toNat * 2 ^ 16 + r.ctx.toNat * 2 ^ 14 +
      (if r.set then 4 else 0) + (if r.cutv then 2 else 0) + (if r.rst then 1 else 0))
  else if w = 1 then r.pc
  else if w = 2 then r.addr
  else if w = 3 then r.w3
  else if w < 10 then
    BitVec.ofNat 64 (queueHalf (r.cut.getD (2 * (w - 4)) (0, 0)) * 2 ^ 32 +
      queueHalf (r.cut.getD (2 * (w - 4) + 1) (0, 0)))
  else if w < 14 then
    BitVec.ofNat 64 ((List.range 4).foldr (fun i n => n * 2 ^ 16 + (r.tok.getD (4 * (w - 10) + i) 0).toNat) 0)
  else if w = 14 then BitVec.ofNat 64 r.budg.toNat
  else BitVec.ofNat 64 (r.psv.toNat * 2)

/-- PEND of a record of home `h`: the other units with undelivered records (Table 16.1). Privileged records count while
they wait behind the one being handled. -/
def State.pendOf (s : State) (r : Record) : Nat :=
  let user := if (s.ctx r.home).gen = r.gen then (s.ctx r.home).records.map fun x => x.unit else []
  let priv := (List.range 8).flatMap fun n =>
    ((s.svc n).intake.drop (if (s.svc n).sin then 1 else 0)).filterMap fun x =>
      if x.home = r.home ∧ x.gen = r.gen ∧ x.unit ≠ r.unit then some x.unit else none
  let waits := s.waitRecs.filterMap fun x =>
    if x.2.home = r.home ∧ x.2.gen = r.gen ∧ x.2.unit ≠ r.unit then some x.2.unit else none
  if r.unit = .service then 0
  else ((List.range 6).map fun b =>
    if (user ++ priv ++ waits).any (fun u => u.pend == b && u != .service) then 2 ^ b else 0).foldl (· + ·) 0

/-- Puts a user record among the job's undelivered ones, by stop cycle and then by unit (R370). -/
def insertRecord (r : Record) : List Record → List Record
  | [] => [r]
  | x :: l =>
    if r.at_ < x.at_ ∨ (r.at_ = x.at_ ∧ r.unit.rank < x.unit.rank) then r :: x :: l else x :: insertRecord r l

/-- The failed walks of a page are used up: an access that is made again walks again. -/
def State.dropFailed (s : State) (h : Nat) (va : Word) : State :=
  { s with refusedWalks := s.refusedWalks.filter fun x => !(x.home == h && x.page == va.toNat / 4096) }

/-- The failed walk whose cause a translation fault carries is used up. -/
def State.answered (s : State) (r : Record) : State := if r.cls = 16 then s.dropFailed r.home r.addr else s

/-- In host-assisted error logging a copy of a record that enters an intake goes to the host (R376). -/
def State.copyToHost (s : State) (pend : Nat) (r : Record) : State :=
  if s.assisted 6 then s.forward 6 (.record ((List.range 16).map (r.word pend))) else s

/-- Record r goes before x: both are of one job and of one cycle, and r's unit comes first (R370). -/
def Record.ahead (r x : Record) : Bool :=
  r.home == x.home && r.gen == x.gen && r.at_ == x.at_ && decide (r.unit.rank < x.unit.rank)

/-- Puts a privileged record behind those that have been raised, but ahead of those of its job and cycle whose units come
after its own (R370). -/
def insertPriv (r : Record) : List Record → List Record
  | [] => [r]
  | x :: l => if r.ahead x then r :: x :: l else x :: insertPriv r l

/-- A record enters intake n, or waits at its source while the intake is full; what is being handled stays at the head
(R370, R376). -/
def State.intoIntake (s : State) (n : Nat) (r : Record) : State :=
  let v := s.svc n
  let k := if v.sin then 1 else 0
  let l := v.intake.take k ++ insertPriv r (v.intake.drop k ++ (s.waitRecs.filter fun x => x.1 == n).map (·.2))
  let cap := Nat.max 16 v.intake.length
  { s.setSvc n { v with intake := l.take cap } with
    waitRecs := (s.waitRecs.filter fun x => x.1 != n) ++ (l.drop cap).map fun x => (n, x) }

/-- Puts a privileged record into the intake of the service core that FDST names; a full intake leaves it at its source.
Every privileged record leaves an event of kind 11 (R376, Table 16.12)
(DESIGN CHOICE, assumption log 20; DEDUCED, assumption log 86). -/
def State.postPriv (s : State) (dst : Nat) (r : Record) : State :=
  let s := s.answered r
  let n := (s.fdst.get dst 0).toNat
  let w := fun i => r.word (s.pendOf r) i
  let s1 := s.logEvent 11 r.sub.toNat (if r.home < 1024 then crewOf r.home else 0xFF) [w 0, w 1, w 2, w 3]
  (s1.copyToHost (s1.pendOf r) r).intoIntake n r

/-- Lets waiting records into an intake that has room, in the order in which they were raised (R376). -/
def State.fillIntake (s : State) (n : Nat) : State :=
  match s.waitRecs.find? fun x => x.1 == n with
  | some x =>
    if (s.svc n).intake.length < 16 then
      { s.setSvc n { s.svc n with intake := (s.svc n).intake ++ [x.2] } with waitRecs := s.waitRecs.erase x }
    else s
  | none => s

/-! ## The end of a job (R149, R229, R330, R384) -/

/-- The entry a context's shadow takes when its owner is gone (R86). -/
def emptyEntry : Word := 0xFFFF_0000_0000_0000

def Crew.entry (c : Crew) (j : Nat) : Word := c.dir.get j emptyEntry
def Crew.setEntry (c : Crew) (j : Nat) (w : Word) : Crew := { c with dir := c.dir.set j w }

/-- The number by which a directory entry names context `h` as OWNER: core within the crew × 4 + context. -/
def ownerNum (h : Nat) : Nat := h % 16

/-- The array forgets a job: a shadow it owns becomes EMPTY, its lease ends, and rows in flight write nothing when it was
killed (R86, R149). -/
def Crew.dropJob (c : Crew) (h : Nat) (killed : Bool) : Crew :=
  let e := c.entry 16
  let mine := fieldOf e 13 3 ≠ 0 ∧ fieldOf e 28 4 = ownerNum h
  { c with
    dir := if mine then c.dir.set 16 emptyEntry else c.dir
    load := match c.load with | some l => if l.job = h then none else some l | none => none
    lease := match c.lease with | some l => if l.job = h then none else some l | none => none
    flights := if killed then c.flights.map fun f => if f.job = h then { f with dead := true } else f else c.flights }

/-- Messages to or from a job leave the ports when it ends (R220, R330). -/
def CoreSt.dropMsgs (c : CoreSt) (h : Nat) : CoreSt := { c with port := c.port.filter fun m => m.job != h && m.home != h }

/-- A spore that was taking a payload from a job that ends is ARMED again (DEDUCED, assumption log 69). -/
def State.unfill (s : State) (m : PortMsg) : State :=
  let c := s.ctx m.job
  let sp := c.spores.get m.spore { state := .idle, tag := 0 }
  if sp.state = .filling then s.setCtx m.job { c with spores := c.spores.set m.spore { sp with state := .armed } } else s

/-- DEDUCED, assumption log 69. -/
def State.dropMsgs (s : State) (h : Nat) : State :=
  let heads := s.cores.flatMap fun e =>
    (List.range 16).filterMap fun i =>
      match e.2.port.find? fun m => m.job == 4 * e.1 + i / 4 && m.spore == i % 4 with
      | some m => if m.home = h ∧ m.job ≠ h then some m else none
      | none => none
  let s1 := heads.foldl State.unfill s
  { s1 with cores := s1.cores.map fun e => (e.1, e.2.dropMsgs h) }

/-- A cox or spore goes on no more, and a load of it that has still to perform is dropped. -/
def State.endCox (s : State) (t : Thread) : State :=
  let x := s.cox t
  s.setCox t { x with late := [], run := { x.run with status := .off } }

/-- No stream, spore or watch of a job goes on, and what an access of its streams has still to perform is dropped. -/
def State.dropStreams (s : State) (h : Nat) : State :=
  let a := s.acc h
  let s1 := ((s.endCox (.cox h)).setAcc h { a with moving := none, run := { a.run with status := .off } }).setStatus (.vec h) .off
  let s2 := (List.range 4).foldl (fun x k => x.endCox (.spore h k)) s1
  { s2 with watches := s2.watches.filter fun w => w.fence.isSome || w.who.home != h }.dropMsgs h

/-- What is left of a context's engine work when its job ends: fills run to their end (R330). -/
def Ctx.ended (c : Ctx) (killed : Bool) : Ctx :=
  { c with
    cqv := [], cqa := [], lq := [], lqLines := [], sq := [], rq := [], fq := [], mxq := [], cpq := [], mailbox := []
    mx := if killed then none else c.mx
    mxTail := if killed then [] else c.mxTail
    held := [], fetched := none, fetching := none, window := none, redoing := []
    copies := (c.copies.filter Copy.isFill).map fun x => { x with stopped := false }
    blocks := [], spores := [], records := [], handling := none
    grammar := { c.grammar with load := none } }

/-- Words E3 to E6 of an event of kind 8 (Table 16.14). -/
def killWords (j : Job) (reason : Nat) (c : Cause) : List Word :=
  [j.nest.addr, BitVec.ofNat 64 (j.nest.part * 2 ^ 32 + j.nest.queue * 2 ^ 16 + j.nest.ring % 2 ^ 16),
    BitVec.ofNat 64 j.seq, BitVec.ofNat 64 (c.cls.toNat * 2 ^ 56 + c.sub.toNat * 2 ^ 48 + reason)]

def noCause : Cause := { cls := 0, sub := 0 }

/-- Kills the job of context `h`; its counter add and the return of its context follow (R229, R149, R384). SUB of its event
is 0 (DESIGN CHOICE, assumption log 118). -/
def State.killJob (s : State) (h reason : Nat) (c : Cause) : State :=
  let x := s.ctx h
  match x.job with
  | none => s
  | some j =>
    match j.phase with
    | .placed _ | .running =>
      let s1 := (s.logEvent 8 0 (crewOf h) (killWords j reason c)).dropStreams h
      let s2 := s1.setCtx h { x.ended true with job := some { j with phase := .ending, killed := true } }
      s2.setCrew (crewOf h) ((s2.crew (crewOf h)).dropJob h true)
    | _ => s

/-- Another job of queue q of partition p is resident. -/
def State.resident (s : State) (p q : Nat) : Bool :=
  s.ctxs.any fun x => match x.2.job with | some j => j.nest.part == p && j.nest.queue == q | none => false

/-- A SUSPENDING queue with no resident job becomes SUSPENDED (R225). -/
def State.suspendDone (s : State) (p q : Nat) : State :=
  let x := s.queue p q
  if fieldOf x.d0 0 3 = 2 ∧ ¬ s.resident p q then s.setQueue p q { x with d0 := withField x.d0 0 3 3 } else s

/-- The context, its scratchpad range, rows and slot entries return to the walker (R197). -/
def State.freeCtx (s : State) (h : Nat) : State :=
  let x := s.ctx h
  let g := coreOf h
  let s0 := (s.dropMsgs h).clearQueues h
  let s1 := { s0 with refusedWalks := s0.refusedWalks.filter fun y => y.home != h }.setCtx h
    { Ctx.reset with gen := x.gen + 1, copies := x.copies.filter Copy.isFill }
  let s2 := s1.setCore g { s1.core g with slots := (s1.core g).slots.filter fun e => e.2 ≠ h % 4 + 1 }
  match x.job with
  | some j => s2.suspendDone j.nest.part j.nest.queue
  | none => s2

/-! ## Taking an exception (R367, R372 to R377) -/

/-- A unit of a job raises a fault: a user class goes to the job's undelivered records, a privileged one to an intake
(R372). The unit has been stopped by the caller. -/
def State.postRecord (s : State) (c : Cause) (r : Record) : State :=
  if privClass c then s.postPriv r.part.toNat r
  else s.setCtx r.home { s.ctx r.home with records := insertRecord r (s.ctx r.home).records }

/-- A record of service core n's own enters the head of its intake; while SIN = 1 the core halts and an event of kind 11 is
written (R377, R404). -/
def State.svcRecord (s : State) (n : Nat) (r : Record) : State :=
  let s1 := (s.setSvc n { s.svc n with intake := r :: (s.svc n).intake }).copyToHost 0 r
  if (s.svc n).sin then
    (s1.setStatus (.svc n) .crashed).logEvent 11 r.sub.toNat 0xFF [r.word 0 0, r.word 0 1, r.word 0 2, r.word 0 3]
  else s1

/-- A fault of a service core's own word (R377). -/
def State.svcFault (s : State) (n : Nat) (c : Cause) (addr w3 : Word) (rst : Bool) : State :=
  let r := s.mkRecord (1024 + n) .service c (s.stream (.svc n)).pc addr w3
  s.svcRecord n { r with rst := r.rst && rst }

/-- The word of thread `t` faults: the stream stops at it, the word has no effect, and the record is raised (R60, R367). A
user fault of the handler's own cox words kills the job (R374). `rst` is false in the record of a branch that commits a
poisoned shadow (R218). -/
def State.faultWith (s : State) (t : Thread) (c : Cause) (addr w3 : Word) (rst : Bool) : State :=
  match t with
  | .svc n => s.svcFault n c addr w3 rst
  | t =>
    let h := t.home
    if t = .cox h ∧ ¬ privClass c ∧ (s.ctx h).handling.isSome then s.killJob h 4 c
    else
      let r := s.mkRecord h (unitOf t) c (s.stream t).pc addr w3
      (s.setStatus t .stopped).postRecord c { r with rst := r.rst && rst }

def State.fault (s : State) (t : Thread) (c : Cause) (addr : Word) : State := s.faultWith t c addr 0 true

def illegal : Cause := { cls := 1, sub := 0 }
def queueProtocol : Cause := { cls := 2, sub := 0 }
def privileged : Cause := { cls := 3, sub := 0 }
def alignment : Cause := { cls := 7, sub := 0 }
/-- DEDUCED, assumption log 63. -/
def spadRange : Cause := { cls := 8, sub := 0 }

/-- HST of a job context: HIN while a record is being handled, and that record's RST (Table 16.3). -/
def Ctx.hst (c : Ctx) : Word :=
  match c.handling with
  | some r => if r.rst then 3 else 1
  | none => 0

/-- The shadows of a cox become invalid (R219). -/
def Cox.dropShadows (c : Cox) : Cox := { c with sh1 := [], sh2 := [] }

/-- The record that would be delivered to the handler of context `h` now (R373) (DEDUCED, assumption log 39). -/
def State.deliverable (s : State) (h : Nat) : Option Record :=
  let c := s.ctx h
  match c.records with
  | [] => none
  | r :: _ =>
    match (s.cox (.cox h)).run.status with
    | .ready | .parked => if c.handling.isNone && s.running h then some r else none
    | .stopped =>
      if c.handling.isNone && s.running h && c.records.any (fun x => x.unit == .cox) then some r else none
    | _ => none

/-- Taking a user fault: EPC, PSV, HST, the shadows and the pc (R373). -/
def State.deliver (s : State) (h : Nat) (r : Record) : State :=
  let c := s.ctx h
  let x := s.cox (.cox h)
  let r' := { r with psv := BitVec.ofNat 7 (x.preds.toNat / 2) }
  let handler : Word := match c.job with | some j => j.nest.handler | none => 0
  let s1 := s.setCtx h
    { c with records := c.records.erase r, handling := some r', epc := x.run.pc &&& ~~~ 7 }
  let s2 := s1.setCox (.cox h)
    { x.dropShadows with run := x.run.restart handler }
  { s2 with watches := s2.watches.filter fun w => w.fence.isSome || w.who ≠ .cox h }

/-- A service core can take its trap (R377). A crashed core takes none. -/
def State.trapReady (s : State) (n : Nat) : Bool :=
  !(s.svc n).intake.isEmpty && !(s.svc n).sin &&
    (match (s.cox (.svc n)).run.status with | .ready | .parked | .halted => true | _ => false)

/-- The forced evictions that a word of service core n waits for are requested no more (R364) (DESIGN CHOICE, assumption
log 126). -/
def State.dropFevs (s : State) (n : Nat) : State :=
  let mine := fun (r : FevReq) => match r.why with | .write k _ => k == n | .error _ => false
  { s with crews := s.crews.map fun x => (x.1, { x.2 with fevs := x.2.fevs.filter fun r => !mine r }) }

/-- Taking a service core's trap: SEPC, SIN, the shadows and the pc (R219, R377). -/
def State.trap (s : State) (n : Nat) : State :=
  let x := s.cox (.svc n)
  let v := s.svc n
  let s1 := (s.setSvc n { v with sepc := x.run.pc &&& ~~~ 7, sin := true }).dropFevs n
  let s2 := s1.setCox (.svc n) { x.dropShadows with run := x.run.restart v.svec }
  { s2 with watches := s2.watches.filter fun w => w.fence.isSome || w.who ≠ .svc n }

/-! ## Returning from an exception (R380) -/

/-- What was placed ahead of a stopped command that is gone stays ahead of the one below it. -/
def mergeHeld (x : Held) : List Held → List Held
  | [] => []
  | y :: r => { y with ahead := y.ahead + x.ahead, fqAhead := y.fqAhead + x.fqAhead } :: r

/-- The command with the sequence number `q` that a privileged fault stopped is released: it stands where it stood, and one
that had left the head before goes on with its load or stores (R135, R142, R148). -/
def releaseHeld (q : Nat) : List Held → List Held × Option Mx
  | [] => ([], none)
  | x :: r =>
    if x.stop = some .privileged ∧ x.mx.cmd.seq % 2 ^ 16 = q then
      if x.mx.stopped then (mergeHeld x r, some { x.mx with stopped := false }) else ({ x with stop := none } :: r, none)
    else
      let (l, m) := releaseHeld q r
      (x :: l, m)

def Ctx.releaseMx (c : Ctx) (q : Nat) : Ctx :=
  let (l, m) := releaseHeld q c.held
  { c with held := l, mxTail := c.mxTail ++ m.toList }

/-- The stopped unit of a record goes on at its faulting word, row or piece. An mxq or cpq stopped by a privileged fault is
restarted; the streams stand at their faulting words. -/
def State.restartUnit (s : State) (r : Record) : State :=
  let h := r.home
  match r.unit with
  | .cox => if (s.stream (.cox h)).status = .stopped then s.setStatus (.cox h) .ready else s
  | .acc => if (s.stream (.acc h)).status = .stopped then s.setStatus (.acc h) .ready else s
  | .vec => if (s.stream (.vec h)).status = .stopped then s.setStatus (.vec h) .ready else s
  | .spore k => if (s.stream (.spore h k)).status = .stopped then s.setStatus (.spore h k) .ready else s
  | .mxq =>
    s.setCtx h ((s.ctx h).releaseMx (fieldOf r.w3 48 16))
  | .cpq =>
    let c := s.ctx h
    s.setCtx h { c with cpStop := false, copies := c.copies.map fun x => { x with stopped := false } }
  | .service =>
    let c := s.ctx h
    s.setCtx h { c with copies := c.copies.map fun x => if r.thread = some x.cmd.seq then { x with stopped := false } else x }
  | .none => s

/-- The return of a job's handler with RST = 1: p1 to p7 from PSV, the stopped unit at its word (an mxq resumes only
through MXRES), HIN ← 0, the cox at EPC (R380) (DEDUCED, assumption log 47). -/
def State.handlerReturn (s : State) (h : Nat) (r : Record) : State :=
  let c := s.ctx h
  let s1 := s.setCtx h { c with handling := none }
  let s2 := match r.unit with
    | .acc | .vec | .spore _ => s1.restartUnit r
    | _ => s1
  let x := s2.cox (.cox h)
  s2.setCox (.cox h)
    { x with
      preds := BitVec.ofNat 8 (r.psv.toNat * 2)
      run := x.run.restart c.epc }

/-- The job of a record is the one that raised it and has not ended (R380). -/
def State.jobAlive (s : State) (r : Record) : Bool := s.running r.home && (s.ctx r.home).gen == r.gen

end Sys2Proof.Machine
end

