-- ==== Sys2Proof/Machine/Operands.lean ====
section
/-! DEFINITION. Machine/Operands.lean: the operand forms of the cox (registers, shadows, predicates) and the wrapper of
its words, which makes the checks of R60 in their order; the address modes of the access stream; the outcome of a word
whose accesses are checked. -/

namespace Sys2Proof.Machine

abbrev Out := Host.Outcome State Fault Refusal

/-! ## Cox registers and shadows (R49, R216, R217) -/

def Cox.reg (c : Cox) (r : SReg) : Word := if r = 0 then 0 else c.regs.get r.toNat 0

def Cox.setReg (c : Cox) (r : SReg) (v : Word) : Cox :=
  if r = 0 then c else { c with regs := c.regs.set r.toNat v }

/-- Predicate register p of a cox; p0 is always true. -/
def Cox.p (c : Cox) (p : Nat) : Bool := p == 0 || c.preds.getLsbD p

def setBit8 (w : BitVec 8) (i : Nat) (b : Bool) : BitVec 8 :=
  if b then w ||| BitVec.ofNat 8 (2 ^ i) else w &&& ~~~ (BitVec.ofNat 8 (2 ^ i))

def Cox.setP (c : Cox) (p : Nat) (b : Bool) : Cox :=
  if p = 0 then c else { c with preds := setBit8 c.preds p b }

/-- The valid shadow that a word of boost level `bl` reads for number `k` (R217). -/
def Cox.shadow (c : Cox) (bl k : Nat) : Option Shadow :=
  if bl = 1 then c.sh1.get k none
  else if bl = 2 then
    match c.sh2.get k none with
    | some x => some x
    | none => c.sh1.get k none
  else none

/-- A source register, with the record of its poison (R217). -/
def Cox.src (c : Cox) (bl : Nat) (r : SReg) : Word × Option Poison :=
  if r = 0 then (0, none)
  else
    match c.shadow bl r.toNat with
    | some x => (x.value, x.poison)
    | none => (c.reg r, none)

/-- A predicate as a source. -/
def Cox.srcP (c : Cox) (bl p : Nat) : Bool × Option Poison :=
  if p = 0 then (true, none)
  else
    match c.shadow bl (64 + p) with
    | some x => (x.value.getLsbD 0, x.poison)
    | none => (c.p p, none)

def Cox.setShadow (c : Cox) (bl k : Nat) (x : Shadow) : Cox :=
  if bl = 1 then { c with sh1 := c.sh1.set k (some x) } else { c with sh2 := c.sh2.set k (some x) }

/-- A result: the register itself, or under a boost level its shadow (R216); s0 discards it. -/
def Cox.put (c : Cox) (bl : Nat) (d : SReg) (v : Word) (p : Option Poison) : Cox :=
  if d = 0 then c
  else if bl = 0 then c.setReg d v
  else c.setShadow bl d.toNat { value := v, poison := p }

def Cox.putP (c : Cox) (bl p : Nat) (b : Bool) (x : Option Poison) : Cox :=
  if p = 0 then c
  else if bl = 0 then c.setP p b
  else c.setShadow bl (64 + p) { value := if b then 1 else 0, poison := x }

/-- The predicate field of a cox word: p[2:0], negated by bit 3 (Table 3.1) (DEDUCED, assumption log 44). -/
def Cox.pred (c : Cox) (bl : Nat) (f : BitVec 4) : Bool × Option Poison :=
  let (b, x) := c.srcP bl (f.toNat % 8)
  (b != f.getLsbD 3, x)

/-- A register of thread `t`, read without boost. -/
def State.reg (s : State) (t : Thread) (r : SReg) : Word := (s.cox t).reg r

def State.setReg (s : State) (t : Thread) (r : SReg) (v : Word) : State := s.setCox t ((s.cox t).setReg r v)

/-! ## The wrapper of a cox word (R58, R60, R61, R221) -/

/-- Where a cox form is legal: on a service core, in a spore, and whether a job may run it at all. -/
structure Form where
  svc : Bool
  spore : Bool
  priv : Bool
  /-- SPEND: not in a cox (R386). -/
  coxToo : Bool
deriving DecidableEq, Repr

/-- Legal everywhere. -/
def Form.any : Form := { svc := true, spore := true, priv := false, coxToo := true }
/-- Legal in a job only (R58). -/
def Form.job : Form := { svc := false, spore := true, priv := false, coxToo := true }
/-- Legal in a cox of a job only: groups 0x11 to 0x14, GO, JOIN and NODE (R58, R221). -/
def Form.coxOnly : Form := { svc := false, spore := false, priv := false, coxToo := true }
/-- CALL and RET: not in a spore (R221). -/
def Form.noSpore : Form := { svc := true, spore := false, priv := false, coxToo := true }
/-- Reserved to service cores (R60, class 3). -/
def Form.svcOnly : Form := { svc := true, spore := true, priv := true, coxToo := true }
def Form.sporeOnly : Form := { svc := false, spore := true, priv := false, coxToo := false }

/-- A word that names s16 to s63 is illegal in a spore (R221). -/
def sporeRegs (l : List SReg) : Bool := l.all fun r => r.toNat < 16

/-- The form is legal for the kind of thread that has reached it. -/
def Form.legal (f : Form) (t : Thread) (regs : List SReg) : Bool :=
  match t with
  | .svc _ => f.svc
  | .spore _ _ => f.spore && sporeRegs regs
  | .cox _ => f.coxToo
  | _ => false

/-- The word of thread `s.cur` is checked and, when its predicate holds, `body` gives its effect: class 1, class 3, then
the predicate, which suppresses everything else but the issue (R60 to R62). A boosted word whose predicate is false leaves its
destination's shadow as it is, also when the predicate is read from a poisoned shadow (R216; DEDUCED, assumption log 44). -/
def coxForm (s : State) (f : Form) (h : CoxH) (regs : List SReg) (body : Thread → Out) : Out :=
  let t := s.cur
  if ¬ f.legal t regs then .next (s.fault t illegal 0)
  else if f.priv && !t.isSvc then .next (s.fault t privileged 0)
  else if ((s.cox t).pred h.bl.toNat h.pred).1 then body t
  else .next (s.next t)

/-- A form that computes a scalar: `f` of its sources, into `d` or its shadow; a poisoned source or predicate passes its
record on (R216, R217, R238) (DEDUCED, assumption log 44). -/
def coxResult (s : State) (h : CoxH) (d : SReg) (srcs : List SReg) (f : List Word → Word) : Out :=
  coxForm s .any h (d :: srcs) fun t =>
    let c := s.cox t
    let bl := h.bl.toNat
    let vs := srcs.map (c.src bl)
    let poison := ((c.pred bl h.pred).2 :: vs.map (·.2)).findSome? id
    .next ((s.setCox t (c.put bl d (f (vs.map (·.1))) poison)).next t)

def coxOp2 (s : State) (h : CoxH) (d a b : SReg) (f : Word → Word → Word) : Out :=
  coxResult s h d [a, b] fun l => f (l.getD 0 0) (l.getD 1 0)

def coxOp1 (s : State) (h : CoxH) (d a : SReg) (f : Word → Word) : Out :=
  coxResult s h d [a] fun l => f (l.getD 0 0)

/-- An immediate of 24 bits, sign-extended (R233). -/
def simm24 (i : BitVec 24) : Word := i.signExtend 64
def simm16 (i : BitVec 16) : Word := i.signExtend 64

/-! ## Words with checked accesses (R299) -/

/-- A walk of page `page` of partition p, which home `h` waits for, joins the walks of its die: identical walks are merged. It
starts in the mode of the cycle in which the access missed (R34, R354, Table 1.8, function 0). -/
def State.askWalk (s : State) (h p page : Nat) : State :=
  let d := dieOf h
  let s0 := { s with refusedWalks := s.refusedWalks.filter fun x => !(x.home == h && x.part == p && x.page == page) }
  let same := fun (w : Walk) => w.part == p && w.page == page
  let put := fun (s1 : State) (l : List Walk) => s1.setDie d { s1.die d with walks := l }
  if (s0.die d).walks.any same then
    put s0 ((s0.die d).walks.map fun w =>
      if same w && !w.homes.contains h then { w with homes := w.homes ++ [h] } else w)
  else if s.assisted 0 then
    put (s0.forward 0 (.walk d p page)) ((s0.die d).walks ++ [{ part := p, page := page, homes := [h], host := some s0.nextReq }])
  else put s0 ((s0.die d).walks ++ [{ part := p, page := page, homes := [h], host := none }])

/-- The word of a thread of home `h` stalls while the walk for `va` is made. -/
def State.forwardWalk (s : State) (h : Nat) (va : Word) : State := s.askWalk h (s.partOf h) (va.toNat / 4096)

/-- Goes on when an access passes its checks; otherwise the word faults, or stalls on a forwarded walk. -/
def withChk (s : State) (t : Thread) (c : Chk) (k : Out) : Out :=
  match c with
  | .ok => k
  | .bad c a => .next (s.fault t c a)
  | .forward a => .next (s.forwardWalk t.home a)

/-! ## Engine threads and joins (R280 to R283, R292) -/

/-- The engine commands of a home that have not completed. -/
def Ctx.liveCmds (c : Ctx) : List Cmd :=
  c.mxq ++ (c.mx.toList ++ c.mxTail ++ c.held.map (·.mx)).map (·.cmd) ++ c.cpq ++
    (c.copies.filter fun x => x.gen == c.gen).map (·.cmd) ++ c.grammar.load.toList

/-- Every engine thread of the home has completed, the fills of its blocks with them. -/
def Ctx.enginesIdle (c : Ctx) : Bool := c.liveCmds.isEmpty && c.blocks.all fun b => b.filled

/-- A CLREQ of service core n is in progress (R265). -/
def State.clLive (s : State) (n : Nat) : Bool :=
  s.clQueue.any (fun x => x.svc == n && !x.rel) ||
    s.zones.any fun z => match z.2.req with | some x => x.svc == n && !x.rel | none => false

/-- Every engine thread that stream `t` forked has completed. -/
def State.forksDone (s : State) (t : Thread) : Bool :=
  ((s.ctx t.home).liveCmds.all fun c => c.forker != t) &&
    (match t with
      | .svc n => !s.clLive n
      | .acc j => (s.ctx j).blocks.all fun b => b.filled
      | _ => true)

/-- Every remote store of the stream and of its threads has been acknowledged (R291). -/
def State.remoteDone (s : State) (t : Thread) : Bool := s.posted.all fun x => x.who != t

/-- A join of the engine threads that `which` names: the lines that they stored to enter SIG (R281, R292). -/
def Ctx.joinWhere (c : Ctx) (which : ForkSig → Bool) : Ctx :=
  { c with
    sig := (c.sigForks.filter which).foldl (fun g x => g ||| x.sig) c.sig
    sigForks := c.sigForks.filter fun x => !which x }

/-- Every engine thread of the home is joined. -/
def Ctx.join (c : Ctx) : Ctx := c.joinWhere fun _ => true

def State.join (s : State) (h : Nat) : State := s.setCtx h (s.ctx h).join

/-- Every engine thread that stream `t` forked is joined. -/
def State.joinForks (s : State) (t : Thread) : State := s.setCtx t.home ((s.ctx t.home).joinWhere fun x => x.who == t)

/-- The engine threads that have signalled token k are joined (R245). -/
def Ctx.joinToken (c : Ctx) (k : Nat) : Ctx :=
  c.joinWhere fun x => x.tok == k && k != 0 && c.liveCmds.all fun m => !(m.forker == x.who && m.number == x.eng)

/-! ## Completion of copy commands (R318, R319) -/

/-- Every remote store of a command has been acknowledged. -/
def State.acked (s : State) (c : Cmd) : Bool := s.posted.all fun y => y.who != c.forker || y.eng != some c.number

/-- CPST after a command completes. -/
def cpstOf (old : Word) (cmd : Cmd) (st : BitVec 4) : Word :=
  let err := if st ≠ 0 then 1 else fieldOf old 8 1
  BitVec.ofNat 64 (cmd.seq % 2 ^ 16 * 2 ^ 48 + cmd.opc.toNat % 2 ^ 8 * 2 ^ 40 + err * 2 ^ 8 + st.toNat)

def dropCopyOf (l : List Copy) (x : Copy) : List Copy := l.filter fun y => !(y.cmd.seq == x.cmd.seq && y.gen == x.gen)

/-- A command completes: it signals its token and writes CPST. A fill that has outlived its job only ends (R330). -/
def Ctx.complete (c : Ctx) (x : Copy) : Ctx :=
  let c1 := { c with copies := dropCopyOf c.copies x }
  if x.gen = c.gen then { c1 with cpst := cpstOf c.cpst x.cmd x.st }.signal x.cmd.tok.sig else c1

/-- The commands of home h whose writes have all performed complete, in the cycle in which that is so. -/
def State.copyDone (s : State) (h : Nat) : State :=
  let c := s.ctx h
  match c.copies.filter fun x => x.phase == .done && s.acked x.cmd with
  | [] => s
  | l => s.setCtx h (l.foldl Ctx.complete c)

/-! ## Address registers of the access stream (R51, R306, Table 3.4) -/

def Acc.a (x : Acc) (r : AReg) : Word := if r = 0 then 0 else x.regs.get r.toNat 0

/-- A write to a0 is discarded (R306). -/
def Acc.setA (x : Acc) (r : AReg) (v : Word) : Acc := if r = 0 then x else { x with regs := x.regs.set r.toNat v }

/-- Predicate p of an access stream; p0 is always true. -/
def Acc.p (x : Acc) (p : Nat) : Bool := p == 0 || x.preds.getLsbD p

/-- The address of a row form, and the stream after the mode's post-increment. -/
def Acc.address (x : Acc) (b : AReg) : AMode → Word × Acc
  | .off i => (x.a b + simm16 i, x)
  | .idx i => (x.a b + x.a i, x)
  | .post i => (x.a b, x.setA b (x.a b + simm16 i))

def Acc.gaddress (x : Acc) (b : AReg) : GMode → Word × Acc
  | .off i => (x.a b + simm16 i, x)
  | .post i => (x.a b, x.setA b (x.a b + simm16 i))

end Sys2Proof.Machine
end

