-- ==== Sys2Proof/Machine/Flags.lean ====
section
/-! DEFINITION. Machine/Flags.lean: the conditions that words write into predicates and status fields: the comparisons
of CMP, counting results, saturating status. -/

namespace Sys2Proof.Machine

/-- The comparison of CMP (R235): bits, signed integers, unsigned integers. -/
def CoxCC.holds (cc : CoxCC) (a b : Word) : Bool :=
  match cc with
  | .eq => a == b
  | .ne => a != b
  | .lt => a.slt b
  | .le => a.sle b
  | .gt => b.slt a
  | .ge => b.sle a
  | .ltu => a.ult b
  | .leu => a.ule b
  | .gtu => b.ult a
  | .geu => b.ule a

/-- The number of leading zeros among the low `n` bits of `x` (Table 9.2). -/
def leadingZeros (x : Word) : Nat → Nat
  | 0 => 0
  | n + 1 => if x.getLsbD n then 0 else 1 + leadingZeros x n

/-- The number of set bits among the low `n` bits of `x`. -/
def setBits (x : Word) : Nat → Nat
  | 0 => 0
  | n + 1 => (if x.getLsbD n then 1 else 0) + setBits x n

/-- DIV and REM of R234: quotient and remainder of the signed values. -/
def divRem (a b : Word) : Word × Word :=
  if b = 0 then (BitVec.allOnes 64, a)
  else if a = BitVec.intMin 64 ∧ b = BitVec.allOnes 64 then (BitVec.intMin 64, 0)
  else
    let q := a.toInt.tdiv b.toInt
    (BitVec.ofInt 64 q, BitVec.ofInt 64 (a.toInt - q * b.toInt))

/-- The first word after a branch against its assumption issues no earlier than 6 local cycles after it (R239). -/
def State.holdNext (s : State) (t : Thread) : State := s.setStream t { s.stream t with hold := 6 }

end Sys2Proof.Machine
end

