-- ==== Sys2Proof/Machine/Sequencer.lean ====
section
/-! DEFINITION. Machine/Sequencer.lean: the loop sequencer of the access and vector streams, their armed blocks and
iteration flags, and the wrapper of their words (R55, R59, R60, R188, R189, R211 to R215, R315). -/

namespace Sys2Proof.Machine

/-! ## Frames -/

def Frame.stop : Frame → Word
  | .loop l => l.last
  | .arm a => a.stop

def Frame.level? : Frame → Option Level
  | .loop l => some l
  | .arm _ => none

def Frame.isArm : Frame → Bool
  | .arm _ => true
  | .loop _ => false

/-- The open levels, the innermost first. -/
def openLevels (fs : List Frame) : List Level := fs.filterMap Frame.level?

/-- Each named register gains its stride; a0 stays zero (R214, R306). -/
def addStrides (regs : Tab Word) (l : List (Nat × Word)) : Tab Word :=
  l.foldl (fun r x => if x.1 = 0 then r else r.set x.1 (r.get x.1 0 + x.2)) regs

/-- Each named register returns to its value at the opening (R214). -/
def restoreRegs (regs : Tab Word) (l : List (Nat × Word)) : Tab Word :=
  l.foldl (fun r x => if x.1 = 0 then r else r.set x.1 x.2) regs

/-- Where the stream goes on from `nxt`: an arm's end continues after its block; a body's end starts the next iteration or
closes its level, and a close can end an enclosing frame as well (R212, R214, R215). -/
def seqResolve (regs : Tab Word) : List Frame → Word → List Frame × Word × Tab Word
  | [], nxt => ([], nxt, regs)
  | .arm a :: r, nxt => if nxt = a.stop then seqResolve regs r a.resume else (.arm a :: r, nxt, regs)
  | .loop l :: r, nxt =>
    if nxt = l.last then
      if l.idx + 1 < l.trip then (.loop { l with idx := l.idx + 1 } :: r, l.first, addStrides regs l.strides)
      else seqResolve (restoreRegs regs l.saved) r nxt
    else (.loop l :: r, nxt, regs)

/-- The frames and registers of a lane stream. -/
def State.frames (s : State) (t : Thread) : List Frame :=
  match t with
  | .acc j => (s.acc j).frames
  | .vec j => (s.vec j).frames
  | _ => []

/-- What the replay-buffer share holds once the frames `fs` are open where those of `old` were: a first level opening begins
a new body (R212). -/
def Buffer.upon (b : Buffer) (old fs : List Frame) : Buffer :=
  if (openLevels old).isEmpty && !(openLevels fs).isEmpty then [] else b

/-- A stream whose word has issued goes on at `pc`. A skipped word takes no cycle: the stream keeps its IDLE count and has its
turn in this cycle still to take (R59, R213). -/
def Stream.go (r : Stream) (pc : Word) (issued : Bool) : Stream :=
  if issued then { r with pc := pc, since := 0, hold := 0, occ := 0 }
  else { r with pc := pc, since := r.since - 1, hold := 0, ran := r.ran - 1 }

/-- The stream goes on from `nxt`; `fs` are the frames open then. `issued` is false for a skipped word. -/
def State.laneGo (s : State) (t : Thread) (fs : List Frame) (nxt : Word) (issued : Bool) : State :=
  match t with
  | .acc j =>
    let x := s.acc j
    let (fs', pc, regs) := seqResolve x.regs fs nxt
    s.setAcc j { x with
      frames := fs', regs := regs, buffer := Buffer.upon x.buffer x.frames fs
      run := x.run.go pc issued }
  | .vec j =>
    let x := s.vec j
    let (fs', pc, _) := seqResolve [] fs nxt
    s.setVec j { x with
      frames := fs', buffer := Buffer.upon x.buffer x.frames fs
      run := x.run.go pc issued }
  | _ => s

/-- A lane word has issued, and the next word follows it. -/
def State.laneNext (s : State) (t : Thread) : State := s.laneGo t (s.frames t) ((s.stream t).pc + 8) true

/-! ## Iteration flags (R213) -/

inductive Flag where
  | issue | skip | illegal
deriving DecidableEq, Repr

/-- What ITF and LVL say of a word: LVL 6 names the innermost open level. -/
def flagOf (h : LaneH) (fs : List Frame) : Flag :=
  if h.itf = 0 then .issue
  else if h.itf = 3 then .illegal
  else
    let ls := openLevels fs
    let l? := if h.lvl = 6 then ls.head? else ls.find? fun l => l.num == h.lvl.toNat
    match l? with
    | none => .illegal
    | some l =>
      if h.itf = 1 then (if l.idx = 0 then .issue else .skip)
      else if l.idx + 1 = l.trip then .issue else .skip

/-- The word that `h` heads is skipped where its stream stands (R59). -/
def State.laneSkips (s : State) (t : Thread) (h : LaneH) : Bool := flagOf h (s.frames t) == .skip

/-! ## The wrapper of a lane word -/

/-- The word of `s.cur` is reached: a skipped word is checked and passed (R59); one that issues waits for its queues, is
checked in the order of R60 and then has its effect. `ok1` and `ok2` are the class 1 and class 2 checks that a skipped
word has too, `head` the class 2 check of a call at the head of its queue, `stall` the wait on its queues (R51, R53). A
skipped word is passed over `size` bytes: its own 8, or the whole block of a VARM or AARM (DEDUCED, assumption log 28). -/
def laneFormTo (s : State) (vec : Bool) (h : LaneH) (size : Word) (ok1 ok2 head stall : Nat → Bool)
    (body : Nat → Out) : Out :=
  let t := s.cur
  let run := fun (j : Nat) =>
    let f := flagOf h (s.frames t)
    if f = .skip then
      if ¬ ok1 j then Host.Outcome.next (s.fault t illegal 0)
      else if ¬ ok2 j then .next (s.fault t queueProtocol 0)
      else .next (s.laneGo t (s.frames t) ((s.stream t).pc + size) false)
    else if stall j then .next s
    else if f = .illegal ∨ ¬ ok1 j then .next (s.fault t illegal 0)
    else if ¬ (ok2 j && head j) then .next (s.fault t queueProtocol 0)
    else body j
  match t with
  | .acc j => if vec then .next (s.fault t illegal 0) else run j
  | .vec j => if vec then run j else .next (s.fault t illegal 0)
  | t => .next (s.fault t illegal 0)

def laneForm (s : State) (vec : Bool) (h : LaneH) (ok1 ok2 head stall : Nat → Bool) (body : Nat → Out) : Out :=
  laneFormTo s vec h 8 ok1 ok2 head stall body

/-! ## Calls (R211) -/

/-- The queue of calls that a lane stream takes. -/
def Ctx.calls (c : Ctx) (vec : Bool) : List Call := if vec then c.cqv else c.cqa

def Ctx.setCalls (c : Ctx) (vec : Bool) (l : List Call) : Ctx := if vec then { c with cqv := l } else { c with cqa := l }

/-- The call that a word can examine at the head of its queue. A NOTE at the head is discarded first, one in a cycle
(R211). -/
def Ctx.headCall (c : Ctx) (vec : Bool) : Option Call := (c.calls vec).head?.filter fun x => x.ty != .note

def Ctx.bumpPops (c : Ctx) (q n : Nat) : Ctx := { c with pops := c.pops.set q (c.pops.get q 0 + BitVec.ofNat 16 n) }

/-- Pops `n` calls. -/
def Ctx.popCalls (c : Ctx) (vec : Bool) (n : Nat) : Ctx :=
  (c.setCalls vec ((c.calls vec).drop n)).bumpPops (if vec then 0 else 1) n

/-- A NOTE at the head of a call queue is discarded, at most one in a cycle of its crew's clock, which `now` numbers
(R211). -/
def Ctx.discardNote (c : Ctx) (vec : Bool) (now : Nat) : Ctx :=
  let q := if vec then 0 else 1
  match c.calls vec with
  | x :: _ =>
    if x.ty = .note ∧ c.noted.get q 0 ≠ now + 1 then { c.popCalls vec 1 with noted := c.noted.set q (now + 1) } else c
  | [] => c

/-! ## Queue operands (R51, R53, Tables 3.4 and 3.5) -/

/-- A pop or a peek of lq (x mod 4). -/
def Spec.isLq (x : Spec) : Bool := 0x100 ≤ x.toNat && x.toNat < 0x108
def Spec.isPop (x : Spec) : Bool := 0x100 ≤ x.toNat && x.toNat < 0x104
def Spec.lq (x : Spec) : Nat := x.toNat % 4
def Spec.isSq (x : Spec) : Bool := x.toNat == 0x108 || x.toNat == 0x109
def Spec.isCqv (x : Spec) : Bool := x.toNat == 0x10A
def Spec.isRq (x : Spec) : Bool := x.toNat == 0x10D

/-- A queue that the source reads is empty (R53). -/
def Ctx.srcStall (c : Ctx) (x : Spec) : Bool :=
  (Spec.isLq x && (c.lq.get (Spec.lq x) []).isEmpty) || (Spec.isCqv x && (c.headCall true).isNone)

/-- The queue that the destination pushes is full (R53, Table 8.9). -/
def Ctx.dstStall (c : Ctx) (x : Spec) : Bool :=
  (Spec.isSq x && decide (16 ≤ (c.sq.get (x.toNat % 2) []).length)) || (Spec.isRq x && decide (16 ≤ c.rq.length))

/-- Target codes 0 to 3 are lq0 to lq3; 4 and 5 are sq0 and sq1 (Table 3.4). -/
def isLoadTgt (t : BitVec 5) : Bool := t.ult 4
def isStoreTgt (t : BitVec 5) : Bool := t == 4 || t == 5

def Ctx.lqFull (c : Ctx) (q : Nat) : Bool := decide (16 ≤ (c.lq.get q []).length)
def Ctx.sqEmpty (c : Ctx) (q : Nat) : Bool := (c.sq.get q []).isEmpty

/-- The source and destination specifiers of a VEC word by its opcode group (Tables 3.6 and 7.2 to 7.4); its other fields are
literals, masks or unused, and name no queue. An unassigned opcode names what the words of its group name, and one of the
groups from 0x20 on none (DESIGN CHOICE, assumption log 31). -/
def vecNames (w : Word) : List Spec × Option Spec :=
  let slot := (fOpc w).toNat % 8
  let one := ([qA w], some (qD w))
  let two := ([qA w, qB w], some (qD w))
  let three := ([qA w, qB w, qC w], some (qD w))
  let dst := (([] : List Spec), some (qD w))
  match (fOpc w).toNat / 8 with
  | 0x03 => three
  | 0x0E => if slot = 3 then one else if slot = 5 then dst else two
  | 0x10 | 0x11 | 0x12 | 0x13 | 0x14 | 0x15 => ([qA w, qB w], none)
  | 0x00 | 0x01 | 0x02 | 0x04 | 0x05 | 0x0F | 0x1F => two
  | 0x1D =>
    if slot = 1 then two else if slot = 2 then one else if slot = 3 then ([qA w], none)
    else if slot = 6 ∧ qB w = 1 then one else dst
  | 0x1E => if slot < 2 then three else if slot = 2 then ([qA w], none) else if slot = 6 then dst else ([], none)
  | g => if g < 0x1D then one else ([], none)

/-- The stall of R51 or R53 by the fields of a word, which an illegal word waits out too before it is checked (R59). VLOOP
and VARM name no queue specifier, and are checked before they wait for their call (DEDUCED, assumption log 29;
DESIGN CHOICE, assumption log 31). -/
def Ctx.wordStall (c : Ctx) (vec : Bool) (w : Word) : Bool :=
  let o := (fOpc w).toNat
  if vec then (vecNames w).1.any c.srcStall || (vecNames w).2.any c.dstStall
  else if [0x008, 0x009, 0x00C].contains o then isLoadTgt (mTgt w) && c.lqFull (mTgt w).toNat
  else if [0x00A, 0x00B, 0x00D, 0x010, 0x011, 0x012].contains o then isStoreTgt (mTgt w) && c.sqEmpty ((mTgt w).toNat % 4)
  else ([0x020, 0x021, 0x022].contains o || (o == 0 && mMode w == 0x12)) && (c.headCall false).isNone

/-! ## Poisoned queue entries (R388, R389)

A word that reads one stops with class 18, unless its predicate suppresses that: then the entry is discarded (R61, R62). -/

def poisonCause : Cause := { cls := 18, sub := 1 }

/-- One of the first n entries of a stream's call queue is poisoned. -/
def State.callPoisoned (s : State) (j : Nat) (vec : Bool) (n : Nat) : Bool :=
  let q := if vec then 0 else 1
  (List.range n).any fun i => s.poison.contains (queuePiece j q (((s.ctx j).pops.get q 0).toNat + i))

/-- A source of a VEC word is the poisoned head of a queue. -/
def State.srcPoisoned (s : State) (j : Nat) (x : Spec) : Bool :=
  (Spec.isLq x && s.headPoisoned j (2 + Spec.lq x)) || (Spec.isCqv x && s.callPoisoned j true 1)

/-- The row at the head of a store target is poisoned. -/
def State.rowPoisoned (s : State) (j : Nat) (t : BitVec 5) : Bool := s.headPoisoned j (6 + t.toNat % 4)

/-! ## Loop levels and armed blocks -/

/-- The end of the innermost body or arm, by which what opens inside must end. -/
def frameLimit (fs : List Frame) : Option Word := (fs.head?).map Frame.stop

def withinLimit (fs : List Frame) (last : Word) : Bool :=
  match frameLimit fs with
  | none => true
  | some w => last.ule w

/-- A loop of level `num` and `count` words may open at `pc` (R188, R212, R315): one above the innermost level, inside
the enclosing body or arm, 1 to 512 words. -/
def loopLegal (fs : List Frame) (num count : Nat) (pc : Word) : Bool :=
  num == (openLevels fs).length && decide (num ≤ 5) && decide (1 ≤ count ∧ count ≤ 512) &&
    withinLimit fs (pc + 8 + BitVec.ofNat 64 (8 * count))

/-- The frames and the next address after a loop opens; a trip count of 0 skips the body (R188). -/
def openLoop (fs : List Frame) (l : Level) : List Frame × Word :=
  if l.trip = 0 then (fs, l.last) else (.loop l :: fs, l.first)

/-- Length of arm i in the arm-length word (R55). -/
def armLen (lens : Word) (i : Nat) : Nat := fieldOf lens (8 * i) 8

/-- The words before arm i. -/
def armStart (lens : Word) (i : Nat) : Nat := ((List.range i).map (armLen lens)).foldl (· + ·) 0

/-- An armed block of n arms may stand at `pc` (R55, R189, R315). -/
def armLegal (fs : List Frame) (n : Nat) (lens : Word) (pc : Word) : Bool :=
  !fs.any Frame.isArm && decide (1 ≤ n ∧ n ≤ 8) && ((List.range 8).all fun i => decide (i < n) || armLen lens i == 0) &&
    withinLimit fs (pc + 16 + BitVec.ofNat 64 (8 * armStart lens n))

/-- The frames and the next address after arm `a` is chosen; an arm of length 0 issues nothing (R215). -/
def openArm (fs : List Frame) (n a : Nat) (lens : Word) (pc : Word) : List Frame × Word :=
  let first := pc + 16
  let start := first + BitVec.ofNat 64 (8 * armStart lens a)
  let after := first + BitVec.ofNat 64 (8 * armStart lens n)
  if armLen lens a = 0 then (fs, after)
  else (.arm { stop := start + BitVec.ofNat 64 (8 * armLen lens a), resume := after } :: fs, start)

end Sys2Proof.Machine
end

