-- ==== Sys2Proof/Machine/CoxControl.lean ====
section
/-! DEFINITION. Machine/CoxControl.lean: branches and subroutines, GO, JOIN and NODE, tokens, calls, replies and
mailboxes, format words and the tile status file (R239 to R249, R257, R117). -/

namespace Sys2Proof.Machine

/-! ## Branches (R218, R239) -/

/-- The shadow of level `c` of register or predicate number k. -/
def Cox.level (x : Cox) (c : Nat) : Tab (Option Shadow) := if c = 1 then x.sh1 else x.sh2

def Cox.commitOne (x : Cox) (k : Nat) (v : Word) : Cox :=
  if k < 64 then x.setReg (BitVec.ofNat 6 k) v else x.setP (k - 64) (v.getLsbD 0)

/-- Commits the shadows numbered in `ks` in order; the first poisoned one stops it (R218). -/
def Cox.commitFrom (x : Cox) (t : Tab (Option Shadow)) : List Nat → Cox × Option Poison
  | [] => (x, none)
  | k :: r =>
    match t.get k none with
    | none => x.commitFrom t r
    | some y =>
      match y.poison with
      | some p => (x, some p)
      | none => (x.commitOne k y.value).commitFrom t r

def Cox.clearLevel (x : Cox) (c : Nat) : Cox := if c = 1 then { x with sh1 := [] } else { x with sh2 := [] }

/-- s1 to s63 and then p1 to p7, in ascending order. That the predicates come after the registers, which decides what has
moved when one of them is poisoned, is the model's choice (DESIGN CHOICE, assumption log 99). -/
def shadowNumbers : List Nat := (List.range 72).filter fun k => k ≠ 0 && k ≠ 64

def Cox.commit (x : Cox) (c : Nat) : Cox × Option Poison :=
  let (y, p) := x.commitFrom (x.level c) shadowNumbers
  match p with
  | some _ => (y.dropShadows, p)
  | none => (y.clearLevel c, none)

/-- BRA carries its condition in its own field and no PRED (R239); a spore and a service core may branch too. -/
def execBra (_idle : BitVec 10) (neg : Bool) (p : BitVec 3) (taken : Bool) (commit : BitVec 2) (disp : BitVec 29)
    (s : State) : Out :=
  let t := s.cur
  if ¬ Form.any.legal t [] then .next (s.fault t illegal 0)
  else
    let x := s.cox t
    let go := x.p p.toNat != neg
    let target := if go then x.run.pc + disp.signExtend 64 * 8 else x.run.pc + 8
    let asAssumed := go == taken
    let (y, bad) :=
      if commit = 0 then (x, none)
      else if asAssumed then x.commit commit.toNat
      else (x.dropShadows, none)
    match bad with
    | some q => .next ((s.setCox t y).faultWith t { cls := q.cls, sub := q.sub } q.addr q.pc false)
    | none =>
      let s1 := (s.setCox t y).issueTo t target
      .next (if asAssumed then s1 else s1.holdNext t)

def execJmp (h : CoxH) (disp : BitVec 30) (s : State) : Out :=
  coxForm s .any h [] fun t => .next (s.issueTo t ((s.stream t).pc + disp.signExtend 64 * 8))

/-! ## Subroutines (R240 to R242) -/

def overflow : Cause := { cls := 11, sub := 1 }
def underflow : Cause := { cls := 11, sub := 2 }

/-- SPN and the spill address of CSTK (Table 9.3). -/
def cstkSpn (w : Word) : Nat := fieldOf w 48 16
def cstkSpp (w : Word) : Nat := fieldOf w 6 42

def cstkOf (spn spp : Nat) : Word := BitVec.ofNat 64 (spn * 2 ^ 48 + spp % 2 ^ 42 * 2 ^ 6)

def spillAddr (spp : Nat) : Word := BitVec.ofNat 64 (spp % 2 ^ 42 * 64)

def State.pushCall (s : State) (t : Thread) (disp : Word) : State :=
  let x := s.cox t
  (s.setCox t { x with stack := (x.run.pc + 8) :: x.stack }).issueTo t (x.run.pc + disp * 8)

/-- DEDUCED, assumption log 42. -/
def execCall (h : CoxH) (disp : BitVec 30) (s : State) : Out :=
  coxForm s .noSpore h [] fun t =>
    let x := s.cox t
    let k := (s.ctx t.home).cstk
    if x.stack.length < 16 then .next (s.pushCall t (disp.signExtend 64))
    else if cstkSpn k = 65535 then .next (s.fault t overflow 0)
    else
      let a := spillAddr (cstkSpp k)
      withChk s t (s.chk t.home .store a 64)
        (let bytes := (x.stack.reverse.take 8).flatMap fun w => bytesLE 8 w.toNat
         let s1 := s.writeV t none .store a bytes
         let s2 := s1.setCox t { s1.cox t with stack := (s1.cox t).stack.take 8 }
         let s3 := s2.setCtx t.home { s2.ctx t.home with cstk := cstkOf (cstkSpn k + 1) (cstkSpp k + 1) }
         .next (s3.pushCall t (disp.signExtend 64)))

/-- Groups of 8 bytes as words. -/
def wordsOf : Nat → List Byte → List Word
  | 0, _ => []
  | n + 1, l => wordLE (l.take 8) :: wordsOf n (l.drop 8)

def State.popCall (s : State) (t : Thread) : State :=
  let x := s.cox t
  match x.stack with
  | [] => s
  | w :: r => (s.setCox t { x with stack := r }).issueTo t (w &&& ~~~ 7)

/-- DEDUCED, assumption log 42. -/
def execRet (h : CoxH) (s : State) : Out :=
  coxForm s .noSpore h [] fun t =>
    let x := s.cox t
    let k := (s.ctx t.home).cstk
    if x.stack ≠ [] then .next (s.popCall t)
    else if cstkSpn k = 0 then .next (s.fault t underflow 0)
    else
      let a := spillAddr (cstkSpp k + 2 ^ 42 - 1)
      withChk s t (s.chk t.home .load a 64)
        (let (bytes, s1) := s.readV t.home .load .l1 a 64
         let s2 := s1.setCox t { s1.cox t with stack := (wordsOf 8 bytes).reverse }
         let s3 := s2.setCtx t.home { s2.ctx t.home with cstk := cstkOf (cstkSpn k - 1) (cstkSpp k + 2 ^ 42 - 1) }
         .next (s3.popCall t))

/-! ## GO, JOIN, NODE (R208, R209, R226) -/

/-- What a GO of the cox and a NODE wait for: every queue of Table 8.9 is empty, the mailbox too (R208, R226)
(DEDUCED, assumption log 45). -/
def State.quiet (s : State) (j : Nat) : Bool :=
  let c := s.ctx j
  (s.acc j).run.status == .joined && (s.vec j).run.status == .joined && c.enginesIdle &&
    c.cqv.isEmpty && c.cqa.isEmpty && c.rq.isEmpty && c.fq.isEmpty && c.mailbox.isEmpty &&
    ((List.range 4).all fun q => (c.lq.get q []).isEmpty) && ((List.range 2).all fun q => (c.sq.get q []).isEmpty)

/-- The state that every GO resets (R208). -/
def Ctx.goReset (c : Ctx) : Ctx :=
  { c with amax := [], cvs := 0, tsf := [], tsfNew := [], act := 0, drawCount := 0, drawBuf := [], drawLoad := false, comp := [], lpov := 0,
           mxst := 0x0000_FFFF_0000_0000, mxSeq := 0, cpst := 0, cpSeq := 0 }

/-- A lane stream becomes ready in the next cycle of its clock. -/
def State.startLane (s : State) (t : Thread) (pc : Word) : State :=
  s.setStream t { Stream.restart { s.stream t with ran := s.clockOf t.home + 1 } pc with hold := 0 }

/-- DEDUCED, assumption log 45. -/
def execGo (h : CoxH) (a b : SReg) (s : State) : Out :=
  coxForm s .coxOnly h [a, b] fun t =>
    let j := t.home
    if ¬ s.quiet j then .next s
    else
      let s1 := s.setCtx j ((s.ctx j).join.goReset)
      let s2 := (s1.startLane (.acc j) (s.reg t a)).startLane (.vec j) (s.reg t b)
      .next (s2.next t)

def execJoin (h : CoxH) (s : State) : Out :=
  coxForm s .coxOnly h [] fun t => .next ((s.next t).setStatus t .joined)

/-- The save image of a job (Table 8.13), whose words 12 to 15 are zero. -/
def saveWords (j : Job) (x : Cox) : List Word :=
  [j.nest.addr, BitVec.ofNat 64 (j.nest.part * 2 ^ 32 + j.nest.queue * 2 ^ 16 + j.nest.ring % 2 ^ 16)] ++
    (List.range 8).map (fun i => x.reg (BitVec.ofNat 6 i)) ++ [x.run.pc + 8, BitVec.ofNat 64 j.left, 0, 0, 0, 0]

/-- Leaves the context to the walker, which keeps the iteration for re-placement; its save image lies at `a` (R226, R227).
The context returns in the cycle of the NODE (DESIGN CHOICE, assumption log 117). -/
def State.switchOut (s : State) (h : Nat) (j : Job) (a : Word) : State :=
  let d := fieldOf (s.queue j.nest.part j.nest.queue).d0 6 2
  let s1 := s.setDie d { s.die d with switched := (s.die d).switched ++ [(j.nest, j.seq, { addr := a, left := j.left })] }
  let s2 := (s1.dropStreams h).setCrew (crewOf h) ((s1.crew (crewOf h)).dropJob h false)
  s2.freeCtx h

/-- The job leaves at its next NODE: its queue is SUSPENDING, or its crew is being emptied (R225, R273 step 1, R393). -/
def State.leaving (s : State) (h : Nat) : Bool :=
  let c := s.ctx h
  match c.job with
  | none => false
  | some j =>
    fieldOf (s.queue j.nest.part j.nest.queue).d0 0 3 == 2 ||
      (match (s.crew (crewOf h)).step with | .draining _ => true | _ => false) ||
      ((List.range 2).any fun i =>
        let z := (s.zone (2 * crewOf h + i)).cata
        fieldOf z 0 3 == 4 || (fieldOf z 0 3 == 3 && fieldOf z 18 3 == 1))

/-- A job of the queue passes a NODE in this cycle; a request that makes the queue SUSPENDING in the same cycle has to come
before it (R226). -/
def State.passNode (s : State) (h : Nat) : State :=
  match (s.ctx h).job with
  | none => s
  | some j =>
    s.setQueue j.nest.part j.nest.queue { s.queue j.nest.part j.nest.queue with noded := s.now + 1 }

/-- NODE: it waits for what a GO waits for (R226). The owned
cycles in which it waits count against the budget (DEDUCED, assumption log 101). -/
def execNode (h : CoxH) (s : State) : Out :=
  coxForm s .coxOnly h [] fun t =>
    let hm := t.home
    if ¬ s.leaving hm then .next ((s.passNode hm).next t)
    else if ¬ s.quiet hm then .next s
    else
      match (s.ctx hm).job with
      | none => .next (s.next t)
      | some j =>
        let a := j.nest.save + BitVec.ofNat 64 (hm * 128)
        withChk s t (s.chk hm .store a 128)
          (let s1 := s.writeV t none .store a ((saveWords j (s.cox t)).flatMap fun w => bytesLE 8 w.toNat)
           .next ((s1.join hm).switchOut hm j a))

/-! ## Tokens (R244) -/

def execTsig (h : CoxH) (k : BitVec 4) (n : BitVec 16) (s : State) : Out :=
  coxForm s .any h [] fun t => .next ((s.setCtx t.home ((s.ctx t.home).addToken k.toNat n.toNat)).next t)

/-! ## Calls, replies, mailboxes (R246 to R249) -/

/-- CALLV and CALLA push a call, and stall while their queue holds 64 (R246). -/
def callOut (s : State) (h : CoxH) (vec : Bool) (ty : CallTy) (a : SReg) (g : BitVec 3) : Out :=
  coxForm s .coxOnly h [a] fun t =>
    let c := s.ctx t.home
    let l := c.calls vec
    if 64 ≤ l.length then .next s
    else
      let x : Call := { ty := ty, payload := s.reg t a, g := g }
      .next ((s.setCtx t.home ((c.setCalls vec (l ++ [x])).bumpPush (if vec then 0 else 1))).next t)

def execCallv (h : CoxH) (ty : CallTy) (a : SReg) (g : BitVec 3) (s : State) : Out := callOut s h true ty a g
def execCalla (h : CoxH) (ty : CallTy) (a : SReg) (g : BitVec 3) (s : State) : Out := callOut s h false ty a g

/-- RQP pops the head of rq, and stalls while it is empty (R247). -/
def execRqp (h : CoxH) (d : SReg) (s : State) : Out :=
  coxForm s .coxOnly h [d] fun t =>
    let c := s.ctx t.home
    match c.rq with
    | [] => .next s
    | w :: r =>
      if s.headPoisoned t.home 8 then .next (s.fault t { cls := 18, sub := 1 } 0)
      else .next (((s.setCtx t.home ({ c with rq := r }.bumpPop 8)).setReg t d w).next t)

/-- The place in a queue of a command or word that is pushed while a command is stopped, and the stopped commands after
it: ahead of the one that stopped last and has had no MXRES (R147). -/
def aheadPlace (f : Held → Nat) (bump : Held → Held) : List Held → Option (Nat × List Held)
  | [] => none
  | x :: r =>
    if x.stop.isSome then some (f x, bump x :: r)
    else match aheadPlace f bump r with
      | some (n, r') => some (f x + n, x :: r')
      | none => none

/-- `x` put into a list at place `n`. -/
def insertAt {α : Type} (l : List α) (n : Nat) (x : α) : List α := l.take n ++ x :: l.drop n

/-- A format word enters fq (R117, R147). -/
def Ctx.pushFmt (c : Ctx) (w : Word) : Ctx :=
  match aheadPlace (·.fqAhead) (fun x => { x with fqAhead := x.fqAhead + 1 }) c.held with
  | some (n, hs) => { c with fq := insertAt c.fq n w, held := hs }.bumpPush 9
  | none => { c with fq := c.fq ++ [w] }.bumpPush 9

/-- A command enters the mxq (R118, R147). -/
def Ctx.pushMx (c : Ctx) (x : Cmd) : Ctx :=
  match aheadPlace (·.ahead) (fun y => { y with ahead := y.ahead + 1 }) c.held with
  | some (n, hs) => { c with mxq := insertAt c.mxq n x, held := hs, mxSeq := c.mxSeq + 1 }.bumpPush 10
  | none => { c with mxq := c.mxq ++ [x], mxSeq := c.mxSeq + 1 }.bumpPush 10

def execFmtp (h : CoxH) (a : SReg) (s : State) : Out :=
  coxForm s .coxOnly h [a] fun t =>
    let c := s.ctx t.home
    if 16 ≤ c.fq.length then .next s else .next ((s.setCtx t.home (c.pushFmt (s.reg t a))).next t)

/-- The peer of a sender: the lowest-numbered context on core k of the crew with its partition and its MBTAG, not itself
(R224, R248). A job that is placed and not yet past its GO, or that is ending, is no peer (DEDUCED, assumption log 100). -/
def State.peer (s : State) (h k : Nat) : Option Nat :=
  match (s.ctx h).job with
  | none => none
  | some j =>
    if j.nest.mbtag = 0 then none
    else (List.range 4).map (fun c => crewOf h * 16 + k * 4 + c) |>.find? fun p =>
      p != h && s.running p && (match (s.ctx p).job with
        | some q => q.nest.part == j.nest.part && q.nest.mbtag == j.nest.mbtag
        | none => false)

def execMbsend (h : CoxH) (a : SReg) (k : BitVec 2) (s : State) : Out :=
  coxForm s .coxOnly h [a] fun t =>
    match s.peer t.home k.toNat with
    | none => .next s
    | some p =>
      let c := s.ctx p
      if 16 ≤ c.mailbox.length then .next s
      else
        let m : Mail := { value := s.reg t a, at_ := s.crewNow (crewOf p), ready := false, bad := false }
        .next ((s.setCtx p { c with mailbox := c.mailbox ++ [m] }).next t)

/-- A word of a mailbox is available 24 cycles after its MBSEND at the latest (R248). -/
def Mail.available (m : Mail) (now : Nat) : Bool := m.ready || decide (m.at_ + 24 ≤ now)

def execMbrecv (h : CoxH) (d : SReg) (s : State) : Out :=
  coxForm s .coxOnly h [d] fun t =>
    let c := s.ctx t.home
    match c.mailbox with
    | [] => .next s
    | m :: r =>
      if m.available (s.crewNow (crewOf t.home)) then
        if m.bad then .next (s.fault t poisonCause 0)
        else .next (((s.setCtx t.home { c with mailbox := r }).setReg t d m.value).next t)
      else .next s

/-- Marks the first word that is not available yet. -/
def firstReady : List Mail → List Mail
  | [] => []
  | m :: r => if m.ready then m :: firstReady r else { m with ready := true } :: r

/-- Event MAILBOX_WORD_AVAILABLE: the oldest word in flight to the mailbox of job j becomes available (R248). -/
def execMailboxWordAvailable (j : Nat) (s : State) : Out :=
  .next (s.setCtx j { s.ctx j with mailbox := firstReady (s.ctx j).mailbox })

/-- Event NOTE_CALL_DISCARD: the NOTE at the head of a call queue is discarded, unless one was in this cycle (R211). -/
def execNoteCallDiscard (j : Nat) (vec : Bool) (s : State) : Out :=
  .next (s.setCtx j ((s.ctx j).discardNote vec (s.crewNow (crewOf j))))

/-! ## Tile status (R110, R257) -/

/-- The tile status file with a new entry 0 (R110). -/
def tsfShift (t : Tab Word) (w : Word) : Tab Word :=
  (0, w) :: (List.range 15).map fun i => (i + 1, t.get i 0)

/-- The entries that have become visible at cycle `now` move into the file, oldest first (R110). -/
def Ctx.tsfUpdate (c : Ctx) (now : Nat) : Ctx :=
  { c with
    tsf := (c.tsfNew.filter fun x => x.2.1 ≤ now).foldl (fun t x => tsfShift t x.2.2) c.tsf
    tsfNew := c.tsfNew.filter fun x => now < x.2.1 }

def execRdtsf (h : CoxH) (d : SReg) (i : BitVec 4) (s : State) : Out :=
  coxForm s .job h [d] fun t =>
    let c := (s.ctx t.home).tsfUpdate (s.crewNow (crewOf t.home))
    .next (((s.setCtx t.home c).setReg t d (c.tsf.get i.toNat 0)).next t)

/-- Event TSF_VISIBLE: the entries whose 24 cycles have passed become visible (R110). -/
def execTsfVisible (j : Nat) (s : State) : Out := .next (s.setCtx j ((s.ctx j).tsfUpdate (s.crewNow (crewOf j))))

end Sys2Proof.Machine
end

