-- ==== Sys2Proof/Machine/Fetch.lean ====
section
/-! DEFINITION. Machine/Fetch.lean: one local cycle of a thread up to its word (fetching and decoding it, its IDLE
bound, slot ownership, the cox issue port, late loads, the delivery of pending traps), and the passing of a package cycle. -/

namespace Sys2Proof.Machine

/-- The opcode map that a thread decodes (R19, R56, R58). -/
def Thread.map : Thread → OpMap
  | .acc _ => .acc
  | .vec _ => .vec
  | _ => .cox

/-- The words at a lane stream's pc that its replay-buffer share holds: inside an open level each word is read from memory
once, and every further iteration issues from the buffer (R212) (DEDUCED, assumption log 33). -/
def State.buffered (s : State) (t : Thread) : Option (Word × Word) :=
  match t with
  | .acc j => if (openLevels (s.acc j).frames).isEmpty then none else (s.acc j).buffer.get (s.acc j).run.pc.toNat none
  | .vec j => if (openLevels (s.vec j).frames).isEmpty then none else (s.vec j).buffer.get (s.vec j).run.pc.toNat none
  | _ => none

/-- A fetched word of an open loop body enters the replay-buffer share. -/
def State.keepWord (s : State) (t : Thread) (w w2 : Word) : State :=
  match t with
  | .acc j =>
    let x := s.acc j
    if (openLevels x.frames).isEmpty then s else s.setAcc j { x with buffer := x.buffer.set x.run.pc.toNat (some (w, w2)) }
  | .vec j =>
    let x := s.vec j
    if (openLevels x.frames).isEmpty then s else s.setVec j { x with buffer := x.buffer.set x.run.pc.toNat (some (w, w2)) }
  | _ => s

/-- The lines of the instruction cache of home `h`: its core's, or the service core's own (R18, R22). -/
def State.icache (s : State) (h : Nat) : List Nat := if h < 1024 then (s.core (coreOf h)).icache else (s.svc (h - 1024)).icache

def State.setIcache (s : State) (h : Nat) (l : List Nat) : State :=
  if h < 1024 then s.setCore (coreOf h) { s.core (coreOf h) with icache := l }
  else s.setSvc (h - 1024) { s.svc (h - 1024) with icache := l }

/-- A line enters the instruction cache; a full one loses a line of the device's choice. -/
def State.enterIcache (s : State) (h ln : Nat) : State :=
  let l := s.icache h
  if l.length < icacheLines then s.setIcache h (ln :: l)
  else
    let (k, s1) := s.pick icacheLines
    s1.setIcache h (ln :: l.eraseIdx k)

/-- The word at `pc`, whose fetch has passed its checks: a cox word from the instruction cache, which passes on what it does
not hold; the words of the lane streams, and code on another device, by way of L2. -/
def State.fetchWord (s : State) (t : Thread) (pc : Word) : Word × State :=
  let h := t.home
  let ra := s.addr h .fetch pc
  let ln := ra / 128
  let c := CacheOf.icache (cacheUnit h)
  let cox := decide (Thread.map t = .cox ∧ ra < 2 ^ 40)
  if cox && (s.icache h).contains ln then
    (match s.keptOf c ln with | some l => wordLE ((l.drop (ra % 128)).take 8) | none => s.readWord ra, s)
  else
    let (l, s1) := (if cox then (s.enterIcache h ln).keep c ln (s.l2Kept h ln) else s).loadAt h ra 8 .l2
    (wordLE l, s1)

/-- The two words at a thread's pc, the second for an arm-length word (R55), and the state after their fetch; or the fault of
the first, or of the second when the word is a VARM or AARM (DEDUCED, assumption log 32). -/
def State.fetch (s : State) (t : Thread) : Chk × Word × Word × State :=
  let pc := (s.stream t).pc
  let h := t.home
  let bad := fun (a : Word) => if s.poisoned (s.addr h .fetch a) 8 then Chk.bad { cls := 18, sub := 1 } a else .ok
  match s.buffered t with
  | some (w, w2) => (bad pc, w, w2, s)
  | none =>
    match (match s.chk h .fetch pc 8 with | .ok => bad pc | c => c) with
    | .ok =>
      let (w, s1) := s.fetchWord t pc
      if (Thread.map t = .acc ∧ fOpc w = 0x021) ∨ (Thread.map t = .vec ∧ fOpc w = 0x101) then
        match (match s1.chk h .fetch (pc + 8) 8 with | .ok => bad (pc + 8) | c => c) with
        | .ok =>
          let (w2, s2) := s1.fetchWord t (pc + 8)
          (.ok, w, w2, s2.keepWord t w w2)
        | c => (c, 0, 0, s1)
      else (.ok, w, 0, s1.keepWord t w 0)
    | c => (c, 0, 0, s)

/-- The context that may issue on core g in this cycle of its crew's clock owns `h` (R205, R270, R394)
(DESIGN CHOICE, assumption log 34; DEDUCED, assumption log 41). -/
def State.owns (s : State) (h : Nat) : Bool :=
  (s.core (coreOf h)).slots.get (s.crewNow (crewOf h) % 64) 0 == h % 4 + 1 && s.ticks (crewOf h)

/-! ## The cox issue port (R222) -/

/-- The stream that number `i` names at the cox issue port of job j: the cox, or spore i - 1. -/
def portStream (j i : Nat) : Thread := if i = 0 then .cox j else .spore j (i - 1)

/-- The stream has had its turn in this cycle of its clock. -/
def State.turned (s : State) (t : Thread) : Bool := (s.stream t).ran == s.clockOf t.home + 1

/-- A stream of the job has issued through the port in this cycle. -/
def State.portUsed (s : State) (j : Nat) : Bool :=
  (List.range 5).any fun i => s.turned (portStream j i) && (s.stream (portStream j i)).since == 0

/-- Every ready stream that the rotation puts before `t` has had its turn in this cycle. -/
def State.portTurn (s : State) (t : Thread) : Bool :=
  match t with
  | .cox j | .spore j _ =>
    let order := (List.range 5).map fun i => portStream j (((s.ctx j).portLast + 1 + i) % 5)
    (order.takeWhile fun x => x.key != t.key).all fun x => (s.stream x).status != .ready || s.turned x
  | _ => true

/-- The stream that issued through the port in this cycle is the one served last. -/
def State.portServed (s : State) (j : Nat) : State :=
  match (List.range 5).find? fun i => s.turned (portStream j i) && (s.stream (portStream j i)).since == 0 with
  | some i => s.setCtx j { s.ctx j with portLast := i }
  | none => s

/-- The thread has a local cycle now, and has not had its turn in it: a service core in every cycle, a job's stream in its
context's slots, at the cox issue port in its order (DEDUCED, assumption log 41). -/
def State.mayRun (s : State) (t : Thread) : Bool :=
  (t.isSvc || (s.owns t.home && s.running t.home)) && decide ((s.stream t).ran ≤ s.clockOf t.home) && s.portTurn t

/-- What a thread's turn comes to. -/
inductive Reached where
  /-- Nothing, or a trap, a fault, a local cycle in which no word issues: the next state. -/
  | done (s : State)
  /-- This instruction is reached as the next word of its stream. -/
  | word (i : Instr) (s : State)

/-- The word is due: the previous one occupies the stream no longer, and its IDLE count has elapsed, or its stream only passes
it (R59, R183, R207, R239)
(DESIGN CHOICE, assumption log 34; DEDUCED, assumption log 41). -/
def State.due (s : State) (t : Thread) (w : Word) : Bool :=
  let r := s.stream t
  decide (r.occ < r.since) &&
    ((match t with
      | .acc _ | .vec _ => s.laneSkips t (laneH w)
      | _ => false) || decide (r.occ + (fIdle w).toNat < r.since ∧ r.hold ≤ r.since))

/-- The stream has its turn in this cycle of its clock: one more local cycle has passed. -/
def State.startTurn (s : State) (t : Thread) : State :=
  s.setStream t { s.stream t with ran := s.clockOf t.home + 1, since := (s.stream t).since + 1 }

/-- The word waits for a queue (R51, R53). -/
def State.laneStalls (s : State) (t : Thread) (w : Word) : Bool :=
  match t with
  | .acc j => (s.ctx j).wordStall false w
  | .vec j => (s.ctx j).wordStall true w
  | _ => false

/-! ## Plain loads that perform late (R280) -/

/-- The registers that a word names which plain loads may perform after: a word that forks an engine thread, of the EC format
other than MXRES (R275); another plain load; a word that computes or jumps and has no place in G (R231). -/
def latePasses (i : Instr) : Option (List SReg) :=
  match i with
  | .msg _ _ a b c _ | .mxldp _ _ a b c _ | .mxmm _ _ a b c _ _ _ | .mxga _ _ a b c _ | .mxdrg _ _ a b c _
  | .cpy _ _ a b c _ _ | .cpx _ _ a b c _ _ | .cpk _ _ a b c | .cpq _ _ a b c _ _ | .cpg _ _ a b c _ _
  | .cps _ _ a b c _ _ | .cpr _ _ a b c _ _ _ _ _ | .nvq _ _ a b c => some [a, b, c]
  | .mxswp _ _ a b _ | .mxkat _ _ a b | .mxdir _ _ a b _ | .logb _ _ a b | .clreq _ _ a b => some [a, b]
  | .mxevp _ _ a | .mxpin _ _ a _ | .mxtsm _ _ a | .rtacq _ _ a | .gmld _ _ a => some [a]
  | .mxgrp _ _ | .jmp _ _ => some []
  | .ld h d a _ | .ldI8 h d a _ | .ldN8 h d a _ | .ldI16 h d a _ | .ldI32 h d a _ | .ldN32 h d a _ =>
    if h.bl = 0 then some [d, a] else none
  | .add _ d a b | .sub _ d a b | .mul _ d a b | .mulh _ d a b | .div _ d a b | .rem _ d a b | .min _ d a b | .max _ d a b
  | .and _ d a b | .or _ d a b | .xor _ d a b | .shl _ d a b | .shr _ d a b | .sar _ d a b | .sel _ d a b _ _
  | .bfi _ d a b _ _ => some [d, a, b]
  | .addImm _ d a _ | .mulImm _ d a _ | .andImm _ d a _ | .orImm _ d a _ | .xorImm _ d a _ | .shlImm _ d a _
  | .shrImm _ d a _ | .sarImm _ d a _ | .clz _ d a | .popc _ d a | .bfx _ d a _ _ => some [d, a]
  | .cmp _ _ _ a b => some [a, b]
  | .ldi _ d _ | .ldih _ d _ => some [d]
  | .bra _ _ _ _ commit _ => if commit = 0 then some [] else none
  | _ => none

/-- A load that has issued and has not performed performs now (R280) (DESIGN CHOICE, assumption log 35). -/
def State.landOne (s : State) (t : Thread) (x : Late) : State :=
  let (l, s1) := s.loadAt t.home x.addr x.size .l1
  let v := BitVec.ofNat (8 * x.size) (natLE l)
  s1.setCox t ((s1.cox t).setReg x.dst (if x.signed then v.signExtend 64 else v.zeroExtend 64))

/-- The loads of a stream that have issued and not performed perform now, in their order. -/
def State.land (s : State) (t : Thread) : State :=
  match t with
  | .acc _ | .vec _ => s
  | t =>
    match (s.cox t).late with
    | [] => s
    | l =>
      let s1 := l.foldl (fun y x => y.landOne t x) s
      s1.setCox t { s1.cox t with late := [] }

/-- The cox stream that number `k` names among the cox streams. -/
def coxThread (k : Nat) : Thread :=
  if 8192 ≤ k then .svc (k - 8192) else if k % 8 = 0 then .cox (k / 8) else .spore (k / 8) (k % 8 - 1)

/-- The late loads of each stream that has one of the 16-byte piece `n` perform now: an error that strikes the piece comes
after them, since a load that meets poison stops its stream at its own word (R299, R389) (DEDUCED, assumption log 128). -/
def State.landPiece (s : State) (n : Nat) : State :=
  s.coxes.foldl (fun y e => if e.2.late.any fun x => x.addr / 16 == n then y.land (coxThread e.1) else y) s

/-- A word is run: the late loads of its stream perform before it, unless it is one that they may perform after, in a
slow turn, and names no destination of theirs. -/
def State.landFor (s : State) (t : Thread) (i : Instr) : State :=
  match latePasses i with
  | some l => if s.slow && (s.cox t).late.all fun x => !l.contains x.dst then s else s.land t
  | none => s.land t

/-- The turn of thread `t` once it has one: a deliverable record or a trap is taken at the issue boundary (R373, R377);
otherwise the word at the pc is fetched and decoded, and reached when it is due. An illegal word waits for its queues as a
legal one does (R59) (DEDUCED, assumption log 39). -/
def State.turn (s : State) (t : Thread) : Reached :=
  match (match t with | .cox j => s.deliverable j | _ => none) with
  | some r => .done ((s.land t).deliver t.home r)
  | none =>
    if (match t with | .svc n => s.trapReady n | _ => false) then
      .done (match t with | .svc n => (s.land t).trap n | _ => s)
    else if (s.stream t).status ≠ .ready then .done s
    else
      match s.fetch t with
      | (.bad c a, _, _, _) => .done ((s.land t).fault t c a)
      | (.forward a, _, _, _) => .done (s.forwardWalk t.home a)
      | (.ok, w, w2, s1) =>
        if ¬ s1.due t w then .done s1
        else
          let skips := match t with | .acc _ | .vec _ => s1.laneSkips t (laneH w) | _ => false
          match decode (Thread.map t) w w2 with
          | .ok i => .word i (s1.landFor t i)
          | .error _ => .done (if !skips && s1.laneStalls t w then s1 else (s1.land t).fault t illegal 0)

/-- The turn of thread `t`, when it has a local cycle: a stream at the cox issue port takes no word while another has issued
in this cycle (R222). -/
def State.reach_ (s : State) (t : Thread) : Reached :=
  let s0 := { s with cur := t }
  if ¬ s0.mayRun t then .done s0
  else
    let used := match t with | .cox j | .spore j _ => s0.portUsed j | _ => false
    if used then .done (s0.startTurn t) else (s0.startTurn t).turn t

/-! ## The passing of a cycle -/

/-- A job's budget counts its owned cycles from GO on (R228). -/
def State.countBudget (s : State) (h : Nat) : State :=
  let c := s.ctx h
  match c.job with
  | some j =>
    if j.phase = .running ∧ s.owns h then s.setCtx h { c with job := some { j with owned := j.owned + 1 } } else s
  | none => s

/-- The warning at seven eighths of the budget (R228). -/
def State.warnBudget (s : State) (h : Nat) : State :=
  let c := s.ctx h
  match c.job with
  | none => s
  | some j =>
    if j.phase = .running ∧ ¬ j.warned ∧ j.budget - j.budget / 8 ≤ j.owned then
      let w : Cause := { cls := 9, sub := 0 }
      let s1 := s.setCtx h { c with job := some { j with warned := true } }
      s1.postRecord w (s1.mkRecord h .none w 0 0 0)
    else s

/-- A cycle of the crew's clock discards a NOTE at the head of each call queue (R211). -/
def State.noteCycle (s : State) (h : Nat) : State :=
  if h < 1024 ∧ s.ticks (crewOf h) then
    let now := s.crewNow (crewOf h)
    let c := ((s.ctx h).discardNote true now).discardNote false now
    if c = s.ctx h then s else s.setCtx h c
  else s

/-- The end of the budget: the job is killed (R228). -/
def State.exhaustBudget (s : State) (h : Nat) : State :=
  match (s.ctx h).job with
  | none => s
  | some j => if j.phase = .running ∧ j.budget ≤ j.owned then s.killJob h 1 noCause else s

/-- The fault of the load of a woken waiter: the word's scratch window is absent by now, or the word is poisoned
(R288, R389, R402) (DEDUCED, assumption log 127). -/
def State.wakeFault (s : State) (w : Watch) : Option Cause :=
  match s.placeFault (s.partOf w.who.home) false w.addr with
  | some c => some c
  | none => if s.poisoned w.addr 8 then some { cls := 18, sub := 1 } else none

/-- A woken waiter: its word performs a load, discards the value and returns, and the watch is gone; a load that fails stops
the stream at the word (R288). -/
def State.wake (s : State) (w : Watch) : State :=
  let s1 := { s with watches := s.watches.erase w }
  if (s1.stream w.who).status ≠ .parked then s1
  else
    match s1.wakeFault w with
    | some c => (s1.setStatus w.who .ready).fault w.who c w.va
    | none => (s1.setStatus w.who .ready).next w.who

/-- A watch whose 1,000 cycles of the waiter's clock have passed (R288, R394). -/
def State.overdue (s : State) (w : Watch) : Bool :=
  match w.hit with
  | some c => w.fence.isNone && decide (c + 1000 ≤ s.clockOf w.who.home)
  | none => false

/-- One package cycle passes: budgets count, the cox issue ports remember whom they served, no watch stays parked beyond its
bound, and each crew's clock ticks or loses the cycle (DESIGN CHOICE, assumption log 34). -/
def State.cycle (s : State) : State :=
  let s1 := (List.range s.ctxs.length).foldl (fun x i => match s.ctxs[i]? with
    | some (h, _) => ((((x.portServed h).noteCycle h).countBudget h).warnBudget h).exhaustBudget h
    | none => x) s
  let s2 := { s1.loseCycle with now := s1.now + 1 }
  (s2.watches.filter s2.overdue).foldl State.wake s2

end Sys2Proof.Machine
end

