-- ==== Sys2Proof/Machine/CoxMem.lean ====
section
/-! DEFINITION. Machine/CoxMem.lean: loads, stores, atomics, WAITA, FENCE and WQPUSH of the cox, with the orderings of
package and domain scope (R281 to R283, R288 to R295, R299 to R304). -/

namespace Sys2Proof.Machine

/-- A store of the stream itself, or one that a load of its home has seen in a copy, is on its way to the line of `ra`:
an access at the line's home waits for it (R291, Table 11.4 cell s). -/
def State.lineBusy (s : State) (t : Thread) (ra : Nat) : Bool :=
  s.posted.any fun x => x.addr / 128 == ra / 128 && ((x.who == t && x.eng.isNone) || x.seen.contains t.home)

/-- A .dom store of the stream is on its way to the line of `ra`, and no copy holds its bytes: a plain load of the line
waits for it, which keeps program order (R291, R300). -/
def State.domBusy (s : State) (t : Thread) (ra : Nat) : Bool :=
  s.posted.any fun x => x.addr / 128 == ra / 128 && x.who == t && x.eng.isNone && x.dom

/-! ## Signatures (R293, R294) -/

/-- A release to the word at `ra` publishes `g` with it; a full table merges its oldest entry into the residual. An
entry that is replaced keeps its age: the oldest is the one whose word entered the table first (DESIGN CHOICE,
assumption log 107). -/
def Slice.publish (x : Slice) (ra : Nat) (g : BitVec 1024) : Slice :=
  if x.rel.any fun e => e.1 == ra then
    { x with rel := x.rel.map fun e => if e.1 = ra then (ra, g) else e }
  else if x.rel.length < 256 then { x with rel := x.rel ++ [(ra, g)] }
  else
    match x.rel with
    | [] => x
    | e :: r => { x with rel := r ++ [(ra, g)], residual := x.residual ||| e.2 }

/-- The signature that an acquire of the word at `ra` receives. -/
def Slice.received (x : Slice) (ra : Nat) : BitVec 1024 :=
  match x.rel.find? fun e => e.1 == ra with
  | some e => e.2
  | none => x.residual

def State.publish (s : State) (h ra : Nat) : State :=
  s.setSlice (homeSlice ra) ((s.slice (homeSlice ra)).publish ra (s.ctx h).sig)

/-- The line number of a resolved remote line, ra div 128. -/
def remoteLine (l : Nat) : Nat := (l / 2 ^ 33 - 1) * 2 ^ 31 + l % 2 ^ 33

/-- A signature names a remote line: it covers it, or it has 512 or more bits set and names them all (R294). -/
def sigNames (g : BitVec 1024) (l : Nat) : Bool :=
  decide (2 ^ 33 ≤ l) && (decide (512 ≤ popcount 1024 g.toNat) || sigCovers g (remoteLine l))

/-- The core's L1 and the crew's L2 drop the remote copies that a signature names. -/
def State.invalidateCopies (s : State) (h : Nat) (g : BitVec 1024) : State :=
  let s1 := s.setL1 h ((s.l1 h).drop (sigNames g))
  s1.setL2 h ((s1.l2 h).drop (sigNames g))

/-- An acquire: SIG takes in the received signature, and the caches drop the copies that it names. What other devices have
published with a word that is homed there is a free value (DESIGN CHOICE, assumption log 22). -/
def State.acquire (s : State) (h ra : Nat) : State :=
  let g0 := (s.slice (homeSlice ra)).received ra
  let (g, s1) :=
    if 2 ^ 40 ≤ ra then
      let (k, s1) := s.pick (2 ^ 1024)
      (g0 ||| BitVec.ofNat 1024 k, s1)
    else (g0, s)
  (s1.setCtx h { s1.ctx h with sig := (s1.ctx h).sig ||| g }).invalidateCopies h g

/-! ## Loads (R300, Table 12.1) -/

/-- The register value of a loaded number of `n` bytes. -/
def extend (signed : Bool) (n : Nat) (l : List Byte) : Word :=
  let x := BitVec.ofNat (8 * n) (natLE l)
  if signed then x.signExtend 64 else x.zeroExtend 64

structure LoadKind where
  bytes : Nat
  signed : Bool
  /-- .dom: at the home slice; .acq.dom: with the effects of R294. -/
  dom : Bool
  acq : Bool
  /-- A load without a suffix, which may perform late (R280). -/
  plain : Bool
deriving DecidableEq, Repr

/-- The checks of a cox access (R299). -/
def State.chkCox (s : State) (t : Thread) (perm : Perm) (va : Word) (n : Nat) : Chk :=
  if va.toNat % n ≠ 0 then .bad alignment va else s.chk t.home perm va n

/-- A load. A plain one of a slow turn issues now and performs later (R280), but for one of a scratch window, which
performs in the turn of its test (R402). -/
def coxLoad (s : State) (h : CoxH) (k : LoadKind) (d a : SReg) (imm : BitVec 24) : Out :=
  coxForm s .any h [d, a] fun t =>
    let c := s.cox t
    let bl := h.bl.toNat
    let x := c.src bl a
    let va := x.1 + simm24 imm
    match [(c.pred bl h.pred).2, x.2].findSome? id with
    | some p => .next ((s.setCox t (c.put bl d 0 (some p))).next t)
    | none =>
      match s.chkCox t .load va k.bytes with
      | .bad e ad =>
        if bl = 0 then .next (s.fault t e ad)
        else .next (((s.dropFailed t.home ad).setCox t (c.put bl d 0
          (some { pc := c.run.pc, addr := ad, cls := e.cls, sub := e.sub }))).next t)
      | .forward ad => .next (s.forwardWalk t.home ad)
      | .ok =>
        let ra := s.addr t.home .load va
        if (if k.dom then s.lineBusy t ra else s.domBusy t ra) then .next s
        else if k.plain && s.slow && bl = 0 && !inWindow ra then
          .next ((s.setCox t
            { c with late := c.late ++ [{ dst := d, addr := ra, size := k.bytes, signed := k.signed }] }).next t)
        else
          let s0 := if s.slow then s.land t else s
          let (l, s1) := s0.loadAt t.home ra k.bytes (if k.dom then .home else .l1)
          let s2 := if k.acq then s1.acquire t.home ra else s1
          .next ((s2.setCox t ((s2.cox t).put bl d (extend k.signed k.bytes l) none)).next t)

def execLd (h : CoxH) (d a : SReg) (imm : BitVec 24) (s : State) : Out := coxLoad s h ⟨8, false, false, false, true⟩ d a imm
def execLdI8 (h : CoxH) (d a : SReg) (imm : BitVec 24) (s : State) : Out := coxLoad s h ⟨1, true, false, false, true⟩ d a imm
def execLdN8 (h : CoxH) (d a : SReg) (imm : BitVec 24) (s : State) : Out := coxLoad s h ⟨1, false, false, false, true⟩ d a imm
def execLdI16 (h : CoxH) (d a : SReg) (imm : BitVec 24) (s : State) : Out := coxLoad s h ⟨2, true, false, false, true⟩ d a imm
def execLdI32 (h : CoxH) (d a : SReg) (imm : BitVec 24) (s : State) : Out := coxLoad s h ⟨4, true, false, false, true⟩ d a imm
def execLdN32 (h : CoxH) (d a : SReg) (imm : BitVec 24) (s : State) : Out := coxLoad s h ⟨4, false, false, false, true⟩ d a imm
/-- LD.acq is a load here: later forks begin after it in any case (R282). -/
def execLdAcq (h : CoxH) (d a : SReg) (imm : BitVec 24) (s : State) : Out := coxLoad s h ⟨8, false, false, false, false⟩ d a imm
def execLdDom (h : CoxH) (d a : SReg) (imm : BitVec 24) (s : State) : Out := coxLoad s h ⟨8, false, true, false, false⟩ d a imm
def execLdAcqDom (h : CoxH) (d a : SReg) (imm : BitVec 24) (s : State) : Out :=
  coxLoad s h ⟨8, false, true, true, false⟩ d a imm

/-! ## Stores -/

structure StoreKind where
  bytes : Nat
  dom : Bool
  rel : Bool
deriving DecidableEq, Repr

/-- What a release waits for before it performs: its forks, and at domain scope their remote stores too (R282, R293). -/
def State.released (s : State) (t : Thread) (dom : Bool) : Bool := s.forksDone t && (!dom || s.remoteDone t)

/-- A release that performs at its home: a remote line enters SIG, and no copy takes its bytes; the caches of the thread lose
theirs of that line, so that no later load of it returns an older value (R291 to R293, R300). -/
def State.storeHome (s : State) (h ra : Nat) (l : List Byte) : State :=
  if ra < 2 ^ 40 then s.store ra l else ((s.signLine h ra none).store ra l).dropCopy h ra

def coxStore (s : State) (h : CoxH) (k : StoreKind) (d a : SReg) (imm : BitVec 24) : Out :=
  coxForm s .any h [d, a] fun t =>
    let va := s.reg t a + simm24 imm
    let bytes := bytesLE k.bytes (s.reg t d).toNat
    withChk s t (s.chkCox t .store va k.bytes)
      (if k.rel && !s.released t k.dom then .next s
       else
         let s1 := if k.rel then s.joinForks t else s
         let ra := s1.addr t.home .store va
         let s2 :=
           if k.rel && k.dom then (s1.storeHome t.home ra bytes).publish t.home ra
           else if k.dom && decide (2 ^ 40 ≤ ra) then s1.post t none ra bytes true
           else s1.storeAt t none ra bytes
         .next (s2.next t))

def execSt (h : CoxH) (d a : SReg) (imm : BitVec 24) (s : State) : Out := coxStore s h ⟨8, false, false⟩ d a imm
def execStI8 (h : CoxH) (d a : SReg) (imm : BitVec 24) (s : State) : Out := coxStore s h ⟨1, false, false⟩ d a imm
def execStI16 (h : CoxH) (d a : SReg) (imm : BitVec 24) (s : State) : Out := coxStore s h ⟨2, false, false⟩ d a imm
def execStI32 (h : CoxH) (d a : SReg) (imm : BitVec 24) (s : State) : Out := coxStore s h ⟨4, false, false⟩ d a imm
def execStRel (h : CoxH) (d a : SReg) (imm : BitVec 24) (s : State) : Out := coxStore s h ⟨8, false, true⟩ d a imm
def execStDom (h : CoxH) (d a : SReg) (imm : BitVec 24) (s : State) : Out := coxStore s h ⟨8, true, false⟩ d a imm
def execStRelDom (h : CoxH) (d a : SReg) (imm : BitVec 24) (s : State) : Out := coxStore s h ⟨8, true, true⟩ d a imm

/-! ## Atomics (R301) -/

def AmoOrd.rel : AmoOrd → Bool
  | .rel | .acqrel | .relDom | .acqrelDom => true
  | _ => false

def AmoOrd.acq : AmoOrd → Bool
  | .acq | .acqrel | .acqDom | .acqrelDom => true
  | _ => false

def AmoOrd.dom : AmoOrd → Bool
  | .dom | .acqDom | .relDom | .acqrelDom => true
  | _ => false

/-- The read and the write of an atomic, adjacent at the home slice; one that leaves the word as it was writes nothing.
The copies of a remote line that it has passed over are dropped, so that no later load returns an older value (R291).
Its line enters SIG when it has changed the word: the model counts it with the remote stores (R292) (DESIGN CHOICE,
assumption log 108). -/
def State.amoAt (s : State) (h ra : Nat) (f : Word → Word) : Word × State :=
  let old := s.readWord ra
  let new := f old
  let s1 :=
    if new = old then s.llc ra false
    else (if 2 ^ 40 ≤ ra then s.signLine h ra none else s).store ra (bytesLE 8 new.toNat)
  (old, s1.dropCopy h ra)

/-- An atomic. One of .acqrel.dom form receives the signature that stands with the word, and publishes SIG with what it has
received (R292 to R295). One of .acqrel form joins the forks before it (R282) (DEDUCED, assumption log 105). -/
def coxAmo (s : State) (h : CoxH) (o : AmoOrd) (regs : List SReg) (d a : SReg) (f : Thread → Word → Word) : Out :=
  coxForm s .any h regs fun t =>
    let va := s.reg t a
    withChk s t (s.chkCox t .both va 8)
      (let ra := s.addr t.home .both va
       if s.lineBusy t ra || (AmoOrd.rel o && !s.released t (AmoOrd.dom o)) then .next s
       else
         let s1 := if AmoOrd.rel o then s.joinForks t else s
         let (old, s2) := s1.amoAt t.home ra (f t)
         let s3 := if AmoOrd.acq o && AmoOrd.dom o then s2.acquire t.home ra else s2
         let s4 := if AmoOrd.rel o && AmoOrd.dom o then s3.publish t.home ra else s3
         .next ((s4.setReg t d old).next t))

def execAmoAdd (h : CoxH) (o : AmoOrd) (d a b : SReg) (s : State) : Out :=
  coxAmo s h o [d, a, b] d a fun t x => x + s.reg t b
def execAmoAnd (h : CoxH) (o : AmoOrd) (d a b : SReg) (s : State) : Out :=
  coxAmo s h o [d, a, b] d a fun t x => x &&& s.reg t b
def execAmoOr (h : CoxH) (o : AmoOrd) (d a b : SReg) (s : State) : Out :=
  coxAmo s h o [d, a, b] d a fun t x => x ||| s.reg t b
def execAmoXor (h : CoxH) (o : AmoOrd) (d a b : SReg) (s : State) : Out :=
  coxAmo s h o [d, a, b] d a fun t x => x ^^^ s.reg t b
def execAmoMin (h : CoxH) (o : AmoOrd) (d a b : SReg) (s : State) : Out :=
  coxAmo s h o [d, a, b] d a fun t x => if x.sle (s.reg t b) then x else s.reg t b
def execAmoMax (h : CoxH) (o : AmoOrd) (d a b : SReg) (s : State) : Out :=
  coxAmo s h o [d, a, b] d a fun t x => if x.sle (s.reg t b) then s.reg t b else x
def execAmoSwap (h : CoxH) (o : AmoOrd) (d a b : SReg) (s : State) : Out :=
  coxAmo s h o [d, a, b] d a fun t _ => s.reg t b
/-- CAS: b is the new value, e the expected one (Table 3.2). -/
def execCas (h : CoxH) (o : AmoOrd) (d a b e : SReg) (s : State) : Out :=
  coxAmo s h o [d, a, b, e] d a fun t x => if x = s.reg t e then s.reg t b else x

/-! ## WAITA and FENCE (R283, R288, R289, R302) -/

/-- The watches that a home slice holds. -/
def State.watchCount (s : State) (sl : Nat) : Nat := (s.watches.filter fun w => homeSlice w.addr == sl).length

/-- The word of the stream has issued, and the stream stays at it, with its local clock stopped (R222, R288). -/
def State.park (s : State) (t : Thread) : State := s.setStream t { s.stream t with since := 0, status := .parked }

/-- WAITA. On a word of another device it performs one domain-scope load and returns (R289). -/
def execWaita (h : CoxH) (a b : SReg) (s : State) : Out :=
  coxForm s .any h [a, b] fun t =>
    let va := s.reg t a
    withChk s t (s.chkCox t .watch va 8)
      (let ra := s.addr t.home .watch va
       if s.lineBusy t ra then .next s
       else if 2 ^ 40 ≤ ra then .next ((s.loadAt t.home ra 8 .home).2.next t)
       else if 1024 ≤ s.watchCount (homeSlice ra) ∨ s.readWord ra ≠ s.reg t b then .next (s.next t)
       else
         let w : Watch := { who := t, fence := none, addr := ra, va := va, hit := none, touched := false }
         .next { s.park t with watches := s.watches ++ [w] })

/-- Event WATCH_WAKE: a store has changed the word that `t` watches (R288). -/
def execWatchWake (t : Thread) (s : State) : Out :=
  match s.watches.find? fun w => w.fence.isNone && w.who == t && w.hit.isSome with
  | some w => .next (s.wake w)
  | none => .next s

/-- Event SPURIOUS_WAKE: a wake for one of the reasons of R289. -/
def execSpuriousWake (t : Thread) (s : State) : Out :=
  match s.watches.find? fun w => w.fence.isNone && w.who == t && w.touched with
  | some w => .next (s.wake w)
  | none => .next s

def execFence (h : CoxH) (s : State) : Out :=
  coxForm s .any h [] fun t =>
    if s.forksDone t && s.remoteDone t then .next ((s.joinForks t).next t) else .next s

/-! ## WQPUSH (R303, R304) -/

def wqFault (n : Byte) : Cause := { cls := 13, sub := n }

def Queue.state (q : Queue) : Nat := fieldOf q.d0 0 3
def Queue.logn (q : Queue) : Nat := fieldOf q.d0 8 4
def Queue.head (q : Queue) : Nat := fieldOf q.d1 32 16
def Queue.tail (q : Queue) : Nat := fieldOf q.d1 16 16

/-- The ring has room for a packet (R200). -/
def Queue.room (q : Queue) : Bool := decide ((q.tail + 2 ^ 16 - q.head) % 2 ^ 16 < 2 ^ q.logn)

/-- The physical address of slot `i` through a held ring translation (R200, R304). -/
def ringAddr (pages : List Nat) (logn i : Nat) : Nat :=
  let off := i % 2 ^ logn * 256
  pages.getD (off / 4096) 0 + off % 4096

/-- Reserves slot TAIL and writes a packet there, its header last (R200). -/
def State.pushPacket (s : State) (p q : Nat) (pages : List Nat) (bytes : List Byte) : State :=
  let x := s.queue p q
  let a := ringAddr pages x.logn x.tail
  let s1 := s.setQueue p q { x with d1 := withField x.d1 16 16 (x.tail + 1) }
  (s1.store (a + 8) (bytes.drop 8)).store a (bytes.take 8)

/-- DEDUCED, assumption log 48. -/
def execWqpush (h : CoxH) (a b : SReg) (s : State) : Out :=
  coxForm s .any h [a, b] fun t =>
    if ¬ s.forksDone t then .next s
    else
      let va := s.reg t a
      let w := s.reg t b
      let p := if t.isSvc then fieldOf w 4 6 else s.partOf t.home
      let q := fieldOf w 0 4
      if va.toNat % 256 ≠ 0 then .next (s.fault t alignment va)
      else
        withChk s t (s.chk t.home .load va 256)
          (let (bytes, s1) := (s.joinForks t).readV t.home .load .l1 va 256
           let x := s.queue p q
           if (natLE (bytes.take 1)) % 16 = 0 then .next (s.fault t (wqFault 1) va)
           else if x.state = 0 then .next (s.fault t (wqFault 2) va)
           else
             match x.ring with
             | none => .next (s.fault t (wqFault 3) va)
             | some pages => if x.room then .next ((s1.pushPacket p q pages bytes).next t) else .next s)

/-! ## Remote stores and accesses (R291, R410) -/

/-- Of two posted stores to one line the earlier performs first at its home: when one thread posted both, and when both have
updated the same copies, since the line then takes the values that loads read from those copies in the same order
(R291, Table 11.4 cell s). -/
def Posted.before (x p : Posted) : Bool :=
  x.addr / 128 == p.addr / 128 && (x.who == p.who || (!x.dom && !p.dom && sameCaches x.who.home p.who.home))

/-- Event REMOTE_STORE_ACK: the i-th posted store performs at its home and is acknowledged, once those that come before it
have. After one of domain scope the caches of its thread lose their copies of the line
(DESIGN CHOICE, assumption log 36). -/
def execRemoteStoreAck (i : Nat) (s : State) : Out :=
  match s.posted[i]? with
  | none => .next s
  | some p =>
    if (s.posted.take i).any fun x => x.before p then .next s
    else
      let s1 := { s.store p.addr p.bytes with posted := s.posted.eraseIdx i }
      .next ((if p.dom then s1.dropCopy p.who.home p.addr else s1).copyDone p.who.home)

/-- A signature of another device's thread is published with the word at `pa` (R293). -/
def State.publishRemote (s : State) (pa : Nat) (g : BitVec 1024) : State :=
  s.setSlice (homeSlice pa) ((s.slice (homeSlice pa)).publish pa g)

/-- Event REMOTE_ACCESS: another device's access to this package's memory for partition `part`, made only when the frame
is that partition's (R410) (DESIGN CHOICE, assumption log 83). -/
def execRemoteAccess (part : BitVec 6) (pa : Nat) (op : RemoteOp) (s : State) : Out :=
  if place pa = .dram ∧ s.frameOwner pa = part.toNat + 1 then
    match op with
    | .load => .next (s.llc pa false)
    | .store l => if pa % 2 ^ 21 + l.length ≤ 2 ^ 21 then .next (s.store pa l) else .next s
    | .add v => if pa % 8 = 0 then .next (s.amoAt 1024 pa (· + v)).2 else .next s
    | .storeRel v g => if pa % 8 = 0 then .next ((s.store pa (bytesLE 8 v.toNat)).publishRemote pa g) else .next s
    | .addRel v g => if pa % 8 = 0 then .next ((s.amoAt 1024 pa (· + v)).2.publishRemote pa g) else .next s
  else .next s

/-- Event FLIT_RETRY: a damaged flit is sent again on its link, whose retry sequence goes on; no operation's order changes
(R411) (DESIGN CHOICE, assumption log 84). -/
def execFlitRetry (link : Nat) (s : State) : Out :=
  let x := s.die (link / 4)
  .next (s.setDie (link / 4) { x with links := x.links.set (link % 4) (x.links.get (link % 4) 0 + 1) })

/-! ## Page walks that fill the caches (R354 to R356) -/

/-- A translation enters a cache of `cap` entries; a full one loses entry `drop`. -/
def fillCache (l : List Trans) (cap drop : Nat) (t : Trans) : List Trans :=
  t :: (if l.length < cap then l else l.eraseIdx (drop % l.length))

/-- The part of a page that one frame ownership byte covers (DEDUCED, assumption log 24). -/
def Trans.fragment (t : Trans) (va : Nat) : Trans :=
  if t.size = 3 then { t with va := va / 2 ^ 21 * 2 ^ 21, pa := t.pa + (va / 2 ^ 21 * 2 ^ 21 - t.va), size := 2 } else t

/-- The caches that home `h` looks in hold the translation: its core's and its crew's. A full one loses a free entry. -/
def State.fillTrans (s : State) (t : Trans) (h : Nat) : State :=
  let c := crewOf h
  let g := coreOf h
  let full := decide (4096 ≤ (s.crew c).tlb.length ∨ 256 ≤ (s.core g).tlb.length)
  let (d, s1) := if full then s.pick 4096 else (0, s)
  let s2 := s1.setCrew c { s1.crew c with tlb := fillCache (s1.crew c).tlb 4096 d t }
  s2.setCore g { s2.core g with tlb := fillCache (s2.core g).tlb 256 d t }

/-- The translation of a page whose frame check has passed, with its resolved address (DEDUCED, assumption log 24). -/
def State.fillable (s : State) (p va : Nat) : Option Trans :=
  match s.walk p va with
  | .error _ => none
  | .ok t =>
    let f := t.fragment va
    match s.frameCheck p (f.pa + (va - f.va)) with
    | .ok ra => some { f with pa := ra - (va - f.va) }
    | .error _ => none

/-- How many of some walks are in flight, and how many of those are partition p's: in arrival order each walk starts while
there are fewer than 64, and fewer than 16 of its partition (R354). -/
def walksIn (p : Nat) (l : List Walk) : Nat × Nat :=
  let started := l.foldl (fun (a : List Nat) w =>
    if a.length < 64 ∧ (a.filter (· == w.part)).length < 16 then a ++ [w.part] else a) []
  (started.length, (started.filter (· == p)).length)

/-- The walk at place i of a die's is one of the walker's, and not one that waits in its crew; a forwarded one is the
host's. -/
def Die.walking (x : Die) (i : Nat) : Bool :=
  match x.walks[i]? with
  | none => false
  | some w =>
    let (n, m) := walksIn w.part ((x.walks.take i).filter fun y => y.host.isNone)
    w.host.isNone && decide (n < 64 ∧ m < 16)

/-- The homes that waited for a walk make their accesses again: with its translation in their caches, or with its failure. -/
def State.walkEnds (s : State) (w : Walk) (t : Option Trans) (cause : Option Byte) : State :=
  match t with
  | some x => w.homes.foldl (fun s1 h => s1.fillTrans x h) s
  | none =>
    { s with refusedWalks := s.refusedWalks ++ w.homes.map fun h => { part := w.part, page := w.page, home := h, cause := cause } }

/-- Event PAGE_WALK_COMPLETE: the walk of partition p for `va` that the walker of crew c's die makes ends (R354)
(DEDUCED, assumption log 37). -/
def execPageWalkComplete (c p : Nat) (va : Word) (s : State) : Out :=
  let d := c / 16
  let x := s.die d
  match (List.range x.walks.length).find? fun i =>
      match x.walks[i]? with | some w => w.part == p && w.page == va.toNat / 4096 | none => false with
  | none => .next s
  | some i =>
    match x.walks[i]? with
    | none => .next s
    | some w =>
      if ¬ x.walking i then .next s
      else
        let s1 := s.setDie d { x with walks := x.walks.eraseIdx i }
        if fieldOf (s.part p).pd0 63 1 = 0 then .next s1
        else .next (s1.walkEnds w (s.fillable p (w.page * 4096)) none)

end Sys2Proof.Machine
end

