-- ==== Sys2Proof/Machine/Grammar.lean ====
section
/-! DEFINITION. Machine/Grammar.lean: the grammar unit: GMLD and its thread, GMSTEP, GMMASK, GMSAVE and GMREST
(R250 to R256). -/

namespace Sys2Proof.Machine

/-- A grammar fault with a subcause of Table 9.10. -/
def gmFault (sub : Byte) : Cause := { cls := 6, sub := sub }

/-- A wait token that the word of an engine command takes at issue is there (R252, R265, R331). -/
def Ctx.waitReady (c : Ctx) (t : Tok) : Bool := t.wait == 0 || decide (1 ≤ (c.token t.wait.toNat).toNat)

def Ctx.takeWait (c : Ctx) (t : Tok) : Ctx :=
  if t.wait = 0 then c else c.setToken t.wait.toNat (c.token t.wait.toNat - 1)

/-- A token has been counted down by another than the context's mxq: what a head that has not started has read while the
token that it waits for was there is read again, once it has its own count (R281) (DEDUCED, assumption log 74). -/
def Ctx.unfetch (c : Ctx) : Ctx := if c.mx.isNone then { c with fetched := none, fetching := none } else c

/-- GMLD forks its thread (R252). `seq` notes whether the word was a handler's. -/
def execGmld (h : CoxH) (k : Tok) (a : SReg) (s : State) : Out :=
  coxForm s .job h [a] fun t =>
    let c := s.ctx t.home
    if c.grammar.load.isSome ∨ ¬ c.waitReady k then .next s
    else
      let cmd : Cmd :=
        { opc := 0x0B0, tok := k, a := s.reg t a &&& ~~~ 63, b := 0, c := 0, mods := 0, pc := (s.stream t).pc, forker := t,
          seq := if c.handling.isSome then 1 else 0, gen := c.gen }
      let c1 := (c.takeWait k).unfetch
      .next ((s.setCtx t.home { c1 with grammar := { c1.grammar with load := some cmd } }).next t)

/-- The checks of a descriptor (R252). -/
def descriptorOk (w : List Word) : Bool :=
  let g := fun i => w.getD i 0
  fieldOf (g 0) 41 23 == 0 && ((List.range 3).all fun i => g (5 + i) == 0) &&
    decide (fieldOf (g 0) 12 12 < fieldOf (g 0) 0 12 + 1) && (g 2).toNat % 4 == 0 && (g 3).toNat % 64 == 0 &&
    (g 4).toNat % 8 == 0

/-- The unit that a good descriptor leaves: empty cache, START, depth 0, no snapshots. -/
def Grammar.ofDescriptor (w : List Word) : Grammar :=
  let g := fun i => w.getD i 0
  { loaded := true, ns := fieldOf (g 0) 0 12 + 1, ncls := fieldOf (g 0) 24 8 + 1, nch := fieldOf (g 0) 32 9 + 1,
    cls := g 1, tt := g 2, mt := g 3, ft := g 4, state := BitVec.ofNat 12 (fieldOf (g 0) 12 12), stack := [],
    snaps := [], cache := [], load := none }

/-- A GMLD thread faults: the word has had no effect, its token is given back, and its stream stops at it, to execute it
again; a cox that is in its handler meanwhile comes back to it when the handler returns (R251, R252) (DEDUCED,
assumption log 57). A user fault of a GMLD of the handler's own cox words kills the job (R374). -/
def State.gmldFault (s : State) (j : Nat) (cmd : Cmd) (c : Cause) : State :=
  let x := s.ctx j
  let g : Grammar := { x.grammar with load := none }
  let x1 := { x with grammar := g }
  let x2 := if cmd.tok.wait = 0 then x1 else x1.addToken cmd.tok.wait.toNat 1
  let s1 := s.setCtx j x2
  let t := cmd.forker
  if t = .cox j ∧ cmd.seq = 1 ∧ ¬ privClass c then s1.killJob j 4 c
  else
    let r := s1.mkRecord j (unitOf t) c cmd.pc cmd.a 0
    let s2 :=
      if t = .cox j ∧ x.handling.isSome ∧ cmd.seq = 0 then s1.setCtx j { x2 with epc := cmd.pc }
      else if (s1.stream t).status = .off then s1
      else s1.setStream t { s1.stream t with pc := cmd.pc, status := .stopped }
    s2.postRecord c r

/-- Event GRAMMAR_DESCRIPTOR_LOAD: the thread reads and checks the descriptor, resets the unit and signals (R252). -/
def execGrammarDescriptorLoad (j : Nat) (s : State) : Out :=
  let c := s.ctx j
  match c.grammar.load with
  | none => .next s
  | some cmd =>
    match s.chk j .load cmd.a 64 with
    | .bad e _ => .next (s.gmldFault j cmd e)
    | .forward a => .next (s.forwardWalk j a)
    | .ok =>
      let (bytes, s1) := s.readV j .load .l1 cmd.a 64
      let w := wordsOf 8 bytes
      if descriptorOk w then
        .next (s1.setCtx j ({ s1.ctx j with grammar := Grammar.ofDescriptor w }.signal cmd.tok.sig))
      else .next (s1.gmldFault j cmd (gmFault 2))

/-- A grammar word other than GMLD: it waits for a GMLD in progress, and faults while none has completed since GO. -/
def gmForm (s : State) (h : CoxH) (regs : List SReg) (body : Thread → Grammar → Out) : Out :=
  coxForm s .job h regs fun t =>
    let g := (s.ctx t.home).grammar
    if g.load.isSome then .next s
    else if ¬ g.loaded then .next (s.fault t (gmFault 1) 0)
    else body t g

/-- The word has issued and the unit is `g`. -/
def State.gmNext (s : State) (t : Thread) (g : Grammar) : State :=
  (s.setCtx t.home { s.ctx t.home with grammar := g }).next t

/-- The effect of a transition entry on the unit, or the subcause of its fault (R253). -/
def Grammar.move (g : Grammar) (e : Nat) : Except Byte Grammar :=
  let op := e / 2 ^ 30 % 4
  let pushv := e / 2 ^ 16 % 2 ^ 12
  let nxt := e % 2 ^ 12
  if e / 2 ^ 28 % 4 ≠ 0 ∨ e / 2 ^ 12 % 16 ≠ 0 ∨ (op < 2 ∧ g.ns ≤ nxt) ∨ (op = 1 ∧ g.ns ≤ pushv) then .error 2
  else if op = 3 then .error 6
  else if op = 0 then .ok { g with state := BitVec.ofNat 12 nxt }
  else if op = 1 then
    if 8 ≤ g.stack.length then .error 4
    else .ok { g with stack := BitVec.ofNat 12 pushv :: g.stack, state := BitVec.ofNat 12 nxt }
  else
    match g.stack with
    | [] => .error 5
    | x :: r => .ok { g with state := x, stack := r }

def execGmstep (h : CoxH) (a : SReg) (s : State) : Out :=
  gmForm s h [a] fun t g =>
    let tok := (s.reg t a).toNat % 2 ^ 32
    if 512 * g.nch ≤ tok then .next (s.fault t (gmFault 3) 0)
    else
      let va := g.cls + BitVec.ofNat 64 tok
      withChk s t (s.chk t.home .load va 1)
        (let (b, s1) := s.readV t.home .load .l1 va 1
         let cls := natLE b
         if g.ncls ≤ cls then .next (s.fault t (gmFault 2) 0)
         else
           let ea := g.tt + BitVec.ofNat 64 (4 * (g.state.toNat * g.ncls + cls))
           withChk s t (s1.chk t.home .load ea 4)
             (let (e, s2) := s1.readV t.home .load .l1 ea 4
              match g.move (natLE e) with
              | .error n => .next (s.fault t (gmFault n) 0)
              | .ok g' => .next (s2.gmNext t g')))

/-- The mask and FT word of (state, chunk), from the mask cache. -/
def Grammar.lookup (g : Grammar) (chunk : Nat) : Option (BitVec 512 × Word) :=
  match g.cache.get (g.state.toNat % 64) none with
  | some (st, ch, m, f) => if st = g.state ∧ ch = chunk then some (m, f) else none
  | none => none

/-- GMMASK's results: d and p7 (R254). -/
def maskResult (m : BitVec 512) (f : Word) (g : Nat) : Word × Bool :=
  if fieldOf f 0 32 = 1 then (BitVec.ofNat 64 (fieldOf f 32 32), true)
  else (BitVec.ofNat 64 (m.toNat / 2 ^ (64 * g)), false)

def State.gmMaskNext (s : State) (t : Thread) (g : Grammar) (d : SReg) (m : BitVec 512) (f : Word) (grp : Nat) : State :=
  let (v, p7) := maskResult m f grp
  let s1 := s.setCtx t.home { s.ctx t.home with grammar := g }
  (s1.setCox t (((s1.cox t).setReg d v).setP 7 p7)).next t

def execGmmask (h : CoxH) (d a : SReg) (grp : BitVec 3) (s : State) : Out :=
  gmForm s h [d, a] fun t g =>
    let ch := (s.reg t a).toNat
    if g.nch ≤ ch then .next (s.fault t (gmFault 3) 0)
    else
      match g.lookup ch with
      | some (m, f) => .next (s.gmMaskNext t g d m f grp.toNat)
      | none =>
        let ma := g.mt + BitVec.ofNat 64 (64 * (g.state.toNat * g.nch + ch))
        let fa := g.ft + BitVec.ofNat 64 (8 * g.state.toNat)
        withChk s t (s.chkPieces t.home .load (piecesOf ma 64 ++ piecesOf fa 8))
          (let (mb, s1) := s.readV t.home .load .l1 ma 64
           let (fb, s2) := s1.readV t.home .load .l1 fa 8
           let m := BitVec.ofNat 512 (natLE mb)
           let f := wordLE fb
           let g' := { g with cache := g.cache.set (g.state.toNat % 64) (some (g.state, ch, m, f)) }
           .next (s2.gmMaskNext t g' d m f grp.toNat))

/-- What GMSAVE and GMREST write: the state and the depth (R255). -/
def Grammar.position (g : Grammar) : Word := BitVec.ofNat 64 (g.state.toNat + g.stack.length * 2 ^ 16)

def execGmsave (h : CoxH) (d : SReg) (slot : BitVec 4) (s : State) : Out :=
  gmForm s h [d] fun t g =>
    let g' := { g with snaps := g.snaps.set slot.toNat (some (g.state, g.stack)) }
    .next ((s.setReg t d g.position).gmNext t g')

def execGmrest (h : CoxH) (d : SReg) (slot : BitVec 4) (s : State) : Out :=
  gmForm s h [d] fun t g =>
    match g.snaps.get slot.toNat none with
    | none => .next (s.fault t (gmFault 7) 0)
    | some (st, stk) =>
      let g' := { g with state := st, stack := stk }
      .next ((s.setReg t d g'.position).gmNext t g')

end Sys2Proof.Machine
end

