-- ==== Sys2Proof/Machine/Number.lean ====
section
/-! DEFINITION. Machine/Number.lean: the element types, their exact values, rounding and conversion, exact arithmetic, and
the quantisation of blocks (R63 to R74, R79 to R82). Numbers are computed exactly as fractions and narrowed once. -/

namespace Sys2Proof.Machine

/-! ## Exact values -/

/-- The value of a code: not a number, an infinity, or the fraction num / den with a sign (num = 0 is a signed zero). -/
inductive Num where
  | nan
  | inf (neg : Bool)
  | fin (neg : Bool) (num den : Nat)
deriving DecidableEq, Repr

def Num.isNan : Num → Bool
  | .nan => true
  | _ => false

def Num.isInf : Num → Bool
  | .inf _ => true
  | _ => false

def Num.zero (neg : Bool) : Num := .fin neg 0 1

/-- 2^e as a fraction. -/
def pow2Num (e : Int) : Nat := if 0 ≤ e then 2 ^ e.toNat else 1
def pow2Den (e : Int) : Nat := if 0 ≤ e then 1 else 2 ^ (-e).toNat

/-- The magnitude times 2^e. -/
def Num.scale (x : Num) (e : Int) : Num :=
  match x with
  | .fin s n d => .fin s (n * pow2Num e) (d * pow2Den e)
  | x => x

def Num.negate : Num → Num
  | .nan => .nan
  | .inf s => .inf (!s)
  | .fin s n d => .fin (!s) n d

def Num.abs : Num → Num
  | .nan => .nan
  | .inf _ => .inf false
  | .fin _ n d => .fin false n d

/-- The signed numerator. -/
def signed (s : Bool) (n : Nat) : Int := if s then -(n : Int) else n

/-- Exact addition; infinities of two signs give NaN; an exact zero sum is +0, unless both operands are −0 (R158). -/
def Num.add : Num → Num → Num
  | .nan, _ => .nan
  | _, .nan => .nan
  | .inf a, .inf b => if a = b then .inf a else .nan
  | .inf a, _ => .inf a
  | _, .inf b => .inf b
  | .fin s n d, .fin t m e =>
    let x := signed s n * e + signed t m * d
    if x = 0 then .fin (s && t) 0 1 else .fin (decide (x < 0)) x.natAbs (d * e)

/-- Exact multiplication; 0 × Inf gives NaN. -/
def Num.mul : Num → Num → Num
  | .nan, _ => .nan
  | _, .nan => .nan
  | .inf a, .inf b => .inf (a != b)
  | .inf a, .fin t m _ => if m = 0 then .nan else .inf (a != t)
  | .fin s n _, .inf b => if n = 0 then .nan else .inf (s != b)
  | .fin s n d, .fin t m e => .fin (s != t) (n * m) (d * e)

/-- Order of two finite magnitudes or infinities with their signs; −0 equals +0; false when a NaN is there. -/
def Num.lt : Num → Num → Bool
  | .nan, _ => false
  | _, .nan => false
  | .inf a, .inf b => a && !b
  | .inf a, .fin _ _ _ => a
  | .fin _ _ _, .inf b => !b
  | .fin s n d, .fin t m e => decide (signed s n * e < signed t m * d)

def Num.eq : Num → Num → Bool
  | .nan, _ => false
  | _, .nan => false
  | x, y => !x.lt y && !y.lt x

def Num.le (x y : Num) : Bool := x.lt y || x.eq y

def Num.isNeg : Num → Bool
  | .nan => false
  | .inf s => s
  | .fin s _ _ => s

def Num.isZero : Num → Bool
  | .fin _ n _ => n == 0
  | _ => false

/-! ## Rounding -/

/-- Nearest with ties to even, toward zero, stochastic with a 24-bit value (R71, R73, R74). -/
inductive Rnd where
  | rne | rz
  | sr (r : Nat)
deriving DecidableEq, Repr

/-- Whether a magnitude at the fraction f / g, 0 ≤ f < g, between two neighbouring codes goes to the upper one; `odd` says
that the lower code is odd. -/
def Rnd.up (r : Rnd) (odd : Bool) (f g : Nat) : Bool :=
  match r with
  | .rne => decide (g < 2 * f) || (decide (2 * f = g) && odd)
  | .rz => false
  | .sr x => f != 0 && decide (x * g < f * 2 ^ 24)

/-! ## The binary floating-point formats (R65, R66) -/

/-- A binary format: fraction bits, bias, largest finite code, the code of infinity, canonical NaN, sign bit. -/
structure BinFmt where
  m : Nat
  bias : Nat
  top : Nat
  inf : Option Nat
  nan : Nat
  sign : Nat
deriving DecidableEq, Repr

def e4m3 : BinFmt := { m := 3, bias := 7, top := 0x7E, inf := none, nan := 0x7F, sign := 0x80 }
def e5m2 : BinFmt := { m := 2, bias := 15, top := 0x7B, inf := some 0x7C, nan := 0x7E, sign := 0x80 }
def bf16 : BinFmt := { m := 7, bias := 127, top := 0x7F7F, inf := some 0x7F80, nan := 0x7FC0, sign := 0x8000 }
def f16 : BinFmt := { m := 10, bias := 15, top := 0x7BFF, inf := some 0x7C00, nan := 0x7E00, sign := 0x8000 }
def f32 : BinFmt :=
  { m := 23, bias := 127, top := 0x7F7F_FFFF, inf := some 0x7F80_0000, nan := 0x7FC0_0000, sign := 0x8000_0000 }

/-- The exponent of the distance between subnormal values. -/
def BinFmt.qmin (f : BinFmt) : Int := 1 - (f.bias : Int) - f.m

/-- The magnitude of a code without its sign, as units × 2^q. -/
def BinFmt.units (f : BinFmt) (c : Nat) : Nat × Int :=
  let e := c / 2 ^ f.m
  if e = 0 then (c, f.qmin) else (2 ^ f.m + c % 2 ^ f.m, f.qmin + ((e - 1 : Nat) : Int))

/-- The value of a code. -/
def BinFmt.value (f : BinFmt) (c : Nat) : Num :=
  let s := decide (f.sign ≤ c % (2 * f.sign))
  let a := c % f.sign
  if a ≤ f.top then
    let (u, q) := f.units a
    .fin s (u * pow2Num q) (pow2Den q)
  else if f.inf = some a then .inf s
  else .nan

/-- The largest exponent e with 2^e ≤ n / d, for n > 0. -/
def floorLog2 (n d : Nat) : Int :=
  let e : Int := (Nat.log2 n : Int) - Nat.log2 d
  if d * pow2Num e ≤ n * pow2Den e then e else e - 1

/-- The code at or below the magnitude n / d, were the exponent range open above, and the fraction from there to the next
code. -/
def BinFmt.bracket (f : BinFmt) (n d : Nat) : Nat × Nat × Nat :=
  if n = 0 then (0, 0, 1)
  else
    let e := floorLog2 n d
    let q := if f.qmin ≤ e - f.m then e - f.m else f.qmin
    let x := n * pow2Den q
    let g := d * pow2Num q
    ((q - f.qmin).toNat * 2 ^ f.m + x / g, x % g, g)

/-- The code of a rounded magnitude; one past the top is above every finite value. -/
def BinFmt.roundMag (f : BinFmt) (r : Rnd) (n d : Nat) : Nat :=
  let (c, x, g) := f.bracket n d
  if r.up (c % 2 == 1) x g then c + 1 else c

def BinFmt.withSign (f : BinFmt) (s : Bool) (c : Nat) : Nat := if s then f.sign + c else c

/-- The magnitude exceeds the largest finite value. -/
def BinFmt.over (f : BinFmt) (n d : Nat) : Bool :=
  let (u, q) := f.units f.top
  decide (u * pow2Num q * d < n * pow2Den q)

/-- IEEE 754 rounding of an exact value to a format with infinities (R158, R71). -/
def BinFmt.round (f : BinFmt) (r : Rnd) (x : Num) : Nat :=
  match x with
  | .nan => f.nan
  | .inf s => f.withSign s (f.inf.getD f.top)
  | .fin s n d =>
    let c := f.roundMag r n d
    if c ≤ f.top then f.withSign s c
    else f.withSign s (match r with | .rz => f.top | _ => f.inf.getD f.top)

/-! ## DM8 (R68 to R70) -/

/-- The magnitude of the code b, 1 to 127, in units of 2^−6 × 10^−3. -/
def dm8Units (b : Nat) : Nat :=
  let n := Nat.log2 b
  let z := 6 - n
  10 ^ (6 - z) * (2 ^ n + 9 * (b % 2 ^ n)) * 2 ^ (6 - n)

def dm8Value (c : Nat) : Num :=
  let s := decide (128 ≤ c % 256)
  let b := c % 128
  if b = 0 then (if s then .nan else .fin false 0 1) else .fin s (dm8Units b) 64000

/-- The largest code of 1 to `k` whose value is at most n / d; 0 when there is none. -/
def dm8Floor (n d : Nat) : Nat → Nat
  | 0 => 0
  | k + 1 => if dm8Units (k + 1) * d ≤ n * 64000 then k + 1 else dm8Floor n d k

/-- The code of a rounded magnitude of 0.001 to 9,859.375. -/
def dm8Round (r : Rnd) (n d : Nat) : Nat :=
  let c := dm8Floor n d 127
  if c = 127 then 127
  else
    let lo := dm8Units c
    let hi := dm8Units (c + 1)
    if r.up (c % 2 == 1) (n * 64000 - lo * d) ((hi - lo) * d) then c + 1 else c

/-! ## Element types (Table 4.1) -/

/-- The element types by their codes, with the lane integer types. -/
inductive Elt where
  | dm8 | e4m3 | e5m2 | i8 | n8 | bf16 | f16 | f32 | i32
deriving DecidableEq, Repr

def eltOfCode (c : Nat) : Option Elt :=
  match c with
  | 0 => some .dm8
  | 1 => some .e4m3
  | 2 => some .e5m2
  | 3 => some .i8
  | 4 => some .n8
  | 5 => some .bf16
  | 6 => some .f16
  | 7 => some .f32
  | 8 => some .i32
  | _ => none

/-- Bytes of an element. -/
def Elt.bytes : Elt → Nat
  | .dm8 | .e4m3 | .e5m2 | .i8 | .n8 => 1
  | .bf16 | .f16 => 2
  | .f32 | .i32 => 4

def intNum (x : Int) : Num := .fin (decide (x < 0)) x.natAbs 1

/-- The exact value of a code of a type. -/
def Elt.value (t : Elt) (c : Nat) : Num :=
  match t with
  | .dm8 => dm8Value c
  | .e4m3 => Machine.e4m3.value c
  | .e5m2 => Machine.e5m2.value c
  | .i8 => intNum (BitVec.ofNat 8 c).toInt
  | .n8 => .fin false (c % 256) 1
  | .bf16 => Machine.bf16.value c
  | .f16 => Machine.f16.value c
  | .f32 => Machine.f32.value c
  | .i32 => intNum (BitVec.ofNat 32 c).toInt

/-! ## Conversions (R71 to R74, Table 4.4) -/

/-- A rounded integer of magnitude n / d. -/
def roundInt (r : Rnd) (s : Bool) (n d : Nat) : Int :=
  let c := n / d
  signed s (if r.up (c % 2 == 1) (n % d) d then c + 1 else c)

/-- An integer type: its least and greatest values and its width. A .sr input beyond the greatest rounds as the plain
form (R73). The lane's CVS bit follows the last column of Table 4.4, the rounded value, where the text below the table
would set it for each greater unrounded magnitude (DESIGN CHOICE, assumption log 112). -/
def convInt (lo hi : Int) (w : Nat) (r : Rnd) (x : Num) : Nat × Bool :=
  let code := fun (v : Int) => (BitVec.ofInt w v).toNat
  match x with
  | .nan => (0, true)
  | .inf s => (code (if s then lo else hi), true)
  | .fin s n d =>
    let r' := match r with
      | .sr k => if hi.toNat * d < n then .rne else .sr k
      | r => r
    let v := roundInt r' s n d
    if v < lo then (code lo, true) else if hi < v then (code hi, true) else (code v, false)

/-- E4M3 and E5M2: saturation of finite values (Table 4.4). -/
def convF8 (f : BinFmt) (r : Rnd) (x : Num) : Nat × Bool :=
  match x with
  | .nan => (f.nan, false)
  | .inf s => (f.withSign s (f.inf.getD f.top), f.inf.isNone)
  | .fin s n d => if f.over n d then (f.withSign s f.top, true) else (f.withSign s (f.roundMag r n d), false)

/-- BF16 and binary16. -/
def convF16 (f : BinFmt) (r : Rnd) (x : Num) : Nat × Bool :=
  match x with
  | .fin s n d =>
    if f.over n d then
      (match r with
        | .rz => f.withSign s f.top
        | _ => f.round .rne (.fin s n d), true)
    else (f.withSign s (f.roundMag r n d), false)
  | x => (f.round r x, false)

def convDm8 (r : Rnd) (x : Num) : Nat × Bool :=
  match x with
  | .nan => (0x80, true)
  | .inf s => (if s then 0xFF else 0x7F, true)
  | .fin s n d =>
    if n = 0 then (0, false)
    else
      let put := fun (c : Nat) => if s then 128 + c else c
      if n * 1000 < d then (put 1, true)
      else if 631000000 * d < n * 64000 then (put 127, true)
      else (put (dm8Round r n d), false)

/-- The conversion of an exact value to a type: the code, and whether it sets CVS. -/
def Elt.convert (t : Elt) (r : Rnd) (x : Num) : Nat × Bool :=
  match t with
  | .dm8 => convDm8 r x
  | .e4m3 => convF8 Machine.e4m3 r x
  | .e5m2 => convF8 Machine.e5m2 r x
  | .i8 => convInt (-128) 127 8 r x
  | .n8 => convInt 0 255 8 r x
  | .bf16 => convF16 Machine.bf16 r x
  | .f16 => convF16 Machine.f16 r x
  | .f32 => (Machine.f32.round r x, false)
  | .i32 => convInt (-2147483648) 2147483647 32 r x

/-! ## Sums (R172) and amax (R76) -/

/-- The exact sum of some values, with R172's special cases: an exact zero is +0. -/
def exactSum (l : List Num) : Num :=
  if l.any Num.isNan || (l.contains (.inf false) && l.contains (.inf true)) then .nan
  else if l.contains (.inf false) then .inf false
  else if l.contains (.inf true) then .inf true
  else
    match l.foldl Num.add (.fin false 0 1) with
    | .fin _ 0 _ => .fin false 0 1
    | x => x

/-- An amax update of the binary32 register `m` with a candidate's binary32 code (R76). -/
def amaxUpdate (m a : BitVec 32) : BitVec 32 :=
  let x := f32.value m.toNat
  let y := f32.value a.toNat
  if x.isNan || y.isNan then 0x7FC0_0000
  else if x.lt y.abs then a &&& 0x7FFF_FFFF else m

/-! ## Quantised blocks (R79 to R82) -/

/-- The formats of VQNT and CPQ. -/
def qEmax (t : Elt) : Int :=
  match t with
  | .e4m3 => 8
  | .e5m2 => 15
  | .i8 => 6
  | _ => 13

/-- The canonical NaN of a quantised format. -/
def qNan (t : Elt) : Nat :=
  match t with
  | .e4m3 => 0x7F
  | .e5m2 => 0x7E
  | .dm8 => 0x80
  | _ => 0

/-- The largest magnitude of some values, as a fraction. -/
def maxMag (l : List Num) : Nat × Nat :=
  l.foldl (fun b x =>
    match x with
    | .fin _ n d => if b.1 * d < n * b.2 then (n, d) else b
    | _ => b) (0, 1)

/-- A quantised block: scale code, element codes, status (R80). -/
def quantise (t : Elt) (l : List Num) : Nat × List Nat × Nat :=
  if l.any fun x => x.isNan || x.isInf then (0xFF, l.map fun _ => qNan t, 2)
  else
    let (n, d) := maxMag l
    if n = 0 then (0x7F, l.map fun _ => 0, 1)
    else
      let x := floorLog2 n d - qEmax t
      let y := if x < -127 then -127 else if 127 < x then 127 else x
      ((y + 127).toNat, l.map fun v => (t.convert .rne (v.scale (-y))).1, if x = y then 0 else 3)

/-- One dequantised element as binary32 (R82). -/
def dequantise (t : Elt) (code scale : Nat) : Nat :=
  if scale = 255 then f32.nan else f32.round .rne ((t.value code).scale ((scale : Int) - 127))

end Sys2Proof.Machine
end

