-- ==== Sys2Proof/Machine/Special.lean ====
section
/-! DEFINITION. Machine/Special.lean: the special functions of Table 7.4 (R162). Their values are computed as fractions to
about 300 bits; bf16 and binary16 results are the correctly rounded ones, and a binary32 result is one of those that meet the
form's bound, chosen by `Config.specialPick` (DESIGN CHOICE, assumption log 27). -/

namespace Sys2Proof.Machine

/-- The special functions, numbered for `Config.specialPick`. -/
inductive Fun where
  | exp2 | log2 | rcp | rsq | tanh | sigm
deriving DecidableEq, Repr

def Fun.code : Fun → Nat
  | .exp2 => 0
  | .log2 => 1
  | .rcp => 2
  | .rsq => 3
  | .tanh => 4
  | .sigm => 5

/-! ## Fixed-point values with 320 fraction bits -/

def fixOne : Nat := 2 ^ 320

/-- The natural logarithm of 2. -/
def lnTwo : Nat := (List.range 330).foldl (fun s i => s + fixOne / ((i + 1) * 2 ^ (i + 1))) 0

/-- Terms of the exponential series from term `n` on. -/
def expTerms (t : Nat) : Nat → Nat → Nat → Nat → Nat
  | 0, _, _, s => s
  | k + 1, n, x, s =>
    let y := x * t / fixOne / n
    expTerms t k (n + 1) y (s + y)

/-- e^t for 0 ≤ t < ln 2. -/
def fixExp (t : Nat) : Nat := expTerms t 100 1 fixOne fixOne

/-- Terms of the series of the inverse hyperbolic tangent. -/
def atanhTerms (z2 : Nat) : Nat → Nat → Nat → Nat → Nat
  | 0, _, _, s => s
  | k + 1, n, x, s => atanhTerms z2 k (n + 2) (x * z2 / fixOne) (s + x / n)

/-- ln m for 1 ≤ m < 2, m = n / d. -/
def fixLn (n d : Nat) : Nat :=
  let z := (n - d) * fixOne / (n + d)
  2 * atanhTerms (z * z / fixOne) 110 1 z 0

/-- The integer square root, `k` bits of it. -/
def isqrt (x : Nat) : Nat → Nat → Nat
  | 0, r => r
  | k + 1, r => let r' := r + 2 ^ k; if r' * r' ≤ x then isqrt x k r' else isqrt x k r

/-- e^(−n/d) as a fraction; beyond an argument of 256 a smaller positive value stands for it. -/
def expNeg (n d : Nat) : Nat × Nat :=
  if 256 * d ≤ n then (1, 2 ^ 400)
  else
    let t := n * fixOne / d
    (fixOne, fixExp (t % lnTwo) * 2 ^ (t / lnTwo))

/-! ## The exact results -/

/-- 2^x for x of sign `s` and magnitude n / d. -/
def exp2Num (s : Bool) (n d : Nat) : Num :=
  if 2000 * d ≤ n then (if s then .fin false 1 (2 ^ 2000) else .fin false (2 ^ 2000) 1)
  else
    let x := signed s n
    let k := Int.fdiv x d
    let f := (x - k * d).toNat
    (Num.fin false (if f = 0 then fixOne else fixExp (f * lnTwo / d)) fixOne).scale k

/-- log2 x for x = n / d > 0. -/
def log2Num (n d : Nat) : Num :=
  let e := floorLog2 n d
  let l := fixLn (n * pow2Den e) (d * pow2Num e)
  Num.add (intNum e) (.fin false l lnTwo)

/-- 1 / √x for x = n / d > 0. -/
def rsqNum (n d : Nat) : Num :=
  let r := isqrt (d * 2 ^ 640 / n) 512 0
  if r * r * n = d * 2 ^ 640 then .fin false r (2 ^ 320) else .fin false (2 * r + 1) (2 ^ 321)

def tanhNum (n d : Nat) : Num :=
  let (a, b) := expNeg (2 * n) d
  .fin false (b - a) (b + a)

def sigmNum (s : Bool) (n d : Nat) : Num :=
  let (a, b) := expNeg n d
  .fin false (if s then a else b) (a + b)

/-- The results that Table 7.4 fixes, for an input that is not NaN; none elsewhere. VEXP2.f32 of an integer whose power of two
is no value of FP32 gives that power rounded to nearest even (DESIGN CHOICE, assumption log 27). -/
def Fun.fixed (f : Fun) (x : Num) : Option Num :=
  match f, x with
  | .exp2, .inf s => some (if s then .zero false else .inf false)
  | .exp2, .fin s n d =>
    if n % d = 0 then some ((Num.fin false 1 1).scale (signed s (Nat.min (n / d) 2000))) else none
  | .log2, .inf s => some (if s then .nan else .inf false)
  | .log2, .fin s n d =>
    if n = 0 then some (.inf true)
    else if s then some .nan
    else
      let e := floorLog2 n d
      if n * pow2Den e = d * pow2Num e then some (intNum e) else none
  | .rcp, .inf s => some (.zero s)
  | .rcp, .fin s n _ => if n = 0 then some (.inf s) else none
  | .rsq, .inf s => some (if s then .nan else .zero false)
  | .rsq, .fin s n _ => if n = 0 then some (.inf s) else if s then some .nan else none
  | .tanh, .inf s => some (.fin s 1 1)
  | .tanh, .fin s n _ => if n = 0 then some (.zero s) else none
  | .sigm, .inf s => some (if s then .zero false else .fin false 1 1)
  | .sigm, .fin _ n _ => if n = 0 then some (.fin false 1 2) else none
  | _, .nan => some .nan

/-- The exact result for a finite input that has no fixed result. -/
def Fun.exact (f : Fun) (s : Bool) (n d : Nat) : Num :=
  match f with
  | .exp2 => exp2Num s n d
  | .log2 => log2Num n d
  | .rcp => .fin s d n
  | .rsq => rsqNum n d
  | .tanh => if s then (tanhNum n d).negate else tanhNum n d
  | .sigm => sigmNum s n d

/-! ## Results within a bound (binary32) -/

/-- A code as a signed number in the order of the values. -/
def floorOrd (s : Bool) (n d : Nat) : Int :=
  let (c, x, _) := f32.bracket n d
  if s then -((if x = 0 then c else c + 1 : Nat) : Int) else c

def ceilOrd (s : Bool) (n d : Nat) : Int :=
  let (c, x, _) := f32.bracket n d
  if s then -(c : Int) else ((if x = 0 then c else c + 1 : Nat) : Int)

def ordCode (z : Bool) (i : Int) : Nat := f32.withSign (decide (i < 0) || (i == 0 && z)) i.natAbs

/-- The distance of R162 at the magnitude n / d, times `k`. -/
def ulps (k n d : Nat) : Num := (Num.fin false k 1).scale (f32.units (f32.bracket n d).1).2

/-- The bound of Table 7.4 at the input n / d and the result m / e. -/
def Fun.bound (f : Fun) (n d m e : Nat) : Num :=
  let u := ulps (match f with | .exp2 | .rcp => 1 | _ => 2) m e
  if f = .log2 ∧ d ≤ 2 * n ∧ n < 2 * d then
    (let b := (Num.fin false 1 1).scale (-23)
     if u.lt b then b else u)
  else u

/-- The least and greatest codes, in order, that a result may have whatever its bound: [−1, 1] for VTANH, [0, 1] for
VSIGM, finite values otherwise; VEXP2 and VRSQ have no negative result. -/
def Fun.range (f : Fun) : Int × Int :=
  match f with
  | .tanh => (-0x3F80_0000, 0x3F80_0000)
  | .sigm => (0, 0x3F80_0000)
  | .exp2 | .rsq => (0, 0x7F7F_FFFF)
  | _ => (-0x7F7F_FFFF, 0x7F7F_FFFF)

def clampInt (lo hi x : Int) : Int := if x < lo then lo else if hi < x then hi else x

/-- The binary32 result for a finite input: one of the codes within the bound of the exact result y. -/
def Fun.pick32 (f : Fun) (bits : Nat) (n d : Nat) (y : Num) : Nat :=
  match y with
  | .fin s m e =>
    if f32.over m e then f32.withSign s 0x7F80_0000
    else
      let b := f.bound n d m e
      let at_ := fun (g : Bool → Nat → Nat → Int) (v : Num) =>
        match v with
        | .fin t p q => clampInt f.range.1 f.range.2 (g t p q)
        | _ => 0
      let lo := at_ ceilOrd (y.add b.negate)
      let hi := at_ floorOrd (y.add b)
      ordCode s (lo + ((Config.specialPick f.code (BitVec.ofNat 32 bits) % ((hi - lo).toNat + 1) : Nat) : Int))
  | y => f32.round .rne y

/-- A special function of a code of a binary format (bf16, binary16 or binary32). VTANH is odd (Table 7.4). -/
def Fun.apply (f : Fun) (t : BinFmt) (code : Nat) : Nat :=
  let x := t.value code
  match f.fixed x with
  | some y => t.round .rne y
  | none =>
    match x with
    | .fin s n d =>
      if t = f32 then
        (if f = .tanh then f32.withSign s (f.pick32 (code % f32.sign) n d (f.exact false n d))
         else f.pick32 code n d (f.exact s n d))
      else t.round .rne (f.exact s n d)
    | _ => t.nan

end Sys2Proof.Machine
end

