-- ==== Sys2Proof/Machine/Directory.lean ====
section
/-! DEFINITION. Machine/Directory.lean: the entries of the plane directory, what changes a binding, and forced evictions
(R85 to R88, R97, R111, R134, R364). -/

namespace Sys2Proof.Machine

/-! ## Fields of an entry (Table 5.1) -/

def eHandle (e : Word) : Nat := fieldOf e 48 16
def ePart (e : Word) : Nat := fieldOf e 42 6
def ePin (e : Word) : Nat := fieldOf e 32 8
def eOwner (e : Word) : Nat := fieldOf e 28 4
def eFmt (e : Word) : Nat := fieldOf e 20 4
def eKind (e : Word) : Nat := fieldOf e 18 2
def eSp (e : Word) : Bool := fieldOf e 17 1 == 1
def eState (e : Word) : Nat := fieldOf e 13 3

def stEmpty : Nat := 0
def stLoading : Nat := 1
def stFull : Nat := 2
def stHalf : Nat := 3
def stLive : Nat := 4
def stCovered : Nat := 5

def mkEntry (handle part pin owner fmt kind : Nat) (sp : Bool) (st : Nat) : Word :=
  BitVec.ofNat 64 (handle % 2 ^ 16 * 2 ^ 48 + part % 64 * 2 ^ 42 + pin % 256 * 2 ^ 32 + owner % 16 * 2 ^ 28 +
    fmt % 16 * 2 ^ 20 + kind % 4 * 2 ^ 18 + (if sp then 2 ^ 17 else 0) + st % 8 * 2 ^ 13)

/-- The number of slots that a bound entry covers: an 8-bit plane 1, a 16-bit plane 2, a gradient plane 4 (R83). -/
def eSlots (e : Word) : Nat := if eKind e = 1 then 2 else if eKind e = 2 then 4 else 1

/-- A live entry with a handle bound: LIVE, or the HALF of a 16-bit plane (DEDUCED, assumption log 58). -/
def eBound (e : Word) : Bool := eState e == stLive || eState e == stHalf

/-- The live entry of partition `p` that `h` names, LIVE or HALF (R87, R135). -/
def Crew.find (c : Crew) (p h : Nat) : Option Nat :=
  (List.range 16).find? fun j => eBound (c.entry j) && eHandle (c.entry j) == h && ePart (c.entry j) == p

/-- Entry j and the slots it covers become EMPTY (R86) (DEDUCED, assumption log 58). -/
def Crew.empty (c : Crew) (j : Nat) : Crew :=
  (List.range (eSlots (c.entry j))).foldl (fun x i => x.setEntry (j + i) emptyEntry) c

/-! ## Replay windows (R111) -/

/-- The open window ends; a replay of it that is in progress goes on. -/
def Ctx.closeWindow (c : Ctx) : Ctx := { c with window := none }

/-- A row of the window met slot j, or selected handle h; a null row does neither. -/
def Window.met (w : Window) (js hs : List Nat) : Bool :=
  w.kept.any fun k => match k.slot with | some j => js.contains j || hs.contains k.fetch.handle.toNat | none => false

/-- The bindings of slots `js` of crew `c`, or of handles `hs`, each with its partition, have changed: the windows with
a row that met one of the slots, or selected one of the handles of its own partition, close (R91, R111). -/
def State.rebound (s : State) (c : Nat) (js : List Nat) (hs : List (Nat × Nat)) : State :=
  (List.range 16).foldl (fun x i =>
    match (x.ctx (16 * c + i)).window with
    | some w =>
        if w.met js ((hs.filter fun y => y.1 == x.partOf (16 * c + i)).map (·.2))
        then x.setCtx (16 * c + i) (x.ctx (16 * c + i)).closeWindow else x
    | none => x) s

/-! ## Forced evictions (R134, R364) -/

/-- The entries that a forced eviction of (part, handle) makes EMPTY: the LIVE one under the handle; handle 0xFFFF names every
entry of the partition, HALF ones too (Table 5.2, R364) (DEDUCED, assumption log 58). -/
def Crew.victims (c : Crew) (part handle : Nat) : List Nat :=
  (List.range 16).filter fun j =>
    ePart (c.entry j) == part &&
      (if handle = 0xFFFF then eBound (c.entry j) else eState (c.entry j) == stLive && eHandle (c.entry j) == handle)

/-- The entry port of crew c admits an entry now (R89). -/
def Crew.portOpen (c : Crew) (now : Nat) : Bool := decide (c.portFree ≤ now)

/-- The evicted entries, without the shadow. -/
def State.evict (s : State) (c : Nat) (js : List Nat) : State :=
  let x := s.crew c
  let hs := js.map fun j => (ePart (x.entry j), eHandle (x.entry j))
  (s.setCrew c (js.foldl Crew.empty x)).rebound c js hs

/-- A forced eviction enters: the result says whether anything was evicted. PIN is ignored and no lease ends. -/
def State.forcedEvict (s : State) (c part handle : Nat) : Bool × State :=
  let x := s.crew c
  let js := x.victims part handle
  let shadow := handle == 0xFFFF && eState (x.entry 16) != stEmpty && ePart (x.entry 16) == part
  let s1 := s.evict c js
  let y := s1.crew c
  let y1 := if shadow then y.setEntry 16 emptyEntry else y
  (!js.isEmpty || shadow, s1.setCrew c { y1 with portFree := s.crewNow c + 1 })

/-- A write of `v` to FEVc performs in the eviction's entry cycle. -/
def State.fevEnter (s : State) (c : Nat) (v : Word) : State :=
  let (found, s1) := s.forcedEvict c (fieldOf v 16 6) (fieldOf v 0 16)
  let y := s1.crew c
  s1.setCrew c
    { y with fev := BitVec.ofNat 64 ((if found then 1 else 2) * 2 ^ 62 + fieldOf v 16 6 * 2 ^ 16 + fieldOf v 0 16) }

/-- The order of the requests of one cycle: by service core, and the device's own last (R134). -/
def FevFor.rank : FevFor → Nat
  | .write n _ => n
  | .error j => 8 + j

/-- Request a goes before request b: earlier requests first (R134). -/
def FevReq.before (a b : FevReq) : Bool := decide (a.at_ < b.at_ ∨ (a.at_ = b.at_ ∧ a.why.rank < b.why.rank))

/-- The requested eviction that enters in the crew's next admitting cycle: the first of those requested before this cycle. -/
def Crew.fevDue (x : Crew) (now : Nat) : Option FevReq :=
  let l := x.fevs.filter fun r => decide (r.at_ < now)
  l.find? fun r => l.all fun q => q == r || r.before q

/-- A requested eviction takes this cycle, ahead of the lease holder's next entry (R94, R134). -/
def State.fevTakes (s : State) (c : Nat) : Bool :=
  (s.crew c).portOpen (s.crewNow c) && ((s.crew c).fevDue (s.crewNow c)).isSome

/-- The eviction of entry j of crew c for an error in its plane enters; 16 is the shadow (R134, Table 16.10). -/
def State.errorEnter (s : State) (c j : Nat) : State :=
  let s1 :=
    if j = 16 then s.setCrew c { (s.crew c).setEntry 16 emptyEntry with shHi := false }
    else if eBound ((s.crew c).entry j) then s.evict c [j] else s
  s1.setCrew c { s1.crew c with portFree := s.crewNow c + 1 }

/-- The eviction that request r asks enters, and r is pending no more. -/
def State.fevAct (s : State) (c : Nat) (r : FevReq) : State :=
  let s1 := match r.why with
    | .write _ v => s.fevEnter c v
    | .error j => s.errorEnter c j
  let y := s1.crew c
  s1.setCrew c { y with fevs := y.fevs.erase r }

/-- The eviction that is due enters; the WRSYS that has waited for it performs in that cycle (R364). -/
def State.fevNext (s : State) (c : Nat) : State :=
  match (s.crew c).fevDue (s.crewNow c) with
  | some r =>
    if (s.crew c).portOpen (s.crewNow c) then
      let s1 := s.fevAct c r
      match r.why with
      | .write n _ => s1.next (.svc n)
      | .error _ => s1
    else s
  | none => s

/-- A cycle does not pass before the evictions that are due in it have entered. -/
def State.fevAll (s : State) : State := (List.range 64).foldl State.fevNext s

/-- WRSYS to FEVc by service core n: it requests the eviction, and performs in the eviction's entry cycle; `false` while
it stalls (R364). A trap that the core takes meanwhile withdraws the request, since the word has not performed
(State.trap). -/
def State.fevWrite (s : State) (n c : Nat) (v : Word) : Bool × State :=
  let x := s.crew c
  match x.fevs.find? fun r => r.why == .write n v with
  | none => (false, s.setCrew c { x with fevs := x.fevs ++ [{ at_ := s.crewNow c, why := .write n v }] })
  | some r =>
    if x.portOpen (s.crewNow c) && x.fevDue (s.crewNow c) == some r then (true, s.fevAct c r) else (false, s)

/-- Event FORCED_EVICTION: the eviction that a write of `v` to FEVc has requested enters, in a cycle in which the port admits
an entry. Without a pending request the event is request and entry in one. -/
def execForcedEviction (c : Nat) (v : Word) (s : State) : Out :=
  if ¬ (s.crew c).portOpen (s.crewNow c) then .next s
  else
    match (s.crew c).fevDue (s.crewNow c) with
    | some r =>
      match r.why with
      | .write _ w => .next (if w = v then s.fevNext c else s)
      | .error _ => .next s
    | none => .next (if (s.crew c).fevs.isEmpty then s.fevEnter c v else s)

end Sys2Proof.Machine
end

