-- ==== Sys2Proof/Machine/VecOps.lean ====
section
/-! DEFINITION. Machine/VecOps.lean: lanes, masks and rows of the vector stream, its operand specifiers, and the wrapper of
its words (R24, R52 to R54, R60, R62, R150 to R155, R188). -/

namespace Sys2Proof.Machine

/-! ## Lanes and containers (R150) -/

/-- ACT.W16 of a job context. -/
def State.w16 (s : State) (j : Nat) : Bool := (s.ctx j).act.getLsbD 0

/-- The number of lanes, and the bits of a container. -/
def lanesOf (w16 : Bool) : Nat := if w16 then 512 else 256
def widthOf (w16 : Bool) : Nat := if w16 then 16 else 32

/-- Element i of `w` bits of a row. -/
def elem (w : Nat) (x : Row) (i : Nat) : Nat := x.toNat / 2 ^ (w * i) % 2 ^ w

/-- The first `n` elements of `w` bits of a row. -/
def elems (w n : Nat) (x : Row) : List Nat := (List.range n).map (elem w x)

/-- The row of some elements of `w` bits, lowest first; what they do not fill is zero. -/
def rowOf (w : Nat) (l : List Nat) : Row := BitVec.ofNat 8192 (l.foldr (fun e a => e % 2 ^ w + a * 2 ^ w) 0)

/-- Every container holds the low bits of `v`. -/
def broadcast (w16 : Bool) (v : Nat) : Row := rowOf (widthOf w16) (List.replicate (lanesOf w16) v)

/-- All ones in each container whose mask bit is 1. -/
def maskRow (w16 : Bool) (m : Mask) : Row :=
  rowOf (widthOf w16) ((List.range (lanesOf w16)).map fun l => if m.getLsbD l then 2 ^ widthOf w16 - 1 else 0)

/-- The containers of `new` whose mask bit is 1, and those of `old` elsewhere (R154). -/
def mergeRow (w16 : Bool) (m : Mask) (new old : Row) : Row :=
  let r := maskRow w16 m
  (new &&& r) ||| (old &&& ~~~ r)

/-- Bit l < L of a mask where `f l` holds. -/
def maskOf (n : Nat) (f : Nat → Bool) : Mask :=
  BitVec.ofNat 512 (((List.range n).map f).foldr (fun b a => (if b then 1 else 0) + 2 * a) 0)

/-- Bits 0 to L − 1. -/
def laneBits (w16 : Bool) : Mask := BitVec.ofNat 512 (2 ^ lanesOf w16 - 1)

/-! ## Masks (R150) -/

def Vec.k (x : Vec) (i : Nat) : Mask := if i = 0 then BitVec.allOnes 512 else x.masks.get i 0

def Vec.setK (x : Vec) (i : Nat) (m : Mask) : Vec := if i = 0 then x else { x with masks := x.masks.set i m }

/-- The mask that a PRED field names: k[2:0], inverted by bit 3 (Table 3.1). -/
def Vec.pred (x : Vec) (p : BitVec 4) : Mask := if p.getLsbD 3 then ~~~ x.k (p.toNat % 8) else x.k (p.toNat % 8)

/-- A mask register takes the bits of `v` that `write` selects. -/
def State.putMask (s : State) (j i : Nat) (write v : Mask) : State :=
  let x := s.vec j
  s.setVec j (x.setK i ((v &&& write) ||| (x.k i &&& ~~~ write)))

/-! ## Operand specifiers (Table 3.5) -/

/-- The window's rotation: the sum of index times step over the open levels (R188). -/
def State.rotation (s : State) (j : Nat) : Int :=
  (openLevels (s.vec j).frames).foldl (fun a l => a + l.win * l.idx) 0

/-- The row of the job's run that specifier 0x000 to 0x0FF names. -/
def State.vrow (s : State) (j : Nat) (x : Spec) : Int := (x.toNat : Int) + s.rotation j

def Spec.isV (x : Spec) : Bool := x.toNat < 0x100
/-- Directions that Table 3.5 allows. -/
def Spec.readable (x : Spec) : Bool := !(Spec.isSq x || Spec.isRq x)
def Spec.writable (x : Spec) : Bool := !(Spec.isLq x || Spec.isCqv x)

/-- A v-register inside the job's run after rotation (R24, R188). -/
def State.inRun (s : State) (j : Nat) (x : Spec) : Bool :=
  !Spec.isV x || decide (0 ≤ s.vrow j x ∧ s.vrow j x < (s.ctx j).accRows)

/-- The row that a source specifier reads. -/
def State.srcRow (s : State) (j : Nat) (x : Spec) : Row :=
  if Spec.isV x then s.row j (s.vrow j x).toNat
  else if Spec.isLq x then
    match (s.ctx j).lq.get (Spec.lq x) [] with
    | some r :: _ => r
    | _ => 0
  else if Spec.isCqv x then
    match (s.ctx j).headCall true with
    | some c => broadcast (s.w16 j) c.payload.toNat
    | none => 0
  else if x.toNat = 0x10C then rowOf (widthOf (s.w16 j)) (List.range (lanesOf (s.w16 j)))
  else 0

/-- The scalar that a form reads from a source (R154). -/
def State.srcScalar (s : State) (j : Nat) (x : Spec) : Nat :=
  if Spec.isCqv x then
    match (s.ctx j).headCall true with
    | some c => c.payload.toNat % 2 ^ 32
    | none => 0
  else (s.srcRow j x).toNat % 2 ^ 32

/-! ## The wrapper of a VEC word -/

/-- What Tables 7.2 and 7.3 say of a form: the lane widths in which it is legal, its operands, and whether a lane's result
depends on the sources of other lanes. -/
structure VForm where
  at32 : Bool
  at16 : Bool
  srcs : List Spec
  dst : Option Spec
  cross : Bool
deriving DecidableEq, Repr

def VForm.both (srcs : List Spec) (dst : Option Spec) : VForm :=
  { at32 := true, at16 := true, srcs := srcs, dst := dst, cross := false }

/-- A form of an element type of 32 or 16 bits. -/
def VForm.typed (w16 : Bool) (srcs : List Spec) (dst : Option Spec) : VForm :=
  { at32 := !w16, at16 := w16, srcs := srcs, dst := dst, cross := false }

def VForm.across (f : VForm) : VForm := { f with cross := true }

/-- Class 1: the lane width and the run (R153, R24). -/
def State.vecOk1 (s : State) (f : VForm) (j : Nat) : Bool :=
  (if s.w16 j then f.at16 else f.at32) && (f.srcs ++ f.dst.toList).all (s.inRun j)

/-- Class 2: the directions. -/
def VForm.ok2 (f : VForm) : Bool := f.srcs.all Spec.readable && f.dst.all Spec.writable

/-- Class 2: a `cqv` operand needs a SCAL call (R53). -/
def State.vecHead (s : State) (f : VForm) (j : Nat) : Bool :=
  !f.srcs.any Spec.isCqv ||
    (match (s.ctx j).headCall true with
      | some c => c.ty == .scal
      | none => true)

/-- Some queue that the word reads is empty, or the one that it pushes is full (R53, Table 8.9). -/
def State.vecStall (s : State) (f : VForm) (j : Nat) : Bool := f.srcs.any (s.ctx j).srcStall || f.dst.any (s.ctx j).dstStall

/-- A lane read of a named row stalls while the window replays (R112). -/
def State.replayStall (s : State) (f : VForm) (j : Nat) : Bool :=
  (s.ctx j).redoing.any fun w =>
    w.zeroed && f.srcs.any fun x =>
      Spec.isV x && decide ((w.first : Int) ≤ s.vrow j x ∧ s.vrow j x < ((w.first + w.count : Nat) : Int))

/-- Some lane is unmasked and what the word reads is poisoned: the head of a queue, or an element, of an unmasked lane or of
any lane for a form across lanes (R389, R62) (DEDUCED, assumption log 63). -/
def State.vecPoison (s : State) (f : VForm) (j : Nat) (m : Mask) : Bool :=
  m &&& laneBits (s.w16 j) != 0 &&
    (f.srcs.any (s.srcPoisoned j) || s.poison.any fun pc => f.srcs.any fun x =>
      let base := tilePiece (coreOf j) ((s.ctx j).accBase + (s.vrow j x).toNat) 0
      Spec.isV x && decide (base ≤ pc ∧ pc < base + 256) &&
        (f.cross || (if s.w16 j then m.getLsbD (2 * (pc - base)) || m.getLsbD (2 * (pc - base) + 1)
          else m.getLsbD (pc - base))))

/-- A VEC word other than VLOOP, VARM, VMSK and JOIN; `extra` is a class 1 check of the form's own. -/
def vecForm (s : State) (h : LaneH) (f : VForm) (extra : Nat → Bool) (body : Nat → Out) : Out :=
  laneForm s true h (fun j => s.vecOk1 f j && extra j) (fun _ => f.ok2) (s.vecHead f) (s.vecStall f) fun j =>
    if s.replayStall f j then .next s
    else if s.vecPoison f j ((s.vec j).pred h.pred) then .next (s.fault (.vec j) poisonCause 0)
    else body j

/-! ## Issue: pops, the result, the next word -/

/-- Each lq queue that some operand pops is popped once (R53). -/
def Ctx.popLq (c : Ctx) (srcs : List Spec) : Ctx :=
  (List.range 4).foldl (fun x q =>
    if srcs.any (fun y => Spec.isPop y && Spec.lq y == q) then
      { x with
        lq := x.lq.set q ((x.lq.get q []).drop 1)
        lqLines := x.lqLines.set q ((x.lqLines.get q []).drop 1) }.bumpPop (2 + q)
    else x) c

def State.vecPops (s : State) (f : VForm) (j : Nat) : State :=
  let c := (s.ctx j).popLq f.srcs
  s.setCtx j (if f.srcs.any Spec.isCqv then c.popCalls true 1 else c)

/-- The 32-bit elements of a row that a masked write fills whole. -/
def wholeElt (w16 : Bool) (m : Mask) (e : Nat) : Bool :=
  if w16 then m.getLsbD (2 * e) && m.getLsbD (2 * e + 1) else m.getLsbD e

/-- A lane write to a row of the open window closes it (R111). -/
def Ctx.laneWrite (c : Ctx) (r : Nat) : Ctx :=
  match c.window with
  | some w => if w.first ≤ r ∧ r < w.first + w.count then c.closeWindow else c
  | none => c

/-- Writes or pushes the result `x` of a word under mask `m`; `width` is the width of element 0 for rq (R154, R155). -/
def State.vecPut (s : State) (j : Nat) (m : Mask) (d : Spec) (width : Nat) (x : Row) : State :=
  let w := s.w16 j
  if Spec.isV d then
    let r := (s.vrow j d).toNat
    let base := tilePiece (coreOf j) ((s.ctx j).accBase + r) 0
    let s1 := s.setRow j r (mergeRow w m x (s.row j r))
    let s2 := { s1 with poison := s1.poison.filter fun pc => !(base ≤ pc && pc < base + 256 && wholeElt w m (pc - base)) }
    if m &&& laneBits w = 0 then s2 else s2.setCtx j ((s2.ctx j).laneWrite r)
  else if Spec.isSq d then
    let c := s.ctx j
    let q := d.toNat % 2
    s.setCtx j ({ c with sq := c.sq.set q (c.sq.get q [] ++ [mergeRow w m x 0]) }.bumpPush (6 + q))
  else if Spec.isRq d then
    let c := s.ctx j
    let v : Word := if m.getLsbD 0 then BitVec.ofNat 64 (x.toNat % 2 ^ width) else 0
    s.setCtx j ({ c with rq := c.rq ++ [v] }.bumpPush 8)
  else s

/-- The word issues: its pops, then its result `x`, then the next word. -/
def State.vecEnd (s : State) (j : Nat) (h : LaneH) (f : VForm) (width : Nat) (x : Row) : State :=
  let s1 := s.vecPops f j
  (match f.dst with
    | some d => s1.vecPut j ((s1.vec j).pred h.pred) d width x
    | none => s1).laneNext (.vec j)

/-- A form that computes each container from the same containers of its sources: `op` takes their values in order. -/
def vecLanes (s : State) (h : LaneH) (f : VForm) (op : Bool → List Nat → Nat) : Out :=
  vecForm s h f (fun _ => true) fun j =>
    let w := s.w16 j
    let rows := f.srcs.map (s.srcRow j)
    let x := rowOf (widthOf w) ((List.range (lanesOf w)).map fun l => op w (rows.map fun r => elem (widthOf w) r l))
    .next (s.vecEnd j h f (widthOf w) x)

/-- A form whose whole result row depends on the whole rows of its sources. -/
def vecRow (s : State) (h : LaneH) (f : VForm) (width : Bool → Nat) (op : Nat → Bool → List Row → Row) : Out :=
  vecForm s h f (fun _ => true) fun j =>
    .next (s.vecEnd j h f (width (s.w16 j)) (op j (s.w16 j) (f.srcs.map (s.srcRow j))))

/-- A form that writes one value to every container. -/
def vecSpread (s : State) (h : LaneH) (f : VForm) (op : Nat → Bool → List Row → Nat) : Out :=
  vecRow s h f widthOf fun j w rows => broadcast w (op j w rows)

end Sys2Proof.Machine
end

