-- ==== Sys2Proof/Machine/VecArith.lean ====
section
/-! DEFINITION. Machine/VecArith.lean: the arithmetic, special, logic, shift and compare forms of the vector stream
(R158 to R165). -/

namespace Sys2Proof.Machine

/-! ## Types -/

/-- The binary format of a float type, or the width and saturation of an integer type. -/
inductive LaneTy where
  | float (f : BinFmt)
  | int (w : Nat) (sat : Bool)
  | nat (w : Nat)
deriving DecidableEq, Repr

def arTy : ArTy → LaneTy
  | .f32 => .float f32
  | .bf16 => .float bf16
  | .f16 => .float f16
  | .i32 => .int 32 false
  | .i32s => .int 32 true
  | .i16 => .int 16 false
  | .i16s => .int 16 true

def mmTy : MmTy → LaneTy
  | .f32 => .float f32
  | .bf16 => .float bf16
  | .f16 => .float f16
  | .i32 => .int 32 false
  | .i16 => .int 16 false
  | .n32 => .nat 32

def flTy : FlTy → BinFmt
  | .f32 => f32
  | .bf16 => bf16
  | .f16 => f16

/-- The type's elements are 16 bits wide (Table 7.2). -/
def LaneTy.w16 : LaneTy → Bool
  | .float f => f != f32
  | .int w _ => w == 16
  | .nat w => w == 16

/-! ## Scalar operations on codes -/

/-- The signed integer of a code. -/
def sint (w c : Nat) : Int := if c % 2 ^ w < 2 ^ (w - 1) then (c % 2 ^ w : Nat) else (c % 2 ^ w : Nat) - (2 ^ w : Nat)

/-- An exact integer result as a code: modulo 2^w, or saturated (R159). -/
def intResult (w : Nat) (sat : Bool) (x : Int) : Nat :=
  let lo : Int := -(2 ^ (w - 1) : Nat)
  let hi : Int := (2 ^ (w - 1) : Nat) - 1
  let y := if sat then (if x < lo then lo else if hi < x then hi else x) else x
  (Int.emod y (2 ^ w : Nat)).toNat

def laneAdd (t : LaneTy) (a b : Nat) : Nat :=
  match t with
  | .float f => f.round .rne ((f.value a).add (f.value b))
  | .int w sat => intResult w sat (sint w a + sint w b)
  | .nat w => (a + b) % 2 ^ w

def laneSub (t : LaneTy) (a b : Nat) : Nat :=
  match t with
  | .float f => f.round .rne ((f.value a).add (f.value b).negate)
  | .int w sat => intResult w sat (sint w a - sint w b)
  | .nat w => (a + 2 ^ w - b % 2 ^ w) % 2 ^ w

def laneMul (t : LaneTy) (a b : Nat) : Nat :=
  match t with
  | .float f => f.round .rne ((f.value a).mul (f.value b))
  | .int w sat => intResult w sat (sint w a * sint w b)
  | .nat w => a * b % 2 ^ w

/-- One rounding of the exact a × b + c (R158). -/
def laneFma (f : BinFmt) (a b c : Nat) : Nat := f.round .rne (((f.value a).mul (f.value b)).add (f.value c))

/-- Strict order of numbers with −0 below +0 (R160, R173). -/
def numBelow (x y : Num) : Bool := x.lt y || (x.isZero && y.isZero && x.isNeg && !y.isNeg)

/-- The smaller or the larger operand; a single NaN is passed over (R160). -/
def laneMinMax (max : Bool) (t : LaneTy) (a b : Nat) : Nat :=
  match t with
  | .float f =>
    let x := f.value a
    let y := f.value b
    if x.isNan then (if y.isNan then f.nan else b)
    else if y.isNan then a
    else if numBelow x y then (if max then b else a)
    else if max then a else b
  | .int w _ => if sint w a < sint w b then (if max then b else a) else if max then a else b
  | .nat _ => if a < b then (if max then b else a) else if max then a else b

/-- Clearing or inverting the sign (R161). -/
def laneAbs (t : LaneTy) (a : Nat) : Nat :=
  match t with
  | .float f => if (f.value a).isNan then f.nan else a % f.sign
  | .int w sat => intResult w sat (Int.natAbs (sint w a))
  | .nat w => a % 2 ^ w

def laneNeg (t : LaneTy) (a : Nat) : Nat :=
  match t with
  | .float f => if (f.value a).isNan then f.nan else if a % (2 * f.sign) < f.sign then a + f.sign else a - f.sign
  | .int w sat => intResult w sat (-sint w a)
  | .nat w => (2 ^ w - a % 2 ^ w) % 2 ^ w

def intHolds (cc : VecCC) (lt eq : Bool) : Bool :=
  match cc with
  | .eq => eq
  | .ne => !eq
  | .lt => lt
  | .le => lt || eq
  | .gt => !lt && !eq
  | .ge => !lt

/-- A comparison; with a NaN only `ne` holds (R165). -/
def laneCmp (cc : VecCC) (t : LaneTy) (a b : Nat) : Bool :=
  match t with
  | .float f =>
    let x := f.value a
    let y := f.value b
    if x.isNan || y.isNan then cc == .ne else intHolds cc (x.lt y) (x.eq y)
  | .int w _ => intHolds cc (decide (sint w a < sint w b)) (sint w a == sint w b)
  | .nat _ => intHolds cc (decide (a < b)) (a == b)

/-- Shifts by the unsigned count in b (R164). -/
def laneShl (w a c : Nat) : Nat := if w ≤ c then 0 else a * 2 ^ c % 2 ^ w

def laneShr (t : LaneTy) (a c : Nat) : Nat :=
  match t with
  | .nat w => if w ≤ c then 0 else a / 2 ^ c
  | .int w _ => (Int.emod (Int.fdiv (sint w a) (2 ^ Nat.min c w : Nat)) (2 ^ w : Nat)).toNat
  | .float _ => 0

/-! ## The forms -/

/-- A typed form of two sources. -/
def vecTyped2 (s : State) (h : LaneH) (t : LaneTy) (D A B : Spec) (op : Nat → Nat → Nat) : Out :=
  vecLanes s h (.typed t.w16 [A, B] (some D)) fun _ l => op (l.getD 0 0) (l.getD 1 0)

def vecTyped1 (s : State) (h : LaneH) (t : LaneTy) (D A : Spec) (op : Nat → Nat) : Out :=
  vecLanes s h (.typed t.w16 [A] (some D)) fun _ l => op (l.getD 0 0)

def execVadd (h : LaneH) (ty : ArTy) (D A B : Spec) (s : State) : Out := vecTyped2 s h (arTy ty) D A B (laneAdd (arTy ty))
def execVsub (h : LaneH) (ty : ArTy) (D A B : Spec) (s : State) : Out := vecTyped2 s h (arTy ty) D A B (laneSub (arTy ty))
def execVmul (h : LaneH) (ty : ArTy) (D A B : Spec) (s : State) : Out := vecTyped2 s h (arTy ty) D A B (laneMul (arTy ty))

def execVfma (h : LaneH) (ty : FlTy) (D A B C : Spec) (s : State) : Out :=
  vecLanes s h (.typed (LaneTy.float (flTy ty)).w16 [A, B, C] (some D)) fun _ l =>
    laneFma (flTy ty) (l.getD 0 0) (l.getD 1 0) (l.getD 2 0)

def execVmin (h : LaneH) (ty : MmTy) (D A B : Spec) (s : State) : Out :=
  vecTyped2 s h (mmTy ty) D A B (laneMinMax false (mmTy ty))

def execVmax (h : LaneH) (ty : MmTy) (D A B : Spec) (s : State) : Out :=
  vecTyped2 s h (mmTy ty) D A B (laneMinMax true (mmTy ty))

def execVabs (h : LaneH) (ty : ArTy) (D A : Spec) (s : State) : Out := vecTyped1 s h (arTy ty) D A (laneAbs (arTy ty))
def execVneg (h : LaneH) (ty : ArTy) (D A : Spec) (s : State) : Out := vecTyped1 s h (arTy ty) D A (laneNeg (arTy ty))

/-- A special function in each lane (R162). -/
def vecSpecial (s : State) (h : LaneH) (g : Fun) (ty : FlTy) (D A : Spec) : Out :=
  vecTyped1 s h (.float (flTy ty)) D A (g.apply (flTy ty))

def execVexp2 (h : LaneH) (ty : FlTy) (D A : Spec) (s : State) : Out := vecSpecial s h .exp2 ty D A
def execVlog2 (h : LaneH) (ty : FlTy) (D A : Spec) (s : State) : Out := vecSpecial s h .log2 ty D A
def execVrcp (h : LaneH) (ty : FlTy) (D A : Spec) (s : State) : Out := vecSpecial s h .rcp ty D A
def execVrsq (h : LaneH) (ty : FlTy) (D A : Spec) (s : State) : Out := vecSpecial s h .rsq ty D A
def execVtanh (h : LaneH) (ty : FlTy) (D A : Spec) (s : State) : Out := vecSpecial s h .tanh ty D A
def execVsigm (h : LaneH) (ty : FlTy) (D A : Spec) (s : State) : Out := vecSpecial s h .sigm ty D A

/-- A form that works on whole rows bit for bit (R163). -/
def vecBits (s : State) (h : LaneH) (D A B : Spec) (op : Row → Row → Row) : Out :=
  vecRow s h (.both [A, B] (some D)) widthOf fun _ _ rows => op (rows.getD 0 0) (rows.getD 1 0)

def execVand (h : LaneH) (D A B : Spec) (s : State) : Out := vecBits s h D A B (· &&& ·)
def execVor (h : LaneH) (D A B : Spec) (s : State) : Out := vecBits s h D A B (· ||| ·)
def execVxor (h : LaneH) (D A B : Spec) (s : State) : Out := vecBits s h D A B (· ^^^ ·)

def execVmov (h : LaneH) (D A : Spec) (s : State) : Out :=
  vecRow s h (.both [A] (some D)) widthOf fun _ _ rows => rows.getD 0 0

def execVsel (h : LaneH) (D A B : Spec) (k : BitVec 3) (s : State) : Out :=
  vecRow s h (.both [A, B] (some D)) widthOf fun j w rows =>
    mergeRow w ((s.vec j).k k.toNat) (rows.getD 0 0) (rows.getD 1 0)

/-- The running counts of set bits below each bit. -/
def countsBelow (m : Mask) (n : Nat) : List Nat :=
  ((List.range n).foldl (fun (a : List Nat × Nat) l => (a.2 :: a.1, a.2 + (m.getLsbD l).toNat)) ([], 0)).1.reverse

def execViota (h : LaneH) (D : Spec) (k : BitVec 3) (s : State) : Out :=
  vecRow s h (.both [] (some D)) widthOf fun j w _ =>
    rowOf (widthOf w) (countsBelow ((s.vec j).k k.toNat) (lanesOf w))

def shlTy : ShlTy → LaneTy
  | .i32 => .int 32 false
  | .i16 => .int 16 false

def shrTy : ShrTy → LaneTy
  | .i32 => .int 32 false
  | .n32 => .nat 32
  | .i16 => .int 16 false

def execVshl (h : LaneH) (ty : ShlTy) (D A B : Spec) (s : State) : Out :=
  vecTyped2 s h (shlTy ty) D A B (laneShl (if (shlTy ty).w16 then 16 else 32))

def execVshr (h : LaneH) (ty : ShrTy) (D A B : Spec) (s : State) : Out := vecTyped2 s h (shrTy ty) D A B (laneShr (shrTy ty))

/-- VCMP writes the unmasked bits below L of its mask and clears those from L on (R165). -/
def execVcmp (h : LaneH) (cc : VecCC) (ty : MmTy) (k : BitVec 3) (A B : Spec) (s : State) : Out :=
  let f := VForm.typed (mmTy ty).w16 [A, B] none
  vecForm s h f (fun _ => k != 0) fun j =>
    let w := s.w16 j
    let a := s.srcRow j A
    let b := s.srcRow j B
    let v := maskOf (lanesOf w) fun l => laneCmp cc (mmTy ty) (elem (widthOf w) a l) (elem (widthOf w) b l)
    let m := (s.vec j).pred h.pred ||| ~~~ laneBits w
    .next ((s.putMask j k.toNat m v).vecEnd j h f 0 0)

end Sys2Proof.Machine
end

