-- ==== Sys2Proof/Machine/VecConv.lean ====
section
/-! DEFINITION. Machine/VecConv.lean: the conversion and quantisation forms of the vector stream, the random draws and the
event that fills them (R73, R75 to R82, R166 to R171, R184 to R186). -/

namespace Sys2Proof.Machine

/-! ## Draws (R184 to R186) -/

/-- The counter with BLK = k (Table 7.8). -/
def counterBlock (c : BitVec 128) (k : Nat) : BitVec 128 := (c &&& ~~~ 63) ||| BitVec.ofNat 128 (k % 64)

/-- Block k of a draw: the bytes of AES-256 of the counter, lowest first. Which byte of the counter is byte 0 of the cipher's
input is not stated: counter bits [7:0] are (DESIGN CHOICE, assumption log 98). -/
def drawBlock (seed : BitVec 256) (c : BitVec 128) (k : Nat) : BitVec 128 :=
  BitVec.ofNat 128 (natLE (aes256 (bytesLE 32 seed.toNat) (bytesLE 16 (counterBlock c k).toNat)))

/-- The counter after a draw: DRAW + 1 modulo 2^26. -/
def nextDraw (c : BitVec 128) : BitVec 128 :=
  (c &&& ~~~ (BitVec.ofNat 128 (2 ^ 32 - 64))) ||| BitVec.ofNat 128 ((c.toNat / 64 + 1) % 2 ^ 26 * 64)

/-- The slot table names context `j` in this cycle of its crew's clock, and the AES engine's blocks of the cycle go to
its core (R186). -/
def State.drawSlot (s : State) (j : Nat) : Bool :=
  let n := s.crewNow (crewOf j)
  s.ticks (crewOf j) && decide (n % 4 = coreOf j % 4) && (s.core (coreOf j)).slots.get (n % 64) 0 == j % 4 + 1

/-- Context j's draw buffer takes the two blocks of the cycle, once, when they go to it and it has room (R186). -/
def State.takeBlocks (s : State) (j : Nat) : State :=
  let c := s.ctx j
  let now := s.crewNow (crewOf j) + 1
  if s.drawSlot j && s.running j && decide (c.drawBuf.length < 64) && c.drawAt != now then
    let blocks := (List.range 2).map fun i => drawBlock (s.part (s.partOf j)).seed c.drawCount (c.drawBuf.length + i)
    s.setCtx j { c with drawBuf := (c.drawBuf ++ blocks).take 64, drawAt := now }
  else s

/-- Event RANDOM_BLOCK: context j's draw buffer takes the blocks of the cycle. -/
def execRandomBlock (j : Nat) (s : State) : Out := .next (s.takeBlocks j)

/-- A cycle does not pass before the draw buffers have taken its blocks. -/
def State.drawCycle (s : State) : State :=
  s.ctxs.foldl (fun x e => if e.1 < 1024 then x.takeBlocks e.1 else x) s

/-- The draw in the buffer, as a row. -/
def Ctx.draw (c : Ctx) : Row := rowOf 128 (c.drawBuf.map BitVec.toNat)

def Ctx.takeDraw (c : Ctx) : Ctx := { c with drawBuf := [], drawCount := nextDraw c.drawCount }

/-- A word that takes a draw waits until the buffer is full, and takes it whatever its mask (R185, R186). -/
def State.withDraw (s : State) (j : Nat) (k : Row → State → Out) : Out :=
  if (s.ctx j).drawBuf.length < 64 then .next s else k (s.ctx j).draw (s.setCtx j (s.ctx j).takeDraw)

/-- VRNG. Its load form first sets REQ, ITER, ROW and DRAW, once, and discards any buffered draw (R185); `drawLoad`
remembers it until the draw has come (DEDUCED, assumption log 64). -/
def execVrng (h : LaneH) (D : Spec) (load : Option Spec) (s : State) : Out :=
  let f := VForm.both load.toList (some D)
  vecForm s h f (fun _ => true) fun j =>
    let c := s.ctx j
    let take := s.withDraw j fun x s1 => .next ((s1.setCtx j { s1.ctx j with drawLoad := false }).vecEnd j h f 32 x)
    match load with
    | some a =>
      if c.drawLoad then take
      else
        let want := BitVec.ofNat 128 ((s.srcRow j a).toNat % 2 ^ 128) &&& ~~~ 63
        .next (s.setCtx j { c with drawCount := want, drawBuf := [], drawLoad := true })
    | none => take

/-! ## Conversions (R166 to R169) -/

inductive CvtMode where
  | rne | rz | sr
deriving DecidableEq, Repr

/-- A conversion: its target, the source type of group 0x18, how it rounds, whether it is legal with 512 lanes. -/
structure Cvt where
  target : Elt
  from_ : Option Elt
  mode : CvtMode
  at16 : Bool
deriving DecidableEq, Repr

def Cvt.plain (t : Elt) : Cvt := { target := t, from_ := none, mode := .rne, at16 := true }
def Cvt.stoch (t : Elt) : Cvt := { target := t, from_ := none, mode := .sr, at16 := false }
def Cvt.zero (t : Elt) : Cvt := { target := t, from_ := none, mode := .rz, at16 := false }
def Cvt.widen (t : Elt) : Cvt := { target := .f32, from_ := some t, mode := .rne, at16 := false }

def cvtOf : CvtForm → Cvt
  | .toE4m3 => .plain .e4m3
  | .toE5m2 => .plain .e5m2
  | .toDm8 => .plain .dm8
  | .toI8 => .plain .i8
  | .toN8 => .plain .n8
  | .toBf16 => .plain .bf16
  | .toF16 => .plain .f16
  | .toI32 => { Cvt.plain .i32 with at16 := false }
  | .srE4m3 => .stoch .e4m3
  | .srE5m2 => .stoch .e5m2
  | .srDm8 => .stoch .dm8
  | .srI8 => .stoch .i8
  | .srBf16 => .stoch .bf16
  | .srF16 => .stoch .f16
  | .rzI32 => .zero .i32
  | .rzBf16 => .zero .bf16
  | .fromE4m3 => .widen .e4m3
  | .fromE5m2 => .widen .e5m2
  | .fromDm8 => .widen .dm8
  | .fromI8 => .widen .i8
  | .fromN8 => .widen .n8
  | .fromBf16 => .widen .bf16
  | .fromF16 => .widen .f16
  | .fromI32 => .widen .i32

def cvtaOf : CvtaForm → Cvt
  | .e4m3 => .plain .e4m3
  | .e5m2 => .plain .e5m2
  | .dm8 => .plain .dm8
  | .bf16 => .plain .bf16
  | .f16 => .plain .f16
  | .srE4m3 => .stoch .e4m3
  | .srE5m2 => .stoch .e5m2
  | .srDm8 => .stoch .dm8

def cvtsOf : CvtsForm → Cvt
  | .e4m3 => .plain .e4m3
  | .e5m2 => .plain .e5m2
  | .dm8 => .plain .dm8
  | .i8 => .plain .i8
  | .n8 => .plain .n8
  | .bf16 => .plain .bf16
  | .f16 => .plain .f16
  | .f32 => { Cvt.plain .f32 with at16 := false }

/-- The float type of a lane's source: FP32, or BF16 that stands for its exact widening (R153). -/
def laneElt (w16 : Bool) : Elt := if w16 then .bf16 else .f32

/-- Converts the container `c` of a lane; `r` is the lane's draw. -/
def Cvt.lane (k : Cvt) (w16 : Bool) (r c : Nat) : Nat × Bool :=
  let t := k.from_.getD (laneElt w16)
  k.target.convert (match k.mode with | .rne => .rne | .rz => .rz | .sr => .sr (r % 2 ^ 24)) (t.value (c % 2 ^ (8 * t.bytes)))

/-- The codes and CVS flags of a whole source row (R75, R166). -/
def Cvt.row (k : Cvt) (w16 : Bool) (draw x : Row) : List (Nat × Bool) :=
  (List.range (lanesOf w16)).map fun l => k.lane w16 (elem 32 draw l) (elem (widthOf w16) x l)

/-- The unmasked lanes whose conversion is flagged set their CVS bits (R75). -/
def Ctx.markCvs (c : Ctx) (m : Mask) (l : List (Nat × Bool)) : Ctx :=
  { c with cvs := c.cvs ||| (m &&& BitVec.ofNat 512 ((l.map (·.2)).foldr (fun b a => (if b then 1 else 0) + 2 * a) 0)) }

/-- The binary32 code of a lane's source value. -/
def laneF32 (w16 : Bool) (c : Nat) : BitVec 32 := BitVec.ofNat 32 (if w16 then c * 2 ^ 16 else c)

/-- One amax update of register `mi` for each unmasked lane of source row x (R77, R167). -/
def Ctx.markAmax (c : Ctx) (mi : Nat) (w16 : Bool) (m : Mask) (x : Row) : Ctx :=
  let v := (List.range (lanesOf w16)).foldl (fun a l =>
    if m.getLsbD l then amaxUpdate a (laneF32 w16 (elem (widthOf w16) x l)) else a) (c.amax.get mi 0)
  { c with amax := c.amax.set mi v }

/-- A conversion word: `post` is what it does beside the result and CVS, `size` the bits of an element of its result row. -/
def vecConvert (s : State) (h : LaneH) (k : Cvt) (f : VForm) (A : Spec) (size : Bool → Nat)
    (post : Bool → Mask → Row → Ctx → Ctx) : Out :=
  vecForm s h f (fun _ => true) fun j =>
    let go := fun (draw : Row) (s1 : State) =>
      let w := s.w16 j
      let x := s.srcRow j A
      let m := (s.vec j).pred h.pred &&& laneBits w
      let l := k.row w draw x
      let s2 := s1.setCtx j (post w m x ((s1.ctx j).markCvs m l))
      Host.Outcome.next (s2.vecEnd j h f (widthOf w) (rowOf (size w) (l.map (·.1))))
    if k.mode = .sr then s.withDraw j go else go 0 s

def Cvt.form (k : Cvt) (A : Spec) (D : Spec) : VForm :=
  { at32 := true, at16 := k.at16, srcs := [A], dst := some D, cross := false }

def execVcvt (h : LaneH) (f : CvtForm) (D A : Spec) (s : State) : Out :=
  vecConvert s h (cvtOf f) ((cvtOf f).form A D) A widthOf fun _ _ _ c => c

def execVcvta (h : LaneH) (f : CvtaForm) (D A : Spec) (m : BitVec 2) (s : State) : Out :=
  vecConvert s h (cvtaOf f) ((cvtaOf f).form A D) A widthOf fun w mk x c => c.markAmax m.toNat w mk x

/-- VCVTS packs the codes: element l at byte l × size (R169). -/
def execVcvts (h : LaneH) (f : CvtsForm) (q : BitVec 1) (A : Spec) (s : State) : Out :=
  vecConvert s h (cvtsOf f) ((cvtsOf f).form A (BitVec.ofNat 9 (0x108 + q.toNat))) A
    (fun _ => 8 * (cvtsOf f).target.bytes) fun _ _ _ c => c

/-! ## Quantised rows (R170, R171, Table 7.6) -/

def qFmt : QFmt → Elt
  | .e4m3 => .e4m3
  | .e5m2 => .e5m2
  | .dm8 => .dm8
  | .i8 => .i8

/-- The row of Table 7.6 for the L values of a source row. -/
def quantRow (t : Elt) (w16 : Bool) (x : Row) : Row :=
  let n := lanesOf w16
  let vals := (elems (widthOf w16) n x).map (laneElt w16).value
  let blocks := (List.range (n / 32)).map fun b => quantise t ((vals.drop (32 * b)).take 32)
  let codes := blocks.flatMap fun b => b.2.1
  let status := blocks.foldr (fun b a => b.2.2 + 4 * a) 0
  rowOf 8 codes ||| (rowOf 8 (blocks.map (·.1)) <<< (8 * 512)) ||| (BitVec.ofNat 8192 status <<< (8 * 528))

/-- DEDUCED, assumption log 65. -/
def execVqnt (h : LaneH) (f : QFmt) (D A : Spec) (s : State) : Out :=
  vecRow s h (VForm.both [A] (some D)).across (fun _ => 8) fun _ w rows => quantRow (qFmt f) w (rows.getD 0 0)

def dequantRow (t : Elt) (x : Row) : Row :=
  rowOf 32 ((List.range 256).map fun l => dequantise t (elem 8 x l) (elem 8 x (512 + l / 32)))

def execVdqnt (h : LaneH) (f : QFmt) (D A : Spec) (s : State) : Out :=
  vecRow s h (VForm.typed false [A] (some D)).across (fun _ => 32) fun _ _ rows => dequantRow (qFmt f) (rows.getD 0 0)

/-! ## VAMXR (R168) -/

/-- The row that VAMXR writes, and the context after its register is cleared. -/
def Ctx.amaxRead (c : Ctx) (sel : Nat) : Row × Ctx :=
  if sel < 4 then (rowOf 32 (List.replicate 256 (c.amax.get sel 0).toNat), { c with amax := c.amax.set sel 0 })
  else (BitVec.ofNat 8192 c.cvs.toNat, { c with cvs := 0 })

def execVamxr (h : LaneH) (D : Spec) (sel : BitVec 3) (s : State) : Out :=
  let f := VForm.both [] (some D)
  vecForm s h f (fun _ => true) fun j =>
    let (x, c) := (s.ctx j).amaxRead sel.toNat
    .next ((s.setCtx j c).vecEnd j h f 32 x)

end Sys2Proof.Machine
end

