-- ==== Sys2Proof/Machine/VecMove.lean ====
section
/-! DEFINITION. Machine/VecMove.lean: the reductions, movements, masks, conditional streams, shortlists and bitmaps of the
vector stream, and its VLOOP, VARM and JOIN (R172 to R183, R187 to R190). -/

namespace Sys2Proof.Machine

/-! ## Reductions (R172, R173) -/

def rdTy : RdTy → LaneTy
  | .f32 => .float f32
  | .bf16 => .float bf16
  | .i32 => .int 32 false

def rkTy : RkTy → LaneTy
  | .f32 => .float f32
  | .bf16 => .float bf16

/-- The sum of some codes with one rounding. -/
def laneSum (t : LaneTy) (l : List Nat) : Nat :=
  match t with
  | .float f => f.round .rne (exactSum (l.map f.value))
  | .int w _ => (Int.emod ((l.map (sint w)).foldl (· + ·) 0) (2 ^ w : Nat)).toNat
  | .nat w => l.foldl (· + ·) 0 % 2 ^ w

/-- `x` ranks strictly below `y`: NaN is lowest, −0 is below +0 (R173). -/
def rankBelow (x y : Num) : Bool :=
  if y.isNan then false else if x.isNan then true else numBelow x y

def rankCode (t : LaneTy) (a b : Nat) : Bool :=
  match t with
  | .float f => rankBelow (f.value a) (f.value b)
  | .int w _ => decide (sint w a < sint w b)
  | .nat _ => decide (a < b)

/-- The index and code of the top-ranked element; the lower index wins among equals. -/
def topRanked (t : LaneTy) (l : List Nat) : Nat × Nat :=
  let (_, b) := l.foldl (fun (a : Nat × Option (Nat × Nat)) c =>
    (a.1 + 1, match a.2 with
      | none => some (a.1, c)
      | some x => if rankCode t x.2 c then some (a.1, c) else some x)) (0, none)
  b.getD (0, 0)

/-- A NaN result is the canonical one (R66). -/
def canonical (t : LaneTy) (c : Nat) : Nat :=
  match t with
  | .float f => if (f.value c).isNan then f.nan else c
  | _ => c

def vecReduce (s : State) (h : LaneH) (t : LaneTy) (D A : Spec) (op : List Nat → Nat) : Out :=
  vecSpread s h (VForm.typed t.w16 [A] (some D)).across fun _ w rows =>
    op (elems (widthOf w) (lanesOf w) (rows.getD 0 0))

def execVrsum (h : LaneH) (ty : RdTy) (D A : Spec) (s : State) : Out := vecReduce s h (rdTy ty) D A (laneSum (rdTy ty))

def execVrmax (h : LaneH) (ty : RdTy) (D A : Spec) (s : State) : Out :=
  vecReduce s h (rdTy ty) D A fun l => canonical (rdTy ty) (topRanked (rdTy ty) l).2

def execVargm (h : LaneH) (ty : RkTy) (D A : Spec) (s : State) : Out :=
  vecReduce s h (rkTy ty) D A fun l => (topRanked (rkTy ty) l).1

/-! ## Movement (R174, R175) -/

def execVperm (h : LaneH) (D A B : Spec) (s : State) : Out :=
  vecRow s h (VForm.both [A, B] (some D)).across widthOf fun _ w rows =>
    let a := rows.getD 0 0
    let b := rows.getD 1 0
    rowOf (widthOf w) ((List.range (lanesOf w)).map fun l =>
      let j := elem (widthOf w) b l
      if j < lanesOf w then elem (widthOf w) a j else 0)

def execVrot (h : LaneH) (D A : Spec) (n : BitVec 9) (s : State) : Out :=
  let f := (VForm.both [A] (some D)).across
  vecForm s h f (fun j => decide (n.toNat < lanesOf (s.w16 j))) fun j =>
    let w := s.w16 j
    let a := s.srcRow j A
    .next (s.vecEnd j h f (widthOf w)
      (rowOf (widthOf w) ((List.range (lanesOf w)).map fun l => elem (widthOf w) a ((l + n.toNat) % lanesOf w))))

/-! ## Masks (R176, R177) -/

/-- VMSK takes a MASK call for one group of 64 bits. -/
def execVmsk (h : LaneH) (k : BitVec 3) (s : State) : Out :=
  let call := fun (j : Nat) => (s.ctx j).headCall true
  laneForm s true h (fun _ => k != 0) (fun _ => true)
    (fun j => match call j with | some c => c.ty == .mask | none => true) (fun j => (call j).isNone) fun j =>
    match call j with
    | none => .next s
    | some c =>
      if s.callPoisoned j true 1 && (s.vec j).pred h.pred &&& laneBits (s.w16 j) != 0 then .next (s.fault (.vec j) poisonCause 0)
      else
      let group := BitVec.ofNat 512 ((2 ^ 64 - 1) * 2 ^ (64 * c.g.toNat))
      let v := BitVec.ofNat 512 (c.payload.toNat * 2 ^ (64 * c.g.toNat))
      let m := group &&& ((s.vec j).pred h.pred ||| ~~~ laneBits (s.w16 j))
      let s1 := s.setCtx j ((s.ctx j).popCalls true 1)
      .next ((s1.putMask j k.toNat m v).laneNext (.vec j))

/-- A form of masks alone: bits below L under its own mask, the others always. -/
def vecMask (s : State) (h : LaneH) (kd : BitVec 3) (op : Vec → Mask) : Out :=
  let f := VForm.both [] none
  vecForm s h f (fun _ => kd != 0) fun j =>
    let x := s.vec j
    .next ((s.putMask j kd.toNat (x.pred h.pred ||| ~~~ laneBits (s.w16 j)) (op x)).vecEnd j h f 0 0)

def execVkand (h : LaneH) (kd ka kb : BitVec 3) (s : State) : Out :=
  vecMask s h kd fun x => x.k ka.toNat &&& x.k kb.toNat

def execVkor (h : LaneH) (kd ka kb : BitVec 3) (s : State) : Out :=
  vecMask s h kd fun x => x.k ka.toNat ||| x.k kb.toNat

def execVknot (h : LaneH) (kd ka : BitVec 3) (s : State) : Out := vecMask s h kd fun x => ~~~ x.k ka.toNat

def execVkpop (h : LaneH) (D : Spec) (k : BitVec 3) (s : State) : Out :=
  vecSpread s h (.both [] (some D)) fun j w _ => popcount 512 ((s.vec j).k k.toNat &&& laneBits w).toNat

/-! ## Conditional streams (R178 to R181) -/

/-- The compaction buffer after some records are appended: 4,096 at most, and LPOV for those that find no room. -/
def Ctx.pushRecords (c : Ctx) (l : List (BitVec 64)) : Ctx :=
  let room := 4096 - c.comp.length
  { c with comp := c.comp ++ l.take room, lpov := if room < l.length then 1 else c.lpov }

def execVlpsh (h : LaneH) (A : Spec) (s : State) : Out :=
  let f := VForm.both [A] none
  vecForm s h f (fun _ => true) fun j =>
    let w := s.w16 j
    let m := (s.vec j).pred h.pred
    let a := s.srcRow j A
    let l := ((List.range (lanesOf w)).filter m.getLsbD).map fun i => BitVec.ofNat 64 (elem (widthOf w) a i)
    .next ((s.setCtx j ((s.ctx j).pushRecords l)).vecEnd j h f 0 0)

/-- VLPOP removes up to L records whatever its mask, which governs D and the bits of kC. -/
def execVlpop (h : LaneH) (D : Spec) (k : BitVec 3) (s : State) : Out :=
  let f := VForm.both [] (some D)
  vecForm s h f (fun _ => k != 0) fun j =>
    let w := s.w16 j
    let c := s.ctx j
    let n := Nat.min (lanesOf w) c.comp.length
    let x := rowOf (widthOf w) ((c.comp.take n).map BitVec.toNat)
    let m := (s.vec j).pred h.pred
    let s1 := (s.setCtx j { c with comp := c.comp.drop n }).vecEnd j h f (widthOf w) x
    .next (s1.putMask j k.toNat (m ||| ~~~ laneBits w) (maskOf n fun _ => true))

def execVlcnt (h : LaneH) (D : Spec) (s : State) : Out :=
  let f := VForm.both [] (some D)
  vecForm s h f (fun _ => true) fun j =>
    let w := s.w16 j
    let c := s.ctx j
    let x := broadcast w (c.comp.length + c.lpov * 2 ^ (widthOf w - 1))
    .next ((s.setCtx j { c with lpov := 0 }).vecEnd j h f (widthOf w) x)

/-! ## Shortlists (R182, R183) -/

/-- A candidate: its FP32 code and its vocabulary index. -/
structure Cand where
  code : Nat
  idx : Nat
deriving DecidableEq, Repr

/-- `a` stands before `b`: it ranks above it, or equals it in value and has the lower index. -/
def Cand.before (a b : Cand) : Bool :=
  let x := f32.value a.code
  let y := f32.value b.code
  rankBelow y x || (!rankBelow x y && decide (a.idx < b.idx))

/-- `a` enters an ordered list after the entries that it does not stand before. -/
def insertCand (a : Cand) : List Cand → List Cand
  | [] => [a]
  | x :: r => if a.before x then a :: x :: r else x :: insertCand a r

/-- The best 64 in order. -/
def bestCands (l : List Cand) : List Cand := l.foldl (fun b a => (insertCand a b).take 64) []

def padTo (n : Nat) (d : Nat) (l : List Nat) : List Nat := (l ++ List.replicate (n - l.length) d).take n

/-- The shortlist row D of chunk values `vals` (FP32 codes) with first index `base`, merged into row B. -/
def shortlist (vals : List Nat) (b : Row) (base : Nat) : Row :=
  let w := elem 32 b
  let n0 := Nat.min (w 128) 64
  let old := (List.range n0).map fun i => Cand.mk (w i) (w (64 + i))
  let new := (List.range vals.length).map fun l => Cand.mk (vals.getD l 0) ((base + l) % 2 ^ 32)
  let best := bestCands (old ++ new)
  let tn := f32.round .rne (exactSum ((w 129 :: vals).map f32.value))
  let sn := f32.round .rne (exactSum (best.map fun c => f32.value c.code))
  let enough := Num.le ((f32.value (w 131)).mul (f32.value tn)) (f32.value sn)
  let div := if w 132 ≠ 0 ∨ ¬ enough then 1 else 0
  rowOf 32 (padTo 64 0xFF800000 (best.map fun c => canonical (.float f32) c.code) ++ padTo 64 0xFFFFFFFF (best.map (·.idx)) ++
    [best.length, tn, sn, w 131, div])

/-- VSHRT occupies its stream for 32 local cycles, or 64 in a BF16 form. -/
def execVshrt (h : LaneH) (ty : RkTy) (D A B C : Spec) (s : State) : Out :=
  let f := (VForm.typed (rkTy ty).w16 [A, B, C] (some D)).across
  vecForm s h f (fun _ => true) fun j =>
    let w := s.w16 j
    let vals := (elems (widthOf w) (lanesOf w) (s.srcRow j A)).map fun c =>
      canonical (.float f32) (if w then c * 2 ^ 16 else c)
    let t := s.vecEnd j h f 32 (shortlist vals (s.srcRow j B) (s.srcScalar j C))
    .next (t.setStream (.vec j) { t.stream (.vec j) with occ := if w then 63 else 31 })

/-! ## Bitmaps (R187) -/

/-- The positions of the set bits of a row, in rising order. -/
def bitPositions (x : Row) : List Nat := (List.range 8192).filter x.getLsbD

/-- A form that looks up each lane of B in the set bits of A. -/
def vecBitmap (s : State) (h : LaneH) (D A B : Spec) (op : Bool → List Nat → Nat → Nat) : Out :=
  vecRow s h (VForm.both [A, B] (some D)).across widthOf fun _ w rows =>
    let bits := bitPositions (rows.getD 0 0)
    rowOf (widthOf w) ((List.range (lanesOf w)).map fun l => op w bits (elem (widthOf w) (rows.getD 1 0) l))

def execVrank (h : LaneH) (D A B : Spec) (s : State) : Out :=
  vecBitmap s h D A B fun _ bits b => (bits.filter fun p => decide (p < b)).length

def execVselb (h : LaneH) (D A B : Spec) (s : State) : Out :=
  vecBitmap s h D A B fun w bits b => (bits[b]?).getD (2 ^ widthOf w - 1)

/-! ## Loops, arms and JOIN (R188 to R190) -/

/-- The type of the head call of cqv. -/
def State.headIs (s : State) (vec : Bool) (ty : CallTy) (ok : Word → Bool) (j : Nat) : Bool :=
  match (s.ctx j).headCall vec with
  | some c => c.ty == ty && ok c.payload
  | none => true

/-- VLOOP opens a level over the next count1 + 1 words. It waits for its call after its class 1 checks (R53 names no queue
for it; DEDUCED, assumption log 29). -/
def execVloop (h : LaneH) (lvl : BitVec 3) (count1 step : BitVec 9) (s : State) : Out :=
  let t := s.cur
  let pc := (s.stream t).pc
  let count := count1.toNat + 1
  let fs := s.frames t
  let legal := loopLegal fs lvl.toNat count pc
  laneForm s true h (fun _ => legal) (fun _ => true) (s.headIs true .trip fun _ => true)
    (fun j => legal && ((s.ctx j).headCall true).isNone) fun j =>
    match (s.ctx j).headCall true with
    | none => .next s
    | some c =>
      if s.callPoisoned j true 1 then .next (s.fault t poisonCause 0)
      else
      let l : Level :=
        { num := lvl.toNat, first := pc + 8, last := pc + 8 + BitVec.ofNat 64 (8 * count), idx := 0,
          trip := c.payload.toNat % 2 ^ 32, win := step.toInt, strides := [], saved := [] }
      let (fs', nxt) := openLoop fs l
      .next ((s.setCtx j ((s.ctx j).popCalls true 1)).laneGo t fs' nxt true)

/-- The bytes of an armed block: its VARM or AARM, its arm-length word and its arms (R189). -/
def armBytes (n : Nat) (lens : Word) : Word := 16 + BitVec.ofNat 64 (8 * armStart lens n)

/-- DEDUCED, assumption logs 28 and 29. -/
def execVarm (h : LaneH) (n : BitVec 4) (lens : Word) (s : State) : Out :=
  let t := s.cur
  let pc := (s.stream t).pc
  let fs := s.frames t
  let legal := armLegal fs n.toNat lens pc
  laneFormTo s true h (armBytes n.toNat lens) (fun _ => legal) (fun _ => true)
    (s.headIs true .arm fun p => decide (p.toNat < n.toNat))
    (fun j => legal && ((s.ctx j).headCall true).isNone) fun j =>
    match (s.ctx j).headCall true with
    | none => .next s
    | some c =>
      if s.callPoisoned j true 1 then .next (s.fault t poisonCause 0)
      else
      let (fs', nxt) := openArm fs n.toNat c.payload.toNat lens pc
      .next ((s.setCtx j ((s.ctx j).popCalls true 1)).laneGo t fs' nxt true)

/-- JOIN ends the stream; it is illegal while a level or an arm is open (R189, R190, R315). ACC's waits until its earlier
stores have performed (R209). -/
def laneJoin (s : State) (vec : Bool) (h : LaneH) : Out :=
  let t := s.cur
  laneForm s vec h (fun _ => (s.frames t).isEmpty) (fun _ => true) (fun _ => true) (fun _ => false) fun _ =>
    if !vec && !s.remoteDone t then .next s else .next (s.setStatus t .joined)

def execVecJoin (h : LaneH) (s : State) : Out := laneJoin s true h

end Sys2Proof.Machine
end

