-- ==== Sys2Proof/Machine/HostLink.lean ====
section
/-! DEFINITION. Machine/HostLink.lean: the registration of the host agent (R7, Tables 1.7 and 20.3). -/

namespace Sys2Proof.Machine

/-- HLUP: the host agent is reachable and registered (R7, R412). -/
def State.hlup (s : State) : Bool := fieldOf s.hagt 63 1 == 1

end Sys2Proof.Machine
end

