-- ==== Sys2Proof/Machine/Coolant.lean ====
section
/-! DEFINITION. Machine/Coolant.lean: the allocation table, the allocator, sensor traps, evacuation and refill of the
coolant zones (R260 to R274). -/

namespace Sys2Proof.Machine

/-! ## Fields of the allocation table (Tables 10.1 and 10.2) -/

def Zone.state (z : Zone) : Nat := fieldOf z.cata 0 3
def Zone.phase (z : Zone) : Nat := fieldOf z.cata 18 3
def Zone.setl (z : Zone) : Bool := fieldOf z.cata 21 1 == 1
def Zone.ownv (z : Zone) : Bool := fieldOf z.cata 23 1 == 1
def Zone.owner (z : Zone) : Nat := fieldOf z.cata 24 6
def Zone.tgt (z : Zone) : Nat := fieldOf z.cata 32 8
def Zone.max (z : Zone) : Nat := fieldOf z.cata 40 8
def Zone.min (z : Zone) : Nat := fieldOf z.cata 48 8
def Zone.grant (z : Zone) : Nat := fieldOf z.cata 56 8

def Zone.flim (z : Zone) : Nat := fieldOf z.catb 0 8
def Zone.dryl (z : Zone) : Nat := fieldOf z.catb 12 10
def Zone.wlim (z : Zone) : Nat := fieldOf z.catb 22 10
def Zone.plim (z : Zone) : Nat := fieldOf z.catb 32 16
/-- DESIGN CHOICE, assumption log 51. -/
def Zone.tlim (z : Zone) : BitVec 16 := BitVec.ofNat 16 (fieldOf z.catb 48 16)

def zDry : Nat := 0
def zWet : Nat := 1
def zThrottled : Nat := 2
def zEvacuating : Nat := 3
def zFault : Nat := 4

def Zone.put (z : Zone) (lo len x : Nat) : Zone := { z with cata := withField z.cata lo len x }
def Zone.setState (z : Zone) (x : Nat) : Zone := z.put 0 3 x
def Zone.setPhase (z : Zone) (x : Nat) : Zone := z.put 18 3 x
def Zone.setSetl (z : Zone) (b : Bool) : Zone := z.put 21 1 (if b then 1 else 0)
def Zone.setTgt (z : Zone) (x : Nat) : Zone := z.put 32 8 x
def Zone.setGrant (z : Zone) (x : Nat) : Zone := z.put 56 8 x

/-- The table may still change in this cycle: no die's walker, of which each reads it after every change of a cycle and may
place on any crew, has placed an iteration in it (R194, R195, R269) (DEDUCED, assumption log 90). -/
def State.catOpen (s : State) : Bool := (List.range 4).all fun d => (s.die d).placed != s.now + 1

/-- A change of the table that waits while it is closed. -/
def zoneTurn (s : State) (body : Out) : Out := if s.catOpen then body else .next s

/-- The die of zone z has passed test: only then do quanta go to it (R422). -/
def State.zonePassed (s : State) (z : Nat) : Bool := s.boot.passed.getLsbD (z / 32)

/-- Where sensor conditions are tested: WET or THROTTLED (R271). -/
def Zone.serving (z : Zone) : Bool := z.state == zWet || z.state == zThrottled

/-! ## The pump budget (R262) -/

def State.setReserved (s : State) (z n : Nat) : State := { s with reserved := s.reserved.set z n }

/-- FREE: quanta neither granted nor reserved (DEDUCED, assumption log 52). -/
def State.freeQuanta (s : State) : Nat :=
  Config.pumpQuanta - ((s.zones.map fun x => x.2.grant).sum + (s.reserved.map fun x => x.2).sum)

/-- HELD(p): the grants of p's zones and the quanta that accepted raises have reserved for it
(DEDUCED, assumption log 52). -/
def State.held (s : State) (p : Nat) : Nat :=
  (s.zones.map fun x =>
    (if x.2.ownv && x.2.owner == p then x.2.grant else 0) +
      (if x.2.resFor = some p then s.reserved.get x.1 0 else 0)).sum

def State.quota (s : State) (p : Nat) : Nat := (s.part p).quota.toNat

/-! ## Request status (Table 10.4) -/

/-- CLST when a request of service core n is served. -/
def State.clstServed (s : State) (n z st : Nat) : State :=
  s.setSvc n { s.svc n with clst := BitVec.ofNat 64 (z % 128 * 2 ^ 16 + (s.zone z).grant * 256 + st) }

/-- ST changes later; ZONE stays that of the last request, and GRANT is its grant now. -/
def State.clstLater (s : State) (n st : Nat) : State :=
  let z := fieldOf (s.svc n).clst 16 7
  s.clstServed n z st

/-- The thread of a CLREQ completes: its sig token gains 1 (DEDUCED, assumption log 59). -/
def State.clDone (s : State) (r : ClReq) : State :=
  s.setCtx (1024 + r.svc) ((s.ctx (1024 + r.svc)).signal r.tok.sig)

/-- The zone operand of a request (R264). -/
def ClReq.zone (r : ClReq) : Nat := fieldOf r.opnd 0 7
def ClReq.actor (r : ClReq) : Nat := fieldOf r.opnd 8 6
def ClReq.novfin (r : ClReq) : Bool := fieldOf r.opnd 15 1 == 1

/-- The owner check of R265. -/
def ClReq.ownerOk (r : ClReq) (z : Zone) : Bool := r.novfin || (z.ownv && z.owner == r.actor)

/-! ## The allocator (R265, R266, R268) -/

/-- A refused request: its status, and the thread's end. -/
def State.clRefuse (s : State) (r : ClReq) (st : Nat) : State := (s.clstServed r.svc r.zone st).clDone r

/-- A CLREQ is served (R265). -/
def State.clServe (s : State) (r : ClReq) : State :=
  let i := r.zone
  let z := s.zone i
  let g := r.target.toNat
  if ¬ (z.serving && s.zonePassed i) then s.clRefuse r 4
  else if ¬ r.ownerOk z then s.clRefuse r 5
  else if g < z.min ∨ z.max < g then s.clRefuse r 3
  else if z.grant < g then
    let d := g - z.grant
    if s.freeQuanta < d then s.clRefuse r 1
    else if ¬ r.novfin ∧ z.ownv ∧ s.quota z.owner < s.held z.owner + d then s.clRefuse r 2
    else
      let z1 := (z.setTgt g).setSetl false
      let z2 := { z1 with req := some r, acceptAt := s.now, settled := 0, resFor := if z.ownv then some z.owner else none }
      ((s.setZone i z2).setReserved i d).clstServed r.svc i 7
  else
    let z1 := ((z.setGrant g).setTgt g).setSetl false
    let z2 := { z1 with req := some r, acceptAt := s.now, settled := 0, resFor := none }
    ((s.setZone i z2).setReserved i (z.grant - g)).clstServed r.svc i 7

/-- A CLREL performs at the allocator (R266). No time-out applies to the move of its valve (DESIGN CHOICE, assumption
log 120). -/
def State.clRelease (s : State) (r : ClReq) : State :=
  let i := r.zone
  let z := s.zone i
  if ¬ z.serving then s.clstServed r.svc i 4
  else if ¬ r.ownerOk z then s.clstServed r.svc i 5
  else
    let z1 := (((z.setGrant z.min).setTgt z.min).setSetl false).put 23 1 0
    let z2 := { z1 with settled := 0, resFor := none }
    ((s.setZone i z2).setReserved i (z.grant - z.min)).clstServed r.svc i 0

/-- The status of a request that the host refuses: the spec states none, a free one of 1 to 5 (DESIGN CHOICE, assumption
log 26). -/
def State.hostRefusal (s : State) : Nat × State :=
  let (k, s1) := s.pick 5
  (k + 1, s1)

/-- Request a goes before request b: in arrival order, and those of one cycle by service core (R265). -/
def ClReq.before (a b : ClReq) : Bool := decide (a.at_ < b.at_ ∨ (a.at_ = b.at_ ∧ a.svc < b.svc))

/-- A request joins the allocator's queue. -/
def joinQueue (r : ClReq) : List ClReq → List ClReq
  | [] => [r]
  | x :: l => if r.before x then r :: x :: l else x :: joinQueue r l

/-- A request waits: it is for a zone that has not settled, or that an earlier forwarded request names (R265). -/
def State.clWaits (s : State) (before : List ClReq) (r : ClReq) : Bool :=
  !(s.zone r.zone).setl || before.any fun x => x.zone == r.zone && x.host.isSome

/-- The first request that the allocator can serve: its place in the queue. The requests of a cycle are in their order once it
has passed. -/
def State.clFirst (s : State) : List ClReq → List ClReq → Nat → Option Nat
  | _, [], _ => none
  | before, r :: l, n =>
    if !r.done && r.host.isNone && decide (r.at_ < s.now) && !s.clWaits before r then some n
    else s.clFirst (before ++ [r]) l (n + 1)

/-- The request at place i is taken: one that started in host-assisted mode is forwarded, and decided once the host has
accepted it (R34, R268). A CLREL stays until its word has passed. -/
def State.clTake (s : State) (i : Nat) : State :=
  match s.clQueue[i]? with
  | none => s
  | some r =>
    if r.fwd && r.ok.isNone then
      { s with clQueue := s.clQueue.set i { r with host := some s.nextReq } }.forward 3 .alloc
    else if r.rel then { s with clQueue := s.clQueue.set i { r with done := true } }.clRelease r
    else { s with clQueue := s.clQueue.eraseIdx i }.clServe r

/-- The host has accepted or refused the request with number `id` (R268). An accepted one stands in the queue until it is
served; a refused one is over (DESIGN CHOICE, assumption log 26). -/
def State.clDecided (s : State) (id : Nat) (ok : Bool) : State :=
  match s.clQueue.find? fun x => x.host == some id with
  | none => s
  | some r =>
    let mark := fun (y : ClReq) => { s with clQueue := s.clQueue.map fun x => if x.host = some id then y else x }
    if ok then mark { r with host := none, ok := some true }
    else if r.rel then
      let (st, s1) := (mark { r with host := none, done := true }).hostRefusal
      s1.clstServed r.svc r.zone st
    else
      let (st, s1) := { s with clQueue := s.clQueue.filter fun x => x.host != some id }.hostRefusal
      s1.clRefuse r st

/-- The allocator serves the request at place i, when it is the first that it can serve and the table may change. -/
def State.clTurn (s : State) (i : Nat) : State :=
  if s.clFirst [] s.clQueue 0 = some i ∧ s.catOpen then s.clTake i else s

/-- Event ALLOCATOR_SERVE: the allocator's turn for the request at place i. -/
def execAllocatorServe (i : Nat) (s : State) : Out := .next (s.clTurn i)

/-! ## Traps (R271) -/

/-- A coolant trap of zone i: its privileged record and an event of kind 9. -/
def State.coolantTrap (s : State) (i : Nat) (sub : Nat) : State :=
  let z := s.zone i
  let p := if z.ownv then z.owner else 0
  let r : Record :=
    { cls := 19, sub := BitVec.ofNat 8 sub, unit := .none, part := BitVec.ofNat 6 p, core := 0, ctx := 0, rst := false,
      pc := 0, addr := BitVec.ofNat 64 i, w3 := 0, cut := [], tok := [], cutv := false, set := false, budg := 0, psv := 0,
      home := 2048, gen := 0, at_ := s.now, addPending := false, thread := none }
  let s1 := s.logEvent 9 sub (i / 2) ((List.range 4).map (r.word 0))
  s1.postPriv (if z.ownv then z.owner else 64) r

/-- TRAPS bit of a subcause 1 to 4. -/
def Zone.trapBit (z : Zone) (sub : Nat) : Zone := z.put (11 + sub) 1 1

/-- The traps in `subs`, each with its sticky bit. -/
def State.raiseTraps (s : State) (i : Nat) (subs : List Nat) : State :=
  subs.foldl (fun x n => (x.setZone i ((x.zone i).trapBit n)).coolantTrap i n) s

/-! ## Interruption, settling, FAULT (R265, R272) -/

/-- A pending request of zone i completes with ST 6: TGT goes back to GRANT, and a raise's quanta are free again. -/
def State.interrupt (s : State) (i : Nat) : State :=
  let z := s.zone i
  match z.req with
  | none => s
  | some r =>
    let raise := z.grant < z.tgt
    let s1 := s.setZone i { z.setTgt z.grant with req := none, settled := 0, resFor := none }
    let s2 := if raise then s1.setReserved i 0 else s1
    (s2.clstLater r.svc 6).clDone r

/-- The valve settles at TGT. -/
def State.settle (s : State) (i : Nat) : State :=
  let z := s.zone i
  let z1 := (z.setGrant z.tgt).setSetl true
  let s1 := (s.setZone i { z1 with req := none, resFor := none, settled := 0 }).setReserved i 0
  match z.req with
  | none => s1
  | some r => (s1.clstLater r.svc 0).clDone r

/-- Every job of crew c is killed (R229, R273). -/
def State.killCrew (s : State) (c : Nat) : State :=
  (List.range 16).foldl (fun x i => x.killJob (16 * c + i) 6 noCause) s

/-- Zone i enters FAULT; the crew's jobs drain from now on (R272). -/
def State.enterFault (s : State) (i : Nat) : State :=
  let s1 := s.interrupt i
  let z := ((s1.zone i).setState zFault).setPhase 0
  s1.setZone i { z with stepAt := s.now, clearing := false, count := 0, sub := 0 }

/-! ## Evacuation (R273) -/

/-- The evacuation of zone i starts, or becomes a leak evacuation from its current step onward; step 1 of one of those
takes no time (Table 10.6). -/
def State.evacuate (s : State) (i : Nat) (leak : Bool) : State :=
  let s1 := s.interrupt i
  let z := s1.zone i
  let s2 :=
    if z.state = zEvacuating then s1.setZone i { z with leak := z.leak || leak }
    else s1.setZone i
      { (z.setState zEvacuating).setPhase 1 with
        leak := leak, stepAt := s.now, count := 0, fails := 0, clearing := false, sub := 0 }
  if leak ∧ (s2.zone i).phase = 1 then
    let s3 := s2.killCrew (i / 2)
    s3.setZone i { (s3.zone i).setPhase 2 with stepAt := s.now }
  else s2

/-- No job is resident on crew c. -/
def State.crewEmpty (s : State) (c : Nat) : Bool := (List.range 16).all fun i => (s.ctx (16 * c + i)).job.isNone

/-- The inlet has closed: GRANT and TGT are 0, and the quanta are free (Table 10.6, step 2). -/
def State.inletClosed (s : State) (i : Nat) : State :=
  let z := (((s.zone i).setGrant 0).setTgt 0).setSetl true
  (s.setZone i { z.setPhase 3 with stepAt := s.now, resFor := none }).setReserved i 0

/-- Event EVACUATION_STEP_END: the running step 1 to 4 of zone i's evacuation ends, and the next starts
(DEDUCED, assumption log 53). -/
def execEvacuationStepEnd (i : Nat) (s : State) : Out :=
  let z := s.zone i
  if z.state ≠ zEvacuating then .next s
  else zoneTurn s <|
  if z.phase = 1 then
    if s.crewEmpty (i / 2) then .next (s.setZone i { z.setPhase 2 with stepAt := s.now }) else .next s
  else if z.phase = 2 then .next (s.inletClosed i)
  else if z.phase = 3 then .next (s.setZone i { z.setPhase 4 with stepAt := s.now })
  else if z.phase = 4 ∧ z.stepAt + 2000 * s.ms ≤ s.now then
    .next (s.setZone i { z.setPhase 5 with stepAt := s.now, count := 0 })
  else .next s

/-- Jobs of crew c are being drained, and 50 ms have passed since (R272, R273, R393). -/
def State.drainOver (s : State) (c : Nat) : Bool :=
  ((List.range 2).any fun i =>
    let z := s.zone (2 * c + i)
    (z.state == zFault || (z.state == zEvacuating && z.phase == 1)) && decide (z.stepAt + 50 * s.ms ≤ s.now)) ||
  (match (s.crew c).step with | .draining t => decide (t + 50 * s.ms ≤ s.now) | _ => false)

/-- Event EVACUATION_KILL_TIMEOUT: the jobs still resident on crew c after 50 ms are killed. -/
def execEvacuationKillTimeout (c : Nat) (s : State) : Out := if s.drainOver c then .next (s.killCrew c) else .next s

/-- Event DRY_CONFIRM_TIMEOUT: 500 ms of step 5 have passed without 100 dry samples: the purge runs again, and a third
failure is DRYFAIL. -/
def execDryConfirmTimeout (i : Nat) (s : State) : Out :=
  let z := s.zone i
  if z.state = zEvacuating ∧ z.phase = 5 ∧ z.stepAt + 500 * s.ms ≤ s.now then
    zoneTurn s <|
    if 2 ≤ z.fails then .next ((s.coolantTrap i 5).enterFault i)
    else .next (s.setZone i { z.setPhase 4 with stepAt := s.now, count := 0, fails := z.fails + 1 })
  else .next s

/-! ## Refill (R274) -/

/-- A CMD of 2 in DRY starts the refill of a zone whose die has passed test, unless one is running (R274, R422). -/
def State.refill (s : State) (i : Nat) : State :=
  let z := s.zone i
  if z.state = zDry ∧ z.phase = 0 ∧ s.zonePassed i then s.setZone i { z.setPhase 6 with sub := 0, stepAt := s.now, count := 0 } else s

/-- Event REFILL_RESERVE: FREE allows the refill of zone i, and MIN quanta are reserved. -/
def execRefillReserve (i : Nat) (s : State) : Out :=
  let z := s.zone i
  if z.state = zDry ∧ z.phase = 6 ∧ z.sub = 0 ∧ z.min ≤ s.freeQuanta then
    zoneTurn s (.next ((s.setZone i { z with sub := 1, stepAt := s.now }).setReserved i z.min))
  else .next s

/-- Event REFILL_PURGE_VALVE_CLOSED: the inlet opens to TGT = MIN, and the prime begins (DEDUCED, assumption log 53). -/
def execRefillPurgeValveClosed (i : Nat) (s : State) : Out :=
  let z := s.zone i
  if z.state = zDry ∧ z.phase = 6 ∧ z.sub = 1 then
    zoneTurn s (.next (s.setZone i { ((z.setPhase 7).setTgt z.min).setSetl false with sub := 2, stepAt := s.now }))
  else .next s

/-- Event REFILL_PRIME_END: 500 ms of priming have passed, and the flow check begins. -/
def execRefillPrimeEnd (i : Nat) (s : State) : Out :=
  let z := s.zone i
  if z.state = zDry ∧ z.phase = 7 ∧ z.sub = 2 ∧ z.stepAt + 500 * s.ms ≤ s.now then
    zoneTurn s (.next (s.setZone i { z with sub := 3, count := 0 }))
  else .next s

/-- The refill passes its check: the zone is WET with GRANT = MIN. -/
def State.refilled (s : State) (i : Nat) : State :=
  let z := s.zone i
  let z1 := (((z.setGrant z.min).setSetl true).setState zWet).setPhase 0
  (s.setZone i { z1 with sub := 0, count := 0, conds := z.conds }).setReserved i 0

/-- FILLFAIL: the zone enters FAULT with its inlet closed again. -/
def State.fillFail (s : State) (i : Nat) : State :=
  let s1 := (s.coolantTrap i 6).enterFault i
  (s1.setZone i (((s1.zone i).setTgt 0).setSetl true)).setReserved i 0

/-! ## Samples (R265, R271 to R274) -/

/-- A flow in 1/16 mL/min against `g` quanta of 10 mL/min. -/
def flowOf (g : Nat) : Nat := 160 * g

/-- The flow lies within 5 percent of TGT (R265). -/
def nearTgt (x : Sample) (tgt : Nat) : Bool :=
  decide (100 * x.flow.toNat ≤ 105 * flowOf tgt ∧ 95 * flowOf tgt ≤ 100 * x.flow.toNat)

def condTemp (z : Zone) (x : Sample) : Bool := z.tlim.slt x.outletTemp
def condFlow (z : Zone) (x : Sample) : Bool := decide (100 * x.flow.toNat < z.flim * flowOf z.grant)
def condPres (z : Zone) (x : Sample) : Bool := decide (z.plim < x.pressure.toNat)
def condLeak (z : Zone) (x : Sample) : Bool := decide (z.wlim ≤ x.wetOuter.toNat)

/-- Cool enough to count toward the return from THROTTLED. -/
def coolSample (z : Zone) (x : Sample) : Bool := decide (x.outletTemp.toInt < z.tlim.toInt - 320)

/-- The settling of a zone whose valve moves; after an interrupted request also that of a fenced zone, whose inlet is
driven back to its grant (R265). The valve that a refill has opened gives a grant with its check only: in DRY, and in an
evacuation that a leak has made of the refill (R274). -/
def State.sampleSettle (s : State) (i : Nat) (x : Sample) : State :=
  let z := s.zone i
  if z.setl ∨ z.state = zDry ∨ (z.state = zEvacuating ∧ z.grant ≠ z.tgt) then s
  else if ¬ nearTgt x z.tgt then s.setZone i { z with settled := 0 }
  else if z.settled + 1 < 2 then s.setZone i { z with settled := z.settled + 1 }
  else s.settle i

/-- Bits 0 to 3 of the conditions that hold in a sample; TEMP, FLOW and PRES are tested in WET and THROTTLED only. -/
def condsOf (z : Zone) (x : Sample) : List Bool :=
  [z.serving && condTemp z x, z.serving && condFlow z x, z.serving && condPres z x, condLeak z x]

def packConds (l : List Bool) : BitVec 4 :=
  BitVec.ofNat 4 ((if l.getD 0 false then 1 else 0) + (if l.getD 1 false then 2 else 0) +
    (if l.getD 2 false then 4 else 0) + (if l.getD 3 false then 8 else 0))

/-- The tests of Table 10.5: new conditions raise their traps, and the lowest row that applies gives the action; after a
FILLFAIL of the same sample, `act` is false, since no row lies below that one. A condition acts in the sample in which it
begins, and a LEAK that goes on starts no evacuation later (DESIGN CHOICE, assumption log 119). -/
def State.sampleConds (s : State) (i : Nat) (x : Sample) (act : Bool) : State :=
  let z := s.zone i
  let l := condsOf z x
  let new := (List.range 4).filter fun n => l.getD n false && !z.conds.getLsbD n
  let z1 := { z with
    conds := packConds l
    flowFrom := if l.getD 1 false && !z.conds.getLsbD 1 then s.now else z.flowFrom
    cool := if coolSample z x && !l.getD 1 false then z.cool + 1 else 0 }
  let s1 := (s.setZone i z1).raiseTraps i (new.map (· + 1))
  if ¬ act then s1
  else if new.contains 3 then s1.evacuate i true
  else if new.contains 2 then s1.enterFault i
  else if z.serving ∧ (new.contains 0 ∨ new.contains 1) then
    s1.setZone i { (s1.zone i).setState zThrottled with cool := 0 }
  else if z.state = zThrottled ∧ 10 ≤ z1.cool then s1.setZone i ((s1.zone i).setState zWet)
  else s1

/-- A zone in FAULT under a CMD of 3 counts samples that meet no condition (R272). -/
def State.sampleClear (s : State) (i : Nat) (x : Sample) : State :=
  let z := s.zone i
  if z.state ≠ zFault ∨ ¬ z.clearing then s
  else
    let closed := z.grant = 0
    let good := !(condTemp z x || condFlow z x || condPres z x || condLeak z x) &&
      (!decide closed || decide (x.wetInner.toNat ≤ z.dryl))
    if ¬ good then s.setZone i { z with count := 0 }
    else if z.count + 1 < 10 then s.setZone i { z with count := z.count + 1 }
    else if closed then s.setZone i { z.setState zDry with clearing := false, count := 0 }
    else if z.min ≤ z.grant then s.setZone i { z.setState zWet with clearing := false, count := 0 }
    else s

/-- Step 5 of an evacuation: 100 dry samples in a row end it (Table 10.6). -/
def State.sampleDry (s : State) (i : Nat) (x : Sample) : State :=
  let z := s.zone i
  if z.state ≠ zEvacuating ∨ z.phase ≠ 5 then s
  else if z.dryl < x.wetInner.toNat then s.setZone i { z with count := 0 }
  else if z.count + 1 < 100 then s.setZone i { z with count := z.count + 1 }
  else
    let z1 := (z.setPhase 0).setState (if z.leak then zFault else zDry)
    s.setZone i { z1 with count := 0, fails := 0, leak := false }

/-- A sample of a running flow check fails it. -/
def fillBad (z : Zone) (x : Sample) : Bool :=
  decide (100 * x.flow.toNat < z.flim * flowOf z.min) || condPres z x || condLeak z x

/-- The flow check of a refill (R274, step 4). -/
def State.sampleFill (s : State) (i : Nat) (x : Sample) : State :=
  let z := s.zone i
  if z.state ≠ zDry ∨ z.phase ≠ 7 ∨ z.sub ≠ 3 then s
  else if fillBad z x then s.fillFail i
  else if z.count + 1 < 100 then s.setZone i { z with count := z.count + 1 }
  else s.refilled i

/-- Event SENSOR_SAMPLE: the millisecond's sample of zone i (DESIGN CHOICE, assumption log 51). -/
def execSensorSample (i : Nat) (x : Sample) (s : State) : Out :=
  let z := s.zone i
  let failed := z.state == zDry && z.phase == 7 && z.sub == 3 && fillBad z x
  let s1 := s.setZone i { z with sample := x }
  zoneTurn s (.next (((((s1.sampleSettle i x).sampleDry i x).sampleFill i x).sampleClear i x).sampleConds i x (!failed)))

/-- Event SETTLE_TIMEOUT: zone i has not settled 20 ms after it accepted a request: the FLOW trap, THROTTLED, and the
request's ST 6 (R265). -/
def execSettleTimeout (i : Nat) (s : State) : Out :=
  let z := s.zone i
  if z.req.isSome ∧ z.serving ∧ ¬ z.setl ∧ z.acceptAt + 20 * s.ms ≤ s.now then
    let s1 := s.interrupt i
    let y := s1.zone i
    let fresh := !z.conds.getLsbD 1
    let s2 := s1.setZone i
      { y.setState zThrottled with
        conds := y.conds ||| 2, cool := 0, flowFrom := if fresh then s.now else y.flowFrom }
    zoneTurn s (.next (if fresh then s2.raiseTraps i [2] else s2))
  else .next s

/-- Event FLOW_FAULT_TIMEOUT: a FLOW condition has lasted 100 ms (Table 10.5). -/
def execFlowFaultTimeout (i : Nat) (s : State) : Out :=
  let z := s.zone i
  if z.serving ∧ z.conds.getLsbD 1 ∧ z.flowFrom + 100 * s.ms ≤ s.now then zoneTurn s (.next (s.enterFault i)) else .next s

/-! ## Writes of the allocation table (R261, R272 to R274) -/

/-- A CMD of 1: an evacuation, from WET, THROTTLED or FAULT. -/
def State.cmdEvacuate (s : State) (i : Nat) : State :=
  let x := (s.zone i).state
  if x = zWet ∨ x = zThrottled ∨ x = zFault then s.evacuate i false else s

/-- A CMD of 3: a zone in FAULT starts to count samples. -/
def State.cmdClear (s : State) (i : Nat) : State :=
  let z := s.zone i
  if z.state = zFault then s.setZone i { z with clearing := true, count := 0 } else s

/-- A write of CATA: MIN, MAX, OWNER and OWNV are taken, TRAPS cleared by ones, and then CMD acts
(DEDUCED, assumption log 59). -/
def State.writeCata (s : State) (i : Nat) (v : Word) : State :=
  let z := s.zone i
  let w := mergeBits z.cata 0x00FF_FF00_3F80_0000 v
  let s1 := s.setZone i { z with cata := w &&& ~~~ (v &&& 0xF000) }
  match fieldOf v 8 4 with
  | 1 => s1.cmdEvacuate i
  | 2 => s1.refill i
  | 3 => s1.cmdClear i
  | _ => s1

def State.writeCatb (s : State) (i : Nat) (v : Word) : State :=
  let z := s.zone i
  s.setZone i { z with catb := mergeBits z.catb 0xFFFF_FFFF_FFFF_F0FF v }

/-- Event ZONE_EVACUATE: a CATA write of CMD 1. -/
def execZoneEvacuate (z : Nat) (s : State) : Out := zoneTurn s (.next (s.cmdEvacuate z))
/-- Event ZONE_REFILL: a CATA write of CMD 2 (DEDUCED, assumption log 53). -/
def execZoneRefill (z : Nat) (s : State) : Out := zoneTurn s (.next (s.refill z))
/-- Event ZONE_CLEAR_FAULT: a CATA write of CMD 3. -/
def execZoneClearFault (z : Nat) (s : State) : Out := zoneTurn s (.next (s.cmdClear z))

end Sys2Proof.Machine
end

