-- ==== Sys2Proof/Machine/Queues.lean ====
section
/-! DEFINITION. Machine/Queues.lean: work-queue descriptors and the held translations of their rings, the errors that stop
a queue, the invalidation of translations, and the parser's order (R198 to R204, R304, R347, R356, R424). -/

namespace Sys2Proof.Machine

/-! ## Accesses of a die's walker and parser -/

/-- A translation for the die's own walker and parser, which walks in hardware (R204, R347, R349)
(DEDUCED, assumption log 38). -/
def State.xlateDie (s : State) (p : Nat) (perm : Perm) (va : Word) : Except Cause Nat :=
  let a := va.toNat
  if 2 ^ 48 ≤ a then .error (xlateCause 5)
  else if fieldOf (s.part p).pd0 63 1 = 0 then .error (xlateCause 8)
  else
    s.walked p perm a

/-- The first fault among some pieces: translation, the place of the access, poison that is read. -/
def State.dieFault (s : State) (p : Nat) (perm : Perm) : List (Word × Nat) → Option Cause
  | [] => none
  | (va, n) :: r =>
    match s.xlateDie p perm va with
    | .error c => some c
    | .ok ra =>
      match s.placeFault p perm.st ra with
      | some c => some c
      | none => if perm.r && s.poisoned ra n then some { cls := 18, sub := 1 } else s.dieFault p perm r

/-- Where a checked address lies. -/
def State.dieAddr (s : State) (p : Nat) (perm : Perm) (va : Word) : Nat :=
  match s.xlateDie p perm va with
  | .ok ra => ra
  | .error _ => 0

def State.dieReadPieces (s : State) (p : Nat) (perm : Perm) (l : List (Word × Nat)) : List Byte :=
  l.flatMap fun x => s.rawRead (s.dieAddr p perm x.1) x.2

def State.dieRead (s : State) (p : Nat) (perm : Perm) (va : Word) (n : Nat) : List Byte :=
  s.dieReadPieces p perm (piecesOf va n)

def State.dieWritePieces (s : State) (p : Nat) (perm : Perm) : List (Word × Nat) → List Byte → State
  | [], _ => s
  | (va, n) :: r, l => (s.store (s.dieAddr p perm va) (l.take n)).dieWritePieces p perm r (l.drop n)

def State.dieWrite (s : State) (p : Nat) (perm : Perm) (va : Word) (l : List Byte) : State :=
  s.dieWritePieces p perm (piecesOf va l.length) l

/-- An atomic add of 8 bytes with release semantics, or the fault that keeps it from performing. -/
def State.dieAdd (s : State) (p : Nat) (va addend : Word) : Except Cause State :=
  match s.dieFault p .both (piecesOf va 8) with
  | some c => .error c
  | none =>
    .ok (s.dieWrite p .both va (bytesLE 8 (wordLE (s.dieRead p .both va 8) + addend).toNat))

/-! ## The ring (R200, R304) -/

def Queue.base (q : Queue) : Nat := fieldOf q.d0 12 36 * 4096
def Queue.die (q : Queue) : Nat := fieldOf q.d0 6 2
def Queue.ringPages (q : Queue) : Nat := 2 ^ q.logn * 256 / 4096

/-- The physical pages of the whole ring, mapped readable and writable; none when a page is not mapped. -/
def State.mapRing (s : State) (p : Nat) (q : Queue) : Option (List Nat) :=
  (List.range q.ringPages).mapM fun i =>
    match s.xlateDie p .both (BitVec.ofNat 64 (q.base + 4096 * i)) with
    | .ok ra => some ra
    | .error _ => none

def Queue.setState (q : Queue) (x : Nat) : Queue := { q with d0 := withField q.d0 0 3 x }
def Queue.setCause (q : Queue) (x : Nat) : Queue := { q with d1 := withField q.d1 60 4 x }

/-! ## Errors (R204) -/

/-- The packet in progress is given up: its watches and its forwarded request with it. -/
def State.dropPacket (s : State) (p q : Nat) : State :=
  let s1 := s.setQueue p q { s.queue p q with parse := .idle, got := [] }
  { s1 with
    watches := s1.watches.filter fun w => w.fence != some (16 * p + q)
    hostReqs := s1.hostReqs.filter fun r => r.work != .packet p q }

/-- The queue stops in ERROR at its head packet, and a record of class 20 goes to the partition supervisor. -/
def State.queueError (s : State) (p q cause : Nat) : State :=
  let s1 := s.dropPacket p q
  let x := s1.queue p q
  let r : Record :=
    { cls := 20, sub := BitVec.ofNat 8 cause, unit := .none, part := BitVec.ofNat 6 p, core := 0, ctx := 0, rst := false,
      pc := 0, addr := BitVec.ofNat 64 (q % 16 * 2 ^ 16 + x.head), w3 := 0, cut := [], tok := [], cutv := false,
      set := false, budg := 0, psv := 0, home := 2048, gen := 0, at_ := s.now, addPending := false, thread := none }
  (s1.setQueue p q ((x.setState 4).setCause cause)).postPriv p r

/-- The parser translates the whole ring of a queue that is RUNNING or holds a translation: one that is not fully mapped puts
the queue in ERROR with CAUSE 4, and no translation is then held (R304). That stop raises its record as every other stop
in ERROR does. DEDUCED (assumption log 30). -/
def State.translateRing (s : State) (p q : Nat) : State :=
  match s.mapRing p (s.queue p q) with
  | some l => s.setQueue p q { s.queue p q with ring := some l }
  | none => (s.setQueue p q { s.queue p q with ring := none }).queueError p q 4

/-- The queue becomes RUNNING. A translation that it holds, from an earlier RUNNING, stands until it is DISABLED: the ring is
translated once. CAUSE becomes 0 at each way into RUNNING, the one from DISABLED among them. DEDUCED (assumption log 30). -/
def State.startQueue (s : State) (p q : Nat) : State :=
  let x := s.queue p q
  let s1 := s.setQueue p q ((x.setState 1).setCause 0)
  if x.ring.isSome then s1 else s1.translateRing p q

/-! ## Writes of STATE (R199, R225) -/

def State.wqEnable (s : State) (p q : Nat) : State :=
  let x := s.queue p q
  if x.state = 0 then
    (s.setQueue p q { x with d1 := withField x.d1 16 32 0, parse := .idle, got := [] }).startQueue p q
  else s

def State.wqSuspend (s : State) (p q : Nat) : State :=
  let x := s.queue p q
  if x.state = 1 then (s.setQueue p q (x.setState 2)).suspendDone p q else s

def State.wqResume (s : State) (p q : Nat) : State :=
  let x := s.queue p q
  if x.state = 3 ∨ x.state = 4 then s.startQueue p q else s

def State.wqDisable (s : State) (p q : Nat) : State :=
  let s1 := s.dropPacket p q
  s1.setQueue p q { (s1.queue p q).setState 0 with ring := none }

/-- BASE, LOGN and DIE of a write that finds the queue DISABLED; a LOGN outside 4 to 12 is not taken. -/
def Queue.takeFields (x : Queue) (v : Word) : Queue :=
  if x.state = 0 then
    let w := mergeBits x.d0 0x0000_FFFF_FFFF_F0C0 v
    let n := fieldOf v 8 4
    { x with d0 := if 4 ≤ n ∧ n ≤ 12 then withField w 8 4 n else w }
  else x

/-- A write of WQD0: the fields first, then STATE (R199). -/
def State.writeWqd0 (s : State) (p q : Nat) (v : Word) : State :=
  let s1 := s.setQueue p q ((s.queue p q).takeFields v)
  match fieldOf v 0 3 with
  | 0 => s1.wqDisable p q
  | 1 => if (s1.queue p q).state = 0 then s1.wqEnable p q else s1.wqResume p q
  | 2 => s1.wqSuspend p q
  | _ => s1

/-- Event WQ_ENABLE: a write of RUNNING with the fields of `v` to a DISABLED queue. -/
def execWqEnable (p q : Nat) (v : Word) (s : State) : Out :=
  if (s.queue p q).state = 0 then .next ((s.setQueue p q ((s.queue p q).takeFields v)).wqEnable p q) else .next s

/-- A job of the queue has passed a NODE in this cycle, which a request to suspend of the same cycle has to come before
(R226). -/
def State.nodePassed (s : State) (p q : Nat) : Bool := (s.queue p q).noded == s.now + 1

/-- Event WQ_SUSPEND: a write of SUSPENDING; the fields of `v` are ignored. -/
def execWqSuspend (p q : Nat) (_v : Word) (s : State) : Out := .next (if s.nodePassed p q then s else s.wqSuspend p q)

/-- Event WQ_RESUME: a write of RUNNING to a SUSPENDED or ERROR queue. -/
def execWqResume (p q : Nat) (_v : Word) (s : State) : Out := .next (s.wqResume p q)

/-- Event WQ_DISABLE: a write of 0; fields of `v` are taken when the queue was DISABLED already. -/
def execWqDisable (p q : Nat) (v : Word) (s : State) : Out :=
  .next ((s.setQueue p q ((s.queue p q).takeFields v)).wqDisable p q)

/-- CAUSE 6 for poison, 4 for every other fault of an access (R204). -/
def causeOf (c : Cause) : Nat := if c.cls = 18 then 6 else 4

/-! ## Invalidation of translations (R304, R354, R356) -/

/-- The pages that a write of PD3 names: all of them, or a page of a size. -/
structure Named where
  all : Bool
  size : Nat
  va : Nat
deriving DecidableEq, Repr

def Named.of (v : Word) : Named :=
  { all := fieldOf v 63 1 == 1, size := fieldOf v 48 2,
    va := fieldOf v 12 36 * 4096 / pageSize (fieldOf v 48 2) * pageSize (fieldOf v 48 2) }

/-- The named page meets [a, a + n). -/
def Named.meets (m : Named) (a n : Nat) : Bool :=
  m.all || decide (m.va < a + n ∧ a < m.va + pageSize m.size)

def Named.drop (m : Named) (p : Nat) (l : List Trans) : List Trans :=
  l.filter fun t => !(t.part == p && m.meets t.va (pageSize t.size))

/-- The queues of p whose held ring translation the write names. -/
def State.namedRings (s : State) (p : Nat) (m : Named) : List Nat :=
  (List.range 16).filter fun q =>
    (s.queue p q).ring.isSome && m.meets (s.queue p q).base ((s.queue p q).ringPages * 4096)

/-- No access of the job of context h that has its translation is still to perform: a late load, a row in pieces, a load
block. -/
def State.accessesDone (s : State) (h : Nat) : Bool :=
  (s.cox (.cox h)).late.isEmpty && ((List.range 4).all fun k => (s.cox (.spore h k)).late.isEmpty) &&
    (s.acc h).moving.isNone && (s.ctx h).blocks.all (·.filled)

/-- What a write of PD3p waits for: the accesses of p that have not performed, and parsers that stand inside a packet
(R304, R356). -/
def State.invalidateReady (s : State) (p : Nat) (m : Named) : Bool :=
  (s.posted.all fun x => x.part != some p) &&
    (s.ctxs.all fun x => s.partOf x.1 != p || s.accessesDone x.1) &&
    ((s.namedRings p m).all fun q => (s.queue p q).parse == .idle)

/-- The walks of p end with their results discarded, at the host too; the accesses that waited for them walk again. -/
def State.dropWalks (s : State) (p : Nat) : State :=
  { s with
    dies := s.dies.map fun x => (x.1, { x.2 with walks := x.2.walks.filter fun w => w.part != p })
    hostReqs := s.hostReqs.filter fun r => match r.work with | .walk _ x _ => x != p | _ => true
    refusedWalks := s.refusedWalks.filter fun x => x.part != p }

/-- The cached translations that a write names are gone from every cache, the walks of p have ended with their results
discarded, and the named rings are translated again (DEDUCED, assumption log 30). -/
def State.invalidate (s : State) (p : Nat) (m : Named) : State :=
  let s0 := s.dropWalks p
  let s1 := { s0 with
    cores := s0.cores.map fun x => (x.1, { x.2 with tlb := m.drop p x.2.tlb })
    crews := s0.crews.map fun x => (x.1, { x.2 with tlb := m.drop p x.2.tlb }) }
  (s.namedRings p m).foldl (fun y q => y.translateRing p q) s1

/-- A write of PD3p, or `none` while it has to wait. -/
def State.writePd3 (s : State) (p : Nat) (v : Word) : Option State :=
  let m := Named.of v
  if s.invalidateReady p m then some (s.invalidate p m) else none

def waiting (s : State) : Option State → Out
  | some s' => .next s'
  | none => .next s

/-- Event INVALIDATE_PAGE: a write of `v`, with ALL clear, to PD3p performs. -/
def execInvalidatePage (p : Nat) (v : Word) (s : State) : Out := waiting s (s.writePd3 p (withField v 63 1 0))

/-- Event INVALIDATE_ALL: a write with ALL to PD3p performs. -/
def execInvalidateAll (p : Nat) (s : State) : Out := waiting s (s.writePd3 p 0x8000_0000_0000_0000)

/-! ## Partition enable, keys and seeds (R345 to R347) -/

def Part.en (x : Part) : Bool := fieldOf x.pd0 63 1 == 1
def Part.keyv (x : Part) : Bool := fieldOf x.pd1 63 1 == 1
def Part.seedv (x : Part) : Bool := fieldOf x.pd1 62 1 == 1
def Part.err (x : Part) : Part := { x with pd1 := withField x.pd1 61 1 1 }

/-- A job of p is resident, or an engine thread of p is live. -/
def State.partBusy (s : State) (p : Nat) : Bool :=
  s.ctxs.any fun x =>
    (match x.2.job with | some j => j.nest.part == p | none => false) || x.2.copies.any fun y => y.part == p && x.1 < 1024

def State.writePd0 (s : State) (p : Nat) (v : Word) : State :=
  let x := s.part p
  let en := fieldOf v 63 1 = 1
  let ignored := (en ∧ ¬ x.en ∧ ¬ (x.keyv ∧ x.seedv)) ∨ (¬ en ∧ s.partBusy p) ∨
    (x.en ∧ fieldOf v 12 28 ≠ fieldOf x.pd0 12 28)
  if ignored then s.setPart p x.err
  else s.setPart p { x with pd0 := mergeBits x.pd0 0x8000_00FF_FFFF_F000 v }

def State.writePd1 (s : State) (p : Nat) (v : Word) : State :=
  let x := s.part p
  s.setPart p { x with pd1 := mergeBits (x.pd1 &&& ~~~ (v &&& 0x2000_0000_0000_0000)) 0xFFFF v }

/-- KST registers of service core n from `i` on, as one number. -/
def Service.keyBits (x : Service) (i n : Nat) : Nat :=
  (List.range n).foldr (fun k acc => acc * 2 ^ 64 + (x.kst.get (i + k) 0).toNat) 0

/-- PD2p commands 1 to 3, by service core n (Table 15.4). The lines of p's frames are read under the new key from then on
(R357). -/
def State.keyLoad (s : State) (n p : Nat) : State :=
  let x := s.part p
  if x.en then s.setPart p x.err
  else
    let s1 := (s.setPart p
      { x with key := BitVec.ofNat 512 ((s.svc n).keyBits 0 8), pd1 := withField x.pd1 63 1 1 }).rekey s s.ownedFrames
    s1.setSvc n { s1.svc n with kst := [] }

def State.seedLoad (s : State) (n p : Nat) : State :=
  let x := s.part p
  if x.en then s.setPart p x.err
  else
    let s1 := s.setPart p
      { x with seed := BitVec.ofNat 256 ((s.svc n).keyBits 0 4), pd1 := withField x.pd1 62 1 1 }
    s1.setSvc n { s1.svc n with kst := [] }

def State.keyErase (s : State) (p : Nat) : State :=
  let x := s.part p
  if x.en then s.setPart p x.err
  else (s.setPart p { x with key := 0, seed := 0, pd1 := withField x.pd1 62 2 0 }).rekey s s.ownedFrames

def State.writePd2 (s : State) (n p : Nat) (v : Word) : State :=
  match fieldOf v 0 4 with
  | 1 => s.keyLoad n p
  | 2 => s.seedLoad n p
  | 3 => s.keyErase p
  | _ => s

/-- Event PD0_WRITE. -/
def execPd0Write (p : Nat) (v : Word) (s : State) : Out := .next (s.writePd0 p v)
/-- Event KEY_LOAD: PD2p command 1 by service core n. -/
def execKeyLoad (n p : Nat) (s : State) : Out := .next (s.keyLoad n p)
/-- Event SEED_LOAD: PD2p command 2 by service core n. -/
def execSeedLoad (n p : Nat) (s : State) : Out := .next (s.seedLoad n p)
/-- Event KEY_ERASE: PD2p command 3. -/
def execKeyErase (_n p : Nat) (s : State) : Out := .next (s.keyErase p)

/-! ## LLC ways (R360 to R363) -/

def Slice.state (x : Slice) : Nat := fieldOf x.wpr 62 2
def Slice.lend (x : Slice) : Nat := fieldOf x.wpr 0 4
def Slice.owner (x : Slice) : Nat := fieldOf x.wpr 16 6

/-- A write of WPRs (R361) (DEDUCED, assumption log 60). -/
def State.writeWpr (s : State) (i : Nat) (v : Word) : State :=
  let x := s.slice i
  let w := fieldOf v 0 4
  let clear := x.wpr &&& ~~~ (v &&& 0x2000_0000_0000_0000)
  if x.state = 0 ∧ 1 ≤ w then
    s.setSlice i { x with wpr := withField (mergeBits clear 0x3F_000F v) 62 2 1, lent := w }
  else if x.state = 2 ∧ w = 0 then
    s.setSlice i { x with wpr := withField (withField clear 62 2 3) 0 4 0 }
  else if x.state = 0 then s.setSlice i { x with wpr := mergeBits clear 0x3F_0000 v }
  else if x.state = 2 ∧ w = x.lend ∧ fieldOf v 16 6 = x.owner then s.setSlice i { x with wpr := clear }
  else s.setSlice i { x with wpr := withField x.wpr 61 1 1 }

/-- The completion add of a lending or a return; one that cannot perform is dropped, and a record of kind 12 is written
(R362). -/
def State.completionAdd (s : State) (i : Nat) (ret : Bool) : State :=
  let a := fieldOf (s.slice i).wpra 3 37 * 8
  if a = 0 then s
  else
    let drop := fun (reason : Nat) => s.logEvent 12 0 i
      [BitVec.ofNat 64 a, BitVec.ofNat 64 (i % 64 + (if ret then 256 else 0)), BitVec.ofNat 64 reason, 0]
    match s.xlatePhys (BitVec.ofNat 64 a) with
    | .ok ra =>
      if (s.placeFault (s.carried 1024 (BitVec.ofNat 64 a)) true ra).isSome then drop 1
      else if s.poisoned ra 8 then drop 2
      else s.store ra (bytesLE 8 (s.readWord ra + 1).toNat)
    | _ => drop 1

/-- The bytes of slice i's scratch window are zeroed (R362, R363). -/
def zeroWindow (m : Memory) (i : Nat) : Memory :=
  let lo := 0x4000000000 + i * 0x1000000
  m.filter fun c => !(decide (lo ≤ c.1 ∧ c.1 < lo + 0x1000000))

def State.zeroSlice (s : State) (i : Nat) : State :=
  let lo := 0x4000000000 + i * 0x1000000
  { s with
    mem := zeroWindow s.mem i
    poison := s.poison.filter fun pc => !(decide (lo ≤ 16 * pc ∧ 16 * pc < lo + 0x1000000)) }

/-- Event WAY_LEND: a write of LEND 1 to 15 in CACHE. -/
def execWayLend (sl : Nat) (v : Word) (s : State) : Out :=
  if (s.slice sl).state = 0 ∧ 1 ≤ fieldOf v 0 4 then .next (s.writeWpr sl v) else .next s
/-- Event WAY_RETURN: a write of LEND 0 in LENT. -/
def execWayReturn (sl : Nat) (v : Word) (s : State) : Out :=
  if (s.slice sl).state = 2 ∧ fieldOf v 0 4 = 0 then .next (s.writeWpr sl v) else .next s
/-- Event WPR_OWNER_SET: a write of LEND 0 in CACHE. -/
def execWprOwnerSet (sl : Nat) (v : Word) (s : State) : Out :=
  if (s.slice sl).state = 0 ∧ fieldOf v 0 4 = 0 then .next (s.writeWpr sl v) else .next s

/-- A line stands in a way that slice x lends. -/
def Slice.inLent (x : Slice) (k : Nat) : Bool := decide (16 - x.lent ≤ k % 16)

/-- The lines of the lent ways leave them: dirty ones are written back, and the ways are invalid then (R362, steps 2 and 3).
The lines are distinct, and their order shows nowhere else. -/
def State.clearWays (s : State) (i : Nat) : State :=
  let x := s.slice i
  let gone := (x.ways.filter fun e => x.inLent e.1).filterMap (·.2)
  let m := gone.foldl (fun m l => ({ s with mem := m } : State).memWithout l) s.mem
  let changed := (gone.filter fun l => !(l.dirty || l.key == s.lineKey (128 * l.num))).map (·.num)
  { s with mem := m, kept := if changed.isEmpty then s.kept else s.keptWith changed.contains }.setSlice i
    { x with ways := x.ways.filter fun e => !x.inLent e.1 }

/-- Event LEND_COMPLETE: the ways have been written back, invalidated and zeroed: LENT, and the completion add (R362). -/
def execLendComplete (sl : Nat) (s : State) : Out :=
  if (s.slice sl).state = 1 then
    let s1 := s.clearWays sl
    let x := s1.slice sl
    .next (((s1.setSlice sl { x with wpr := withField x.wpr 62 2 2 }).zeroSlice sl).completionAdd sl false)
  else .next s

/-- No row access that has begun has a piece in slice i's window still to perform: a load fails at its next piece, a store
goes on to its end, and the return waits for them (R299, R363) (DESIGN CHOICE, assumption log 89). -/
def State.windowQuiet (s : State) (i : Nat) : Bool :=
  let lo := 0x4000000000 + i * 0x1000000
  s.accs.all fun x => match x.2.moving with
    | none => true
    | some m => m.bytes.isEmpty || !(m.left.any fun y => decide (lo ≤ y.1 ∧ y.1 < lo + 0x1000000))

/-- Every translation of any partition to slice i's window is gone (R363, step 3). A transposed store that waits for its
rows is checked and translated again. -/
def State.dropWindow (s : State) (i : Nat) : State :=
  let lo := 0x4000000000 + i * 0x1000000
  let keep := fun t : Trans => !(decide (lo < t.pa + pageSize t.size ∧ t.pa < lo + 0x1000000))
  let far := fun m : Moving => !(m.left.any fun x => decide (lo ≤ x.1 ∧ x.1 < lo + 0x1000000))
  { s with
    accs := s.accs.map fun x => (x.1, { x.2 with moving := x.2.moving.filter far })
    cores := s.cores.map fun x => (x.1, { x.2 with tlb := x.2.tlb.filter keep })
    crews := s.crews.map fun x => (x.1, { x.2 with tlb := x.2.tlb.filter keep }) }

/-- Rings held in slice i's window: their queues translate them again, as an invalidation makes them (R304, R363). -/
def State.windowRings (s : State) (i : Nat) : List (Nat × Nat) :=
  let lo := 0x4000000000 + i * 0x1000000
  s.parts.flatMap fun x => x.2.queues.filterMap fun q =>
    match q.2.ring with
    | some l => if l.any fun a => decide (lo ≤ a ∧ a < lo + 0x1000000) then some (x.1, q.1) else none
    | none => none

/-- Event RETURN_COMPLETE: translations to the window are gone, the ways zeroed: CACHE, and the completion add (R363). -/
def execReturnComplete (sl : Nat) (s : State) : Out :=
  let x := s.slice sl
  if x.state = 3 ∧ s.windowQuiet sl ∧ (s.windowRings sl).all (fun q => (s.queue q.1 q.2).parse == .idle) then
    let s1 := ((s.setSlice sl { x with wpr := withField x.wpr 62 2 0, lent := 0 }).zeroSlice sl).dropWindow sl
    .next (((s.windowRings sl).foldl (fun y q => y.translateRing q.1 q.2) s1).completionAdd sl true)
  else .next s

/-! ## The parser's order (R200, R424) -/

/-- The words of the packet at the head of a queue, through its held ring. -/
def State.headWords (s : State) (q : Queue) : List Word :=
  match q.ring with
  | none => []
  | some l => wordsOf 32 (s.rawRead (ringAddr l q.logn q.head) 256)

def State.headKind (s : State) (q : Queue) : Nat :=
  match q.ring with
  | none => 0
  | some l => (s.readWord (ringAddr l q.logn q.head)).toNat % 16

/-- A parser may take the head packet of the queue: RUNNING or SUSPENDING, written, none in progress. -/
def State.servable (s : State) (d : Nat) (q : Queue) : Bool :=
  (q.state == 1 || q.state == 2) && q.die == d && q.parse == .idle && s.headKind q != 0

/-- The descriptor numbers 16p + q of the queues that die d can serve. -/
def State.candidates (s : State) (d : Nat) : List Nat :=
  s.parts.flatMap fun x => x.2.queues.filterMap fun q =>
    if s.servable d q.2 then some (16 * x.1 + q.1) else none

/-- Distance of descriptor n after the one served last. -/
def roundDistance (lastQ n : Nat) : Nat := (n + 2048 - lastQ - 1) % 1024

/-- The queue that die d serves next, round-robin. -/
def State.parserNext (s : State) (d : Nat) : Option Nat :=
  (s.candidates d).foldl (fun b n =>
    match b with
    | none => some n
    | some m => if roundDistance (s.die d).lastQ n < roundDistance (s.die d).lastQ m then some n else some m) none

end Sys2Proof.Machine
end

