-- ==== Sys2Proof/Machine/Walker.lean ====
section
/-! DEFINITION. Machine/Walker.lean: loop-nest records and their checks, the packets of the work queues, the placement of
iterations, GO, retirement and budgets (R191 to R204, R225 to R229). -/

namespace Sys2Proof.Machine

/-! ## Loop-nest records (Table 8.1, R192, R193) -/

/-- Reads a record's words; `p`, `q` and `ring` are the LAUNCH's partition, queue and ring index. -/
def nestOf (w : List Word) (addr : Word) (p q ring : Nat) : Nest :=
  let g := fun i => w.getD i 0
  let levels := fieldOf (g 0) 0 3
  { addr := addr, part := p, queue := q, ring := ring
    mbtag := BitVec.ofNat 16 (fieldOf (g 0) 48 16)
    cool := fieldOf (g 0) 40 8
    spores := fieldOf (g 0) 32 3
    share := if fieldOf (g 0) 16 6 = 0 then 64 else fieldOf (g 0) 16 6
    group := fieldOf (g 0) 8 8
    tier := fieldOf (g 0) 6 2
    levels := levels
    spad := fieldOf (g 1) 16 22
    accRows := fieldOf (g 1) 0 9
    budget := fieldOf (g 2) 0 40
    ctl := g 3, acc := g 4, vec := g 5, handler := g 6, counter := g 7
    trips := (List.range levels).map fun l => fieldOf (g (8 + l)) 0 32
    ranks := (List.range levels).map fun l => fieldOf (g (8 + l)) 32 3
    save := g 14 }

def Nest.total (n : Nest) : Nat := n.trips.foldl (· * ·) 1

/-- The largest GROUP of a tier (R192). -/
def groupMax (tier : Nat) : Nat := if tier = 0 then 255 else if tier = 1 then 63 else if tier = 2 then 3 else 0

/-- The reserved fields of a record are zero. -/
def nestReserved (w : List Word) : Bool :=
  let g := fun i => w.getD i 0
  fieldOf (g 0) 35 5 == 0 && fieldOf (g 0) 30 2 == 0 && fieldOf (g 0) 22 2 == 0 && fieldOf (g 0) 3 3 == 0 &&
    fieldOf (g 1) 38 26 == 0 && fieldOf (g 1) 9 7 == 0 && fieldOf (g 2) 40 24 == 0 &&
    ((List.range 6).all fun l => fieldOf (g (8 + l)) 35 29 == 0) && ((List.range 17).all fun i => g (15 + i) == 0)

/-- Every address of a record is aligned. -/
def nestAligned (n : Nest) : Bool :=
  ([n.ctl, n.acc, n.vec, n.handler, n.counter].all fun a => a.toNat % 8 == 0) && n.save.toNat % 128 == 0 &&
    n.addr.toNat % 256 == 0

/-- The checks of R192: 0, or the CAUSE 3 or 5 of the first failure; those of CAUSE 3 come before those of CAUSE 5
(DESIGN CHOICE, assumption log 115). -/
def nestCheck (w : List Word) (n : Nest) : Nat :=
  let okLevels := decide (1 ≤ n.levels ∧ n.levels ≤ 6)
  let okRanks := (List.range n.levels).all fun r => n.ranks.contains r
  let okRest := (List.range 6).all fun l => decide (l < n.levels) || w.getD (8 + l) 0 == 0
  let ok := nestReserved w && okLevels && okRanks && okRest && decide (n.total < 2 ^ 40) && n.accRows % 32 == 0 &&
    nestAligned n && n.budget != 0 && fieldOf (w.getD 0 0) 24 6 == n.part && decide (n.group ≤ groupMax n.tier)
  if ¬ ok then 3
  else if 256 < n.accRows ∨ 0x200000 < n.spad ∨ 4 < n.spores then 5
  else 0

/-- The index of each level at sequence number `seq`: rank 0 outermost, the highest rank innermost (R193). -/
def Nest.index (n : Nest) (seq l : Nat) : Nat :=
  let r := n.ranks.getD l 0
  let inner := ((List.range n.levels).filter fun k => r < n.ranks.getD k 0).map fun k => n.trips.getD k 1
  seq / inner.foldl (· * ·) 1 % n.trips.getD l 1

/-- The cores of a record's placement group (R195). -/
def Nest.cores (n : Nest) : List Nat :=
  if n.tier = 0 then [n.group]
  else if n.tier = 1 then (List.range 4).map (4 * n.group + ·)
  else if n.tier = 2 then (List.range 64).map (64 * n.group + ·)
  else List.range 256

/-- The group's cores in search order, from the one after the core of the record's previous iteration. -/
def Nest.order (n : Nest) (last : Option Nat) : List Nat :=
  match last with
  | none => n.cores
  | some g => (n.cores.filter fun c => g < c) ++ n.cores.filter fun c => c ≤ g

/-! ## Free cores (R22, R23, R195, R393, R420) -/

/-- The resident jobs of core g, with their contexts. -/
def State.jobsOn (s : State) (g : Nat) : List (Nat × Job) :=
  (List.range 4).filterMap fun c => match (s.ctx (4 * g + c)).job with | some j => some (c, j) | none => none

def State.freeContexts (s : State) (g : Nat) : List Nat :=
  (List.range 4).filter fun c => (s.ctx (4 * g + c)).job.isNone

/-- Scratchpad bytes of a record, rounded up to 4 KiB. -/
def roundSpad (n : Nat) : Nat := (n + 4095) / 4096 * 4096

/-- The ranges [a, a + n) and [b, b + m) do not meet. -/
def apart (a n b m : Nat) : Bool := decide (a + n ≤ b ∨ b + m ≤ a ∨ n = 0 ∨ m = 0)

/-- The 4 KiB-aligned places of a range of `n` bytes that no resident job of core g holds. -/
def State.spadPlaces (s : State) (g n : Nat) : List Nat :=
  ((List.range 512).map (4096 * ·)).filter fun a =>
    decide (a + n ≤ 0x200000) && (s.jobsOn g).all fun x => apart a n x.2.spadBase x.2.spadLen

/-- The places of a run of `n` accumulator rows, at multiples of 32. -/
def State.accPlaces (s : State) (g n : Nat) : List Nat :=
  ((List.range 8).map (32 * ·)).filter fun a =>
    decide (a + n ≤ 256) && (s.jobsOn g).all fun x => apart a n x.2.accBase x.2.nest.accRows

/-- The entries of the slot table in spread order (R206). -/
def bitReverse6 (n : Nat) : Nat :=
  (List.range 6).foldl (fun a i => a * 2 + n / 2 ^ i % 2) 0

def spreadOrder : List Nat := (List.range 64).map bitReverse6

def State.freeSlots (s : State) (g : Nat) : List Nat :=
  spreadOrder.filter fun e => (s.core g).slots.get e 0 == 0

/-- A crew is in service: its bin is ADMITTED and its die has passed test (DEDUCED, assumption log 13). -/
def State.crewServes (s : State) (c : Nat) : Bool :=
  fieldOf (s.crew c).bin 62 2 == 0 && s.boot.passed.getLsbD (c / 16)

/-- Both zones of a crew are WET with a grant of at least `cool`. -/
def State.crewCooled (s : State) (c cool : Nat) : Bool :=
  (List.range 2).all fun i => (s.zone (2 * c + i)).state == zWet && decide (cool ≤ (s.zone (2 * c + i)).grant)

/-- Core g is free for a record (R195). -/
def State.coreFree (s : State) (n : Nest) (g : Nat) : Bool :=
  let used := ((s.jobsOn g).map fun x => x.2.nest.spores).sum
  !(s.freeContexts g).isEmpty && !(s.spadPlaces g (roundSpad n.spad)).isEmpty && !(s.accPlaces g n.accRows).isEmpty &&
    decide (used + n.spores ≤ 4) && decide (n.share ≤ (s.freeSlots g).length) && s.crewServes (g / 4) &&
    s.crewCooled (g / 4) n.cool

/-- The core that the next iteration of a record goes to. -/
def State.findCore (s : State) (n : Nest) (last : Option Nat) : Option Nat := (n.order last).find? (s.coreFree n)

/-! ## Placement (R194 to R196, R206, R227) -/

/-- Places iteration `seq` of a record on core g in this cycle. A core whose four contexts are all free gives context 0, as
the runs of R396 and R399 show; which free context another core gives, and which scratchpad
range and accumulator run, is a free choice (DESIGN CHOICE, assumption log 56). -/
def State.placeJob (s : State) (n : Nest) (seq g : Nat) (img : Option Image) : State :=
  let cs := s.freeContexts g
  let sp := s.spadPlaces g (roundSpad n.spad)
  let ac := s.accPlaces g n.accRows
  let (i, s1) := if cs.length = 4 then (0, s) else s.pick cs.length
  let (j, s2) := s1.pick sp.length
  let (k, s3) := s2.pick ac.length
  let c := cs.getD i 0
  let owned := match img with | some m => n.budget - m.left | none => 0
  let job : Job :=
    { nest := n, seq := seq, image := img, spadBase := sp.getD j 0, spadLen := roundSpad n.spad, accBase := ac.getD k 0,
      phase := .placed s.now, owned := owned, budget := n.budget, warned := decide (n.budget - n.budget / 8 ≤ owned),
      killed := false }
  let h := 4 * g + c
  let s4 := s3.setCtx h { s3.ctx h with job := some job }
  let slots := ((s4.freeSlots g).take n.share).foldl (fun t e => t.set e (c + 1)) (s4.core g).slots
  s4.setCore g { s4.core g with slots := slots }

/-- New iterations of a queue wait while it is SUSPENDING or SUSPENDED (R225, R227). -/
def State.queueHeld (s : State) (n : Nest) : Bool :=
  let x := (s.queue n.part n.queue).state
  x == 2 || x == 3

/-- A switched-out iteration of the record's queue has to be re-placed first (R227). -/
def State.switchedFirst (s : State) (d : Nat) (n : Nest) : Bool :=
  (s.die d).switched.any fun x => x.1.part == n.part && x.1.queue == n.queue

/-- A record whose next iteration can be placed now, with its core. -/
def State.ready1 (s : State) (d : Nat) (a : Active) : Option Nat :=
  if s.queueHeld a.nest || s.switchedFirst d a.nest then none else s.findCore a.nest a.last

/-- The first record from place `rr` on, round-robin, whose next iteration has a free core. -/
def State.pickActive (s : State) (d : Nat) : Option (Nat × Active × Nat) :=
  let x := s.die d
  let n := x.active.length
  (List.range n).findSome? fun i =>
    let k := (x.rr + i) % n
    match x.active[k]? with
    | none => none
    | some a => match s.ready1 d a with | some g => some (k, a, g) | none => none

/-- The walker of die d has placed an iteration in this cycle: it places at most one (R194). -/
def State.hasPlaced (s : State) (d : Nat) : Bool := (s.die d).placed == s.now + 1

/-- Event ITERATION_PLACE: the walker of a die places one iteration. -/
def execIterationPlace (d : Nat) (s : State) : Out :=
  match (if s.hasPlaced d then none else s.pickActive d) with
  | none => .next s
  | some (k, a, g) =>
    let s1 := s.placeJob a.nest a.next g none
    let x := { s1.die d with placed := s.now + 1 }
    let a1 := { a with next := a.next + 1, last := some g }
    if a1.next < a.nest.total then
      .next (s1.setDie d { x with active := x.active.set k a1, rr := k + 1 })
    else .next (s1.setDie d { x with active := x.active.eraseIdx k, rr := k })

/-- A switched-out iteration may go now: its queue runs, no earlier one of its record waits, and a core is free. -/
def State.replaceable (s : State) (d : Nat) (x : Nest × Nat × Image) : Bool :=
  (s.queue x.1.part x.1.queue).state == 1 &&
    ((s.die d).switched.all fun y => y.1.addr != x.1.addr || y.1.ring != x.1.ring || decide (x.2.1 ≤ y.2.1)) &&
    x.1.cores.any (s.coreFree x.1)

/-- Event ITERATION_REPLACE: a switched-out iteration goes to a free core of its record's group, a free choice; the core from
which the record's next iteration is searched for stays (R195, R227) (DESIGN CHOICE, assumption log 56). -/
def execIterationReplace (d : Nat) (s : State) : Out :=
  match (if s.hasPlaced d then none else (s.die d).switched.find? (s.replaceable d)) with
  | none => .next s
  | some x =>
    let gs := x.1.cores.filter (s.coreFree x.1)
    let (i, s1) := s.pick gs.length
    let s2 := s1.placeJob x.1 x.2.1 (gs.getD i 0) (some x.2.2)
    .next (s2.setDie d { s2.die d with placed := s.now + 1, switched := (s2.die d).switched.erase x })

/-! ## GO (R196, R208, R227) -/

/-- Pages of the job's scratchpad range that a job of another partition held last. -/
def foreignPages (t : Tab Nat) (p first n : Nat) : List Nat :=
  ((List.range n).map (first + ·)).filter fun i => t.get i 0 != 0 && t.get i 0 != p + 1

/-- Scratchpad bytes and accumulator rows last held by another partition are zeroed, and the job's partition is noted. -/
def State.scrub (s : State) (h : Nat) (j : Job) : State :=
  let g := coreOf h
  let x := s.core g
  let p := j.nest.part
  let pages := foreignPages x.spadPart p (j.spadBase / 4096) (j.spadLen / 4096)
  let runs := foreignPages x.accPart p (j.accBase / 32) (j.nest.accRows / 32)
  let rows := runs.flatMap fun r => (List.range 32).map (32 * r + ·)
  let y := { x with
    spad := x.spad.filter fun c => !pages.contains (c.1 / 4096)
    tile := x.tile.filter fun r => !rows.contains r.1
    spadPart := (List.range (j.spadLen / 4096)).foldl (fun t i => t.set (j.spadBase / 4096 + i) (p + 1)) x.spadPart
    accPart := (List.range (j.nest.accRows / 32)).foldl (fun t i => t.set (j.accBase / 32 + i) (p + 1)) x.accPart }
  { s.setCore g y with
    poison := s.poison.filter fun pc =>
      !((pages.any fun i => decide (spadPiece g (4096 * i) ≤ pc ∧ pc < spadPiece g (4096 * i + 4096))) ||
        rows.any fun r => decide (tilePiece g r 0 ≤ pc ∧ pc < tilePiece g (r + 1) 0)) }

/-- The registers of a new iteration: s1 to s6 the level indices, s7 the sequence number (Table 8.3). -/
def goRegs (j : Job) : Tab Word :=
  ((List.range j.nest.levels).map fun l => (l + 1, BitVec.ofNat 64 (j.nest.index j.seq l))) ++ [(7, BitVec.ofNat 64 j.seq)]

/-- The words of a save image at its re-placement GO; where the walker cannot read it, free values (R227)
(DESIGN CHOICE, assumption log 91). -/
def State.imageWords (s : State) (p : Nat) (m : Image) : List Word :=
  if (s.dieFault p .load (piecesOf m.addr 128)).isNone then wordsOf 16 (s.dieRead p .load m.addr 128)
  else (List.range 16).map fun i => BitVec.ofNat 64 (Config.freeNat (s.free + i))

/-- The registers of a re-placed iteration: s0 to s7 from its image. -/
def imageRegs (w : List Word) : Tab Word := (List.range 7).map fun i => (i + 1, w.getD (i + 3) 0)

def readyAt (pc : Word) : Stream := Stream.reset.restart pc

/-- The job's three streams become ready; after a re-placement ACC and VEC stand at JOIN. -/
def State.goStreams (s : State) (h : Nat) (j : Job) : State :=
  let lane := fun (pc : Word) => match j.image with
    | some _ => { readyAt pc with status := .joined }
    | none => readyAt pc
  let cox := match j.image with
    | some m =>
      let w := s.imageWords j.nest.part m
      { Cox.reset with regs := imageRegs w, run := readyAt (w.getD 10 0) }
    | none => { Cox.reset with regs := goRegs j, run := readyAt j.nest.ctl }
  let s1 := s.setCox (.cox h) cox
  let s2 := (List.range 4).foldl (fun x k => x.setCox (.spore h k) Cox.reset) s1
  let s3 := s2.setAcc h { Acc.reset with run := lane j.nest.acc }
  s3.setVec h { Vec.reset with run := lane j.nest.vec }

/-- The walker issues the GO of context h's job, once 16 cycles have passed since its placement. -/
def State.walkerGo (s : State) (h : Nat) : State :=
  let c := s.ctx h
  match c.job with
  | none => s
  | some j =>
    match j.phase with
    | .placed at_ =>
      if at_ + 16 ≤ s.now then
        let idle : Spore := { state := .idle, tag := 0 }
        let c1 : Ctx := { Ctx.reset with
          job := some { j with phase := .running }, gen := c.gen, copies := c.copies
          sig := if j.image.isSome then BitVec.allOnes 1024 else 0
          spores := (List.range j.nest.spores).map fun k => (k, idle) }
        let s1 := ((s.setCtx h c1).scrub h j).goStreams h j
        if j.image.isSome then { s1 with free := s1.free + 16 } else s1
      else s
    | _ => s

/-- Event WALKER_GO: the walker issues a job's GO, 16 cycles after its placement. -/
def execWalkerGo (h : Nat) (s : State) : Out := .next (s.walkerGo h)

/-- A cycle does not pass before the GOs that are due in it (R196). -/
def State.goCycle (s : State) : State := (s.ctxs.map (·.1)).foldl State.walkerGo s

/-! ## Retirement (R149, R197, R330) -/

/-- The conditions of retirement. -/
def State.retires (s : State) (h : Nat) : Bool :=
  let c := s.ctx h
  s.running h && (s.stream (.cox h)).status == .joined && (s.stream (.acc h)).status == .joined &&
    (s.stream (.vec h)).status == .joined && c.enginesIdle &&
    c.spores.all fun x => x.2.state == .idle || x.2.state == .armed

/-- Event JOB_RETIRE: the job has ended; its counter add follows. -/
def execJobRetire (h : Nat) (s : State) : Out :=
  if s.retires h then
    let s1 := s.dropStreams h
    let c := s1.ctx h
    match c.job with
    | none => .next s
    | some j =>
      let s2 := s1.setCtx h { c.ended false with job := some { j with phase := .ending } }
      .next (s2.setCrew (crewOf h) ((s2.crew (crewOf h)).dropJob h false))
  else .next s

/-- What an ended job still has under way: rows in the array, copy pieces, remote stores (R149, R197, R330). -/
def State.drained (s : State) (h : Nat) : Bool :=
  let c := s.ctx h
  ((s.crew (crewOf h)).flights.all fun f => f.job != h || f.gen != c.gen) &&
    (c.copies.all fun x => x.isFill || x.gen != c.gen) && (s.posted.all fun x => x.who.home != h)

/-- The record of a pending counter add (R197). -/
def addRecord (s : State) (part : Nat) (core : Byte) (ctx : BitVec 2) (counter : Word) (c : Cause) : Record :=
  { cls := c.cls, sub := c.sub, unit := .none, part := BitVec.ofNat 6 part, core := core, ctx := ctx, rst := true, pc := 0,
    addr := counter, w3 := 0, cut := [], tok := [], cutv := false, set := false, budg := 0, psv := 0, home := 2048,
    gen := 0, at_ := s.now, addPending := true, thread := none }

/-- The walker adds 1 to a counter, or raises the record of the pending add. -/
def State.counterAdd (s : State) (part : Nat) (core : Byte) (ctx : BitVec 2) (counter : Word) : State :=
  match s.dieAdd part counter 1 with
  | .ok s1 => s1
  | .error c => s.postPriv part (addRecord s part core ctx counter c)

/-- Event RETIRE_COUNTER_ADD: the add performs or takes its fault, and the context returns to the walker in the next cycle. -/
def execRetireCounterAdd (h : Nat) (s : State) : Out :=
  match (s.ctx h).job with
  | none => .next s
  | some j =>
    if j.phase = .ending ∧ s.drained h then
      let s1 := s.counterAdd j.nest.part (BitVec.ofNat 8 (coreOf h)) (BitVec.ofNat 2 h) j.nest.counter
      .next (s1.setCtx h { s1.ctx h with job := some { j with phase := .left } })
    else .next s

/-- The job of context h has left, with its counter add in the cycle that passes. -/
def State.hasLeft (s : State) (h : Nat) : Bool := match (s.ctx h).job with | some j => j.phase == .left | none => false

/-- The contexts whose counter adds performed in the cycle that passes return to the walker (R197). -/
def State.freeLeft (s : State) : State := ((s.ctxs.map (·.1)).filter s.hasLeft).foldl State.freeCtx s

/-! ## Budgets (R228) -/

/-- Event BUDGET_WARNING. -/
def execBudgetWarning (h : Nat) (s : State) : Out := .next (s.warnBudget h)
/-- Event BUDGET_EXHAUSTED. -/
def execBudgetExhausted (h : Nat) (s : State) : Out := .next (s.exhaustBudget h)

/-! ## Packets (R200 to R203, R225, R424, Table 8.5) -/

/-- The words that a kind uses beside P0. -/
def packetUsed (kind n : Nat) : Nat :=
  if kind = 1 then 1 else if kind = 2 then 2 * n else if kind = 3 then 2 else if kind = 5 then 2 else 0

/-- The checks of R201: 0, or the CAUSE. KIND comes first. -/
def packetCheck (w : List Word) : Nat :=
  let p0 := w.getD 0 0
  let kind := fieldOf p0 0 4
  let n := fieldOf p0 4 4
  if 5 < kind then 2
  else if fieldOf p0 8 56 ≠ 0 ∨ (kind ≠ 2 ∧ n ≠ 0) ∨ (kind = 2 ∧ (n = 0 ∨ 12 < n)) ∨
      (w.drop (1 + packetUsed kind n)).any (fun x => x != 0) then 1
  else 0

/-- The packet is done: its header is zeroed and HEAD advances (R200). A header that cannot be written stops the queue at
the packet, whose action stays done (R204, R402) (DEDUCED, assumption log 124). -/
def State.packetDone (s : State) (p q : Nat) : State :=
  let x := s.queue p q
  match x.ring with
  | none => s
  | some l =>
    if (s.placeFault p true (ringAddr l x.logn x.head)).isSome then s.queueError p q 4
    else
      let s1 := s.dropPacket p q
      (s1.setQueue p q { s1.queue p q with d1 := withField x.d1 32 16 (x.head + 1) }).store (ringAddr l x.logn x.head)
        (bytesLE 8 0)

/-! ### Reading a packet (R275, R279)

Each 16-byte piece of a packet, and of a LAUNCH's record, is an operation of the parser's thread: a turn reads all that are
left, a slow turn the first of them only (DESIGN CHOICE, assumption log 89). -/

/-- The KIND of the packet in progress, or of the one at the head. -/
def State.kindNow (s : State) (x : Queue) : Nat :=
  if x.got.isEmpty then s.headKind x else (x.got.headD 0).toNat % 16

/-- The words of the packet, as far as they are read after this turn. -/
def State.packetNow (s : State) (x : Queue) : List Word :=
  if 32 ≤ x.got.length then x.got
  else
    let l := (s.headWords x).drop x.got.length
    x.got ++ (if s.slow then l.take 2 else l)

/-- The bytes of the packet that this turn reads: a KIND that no packet has ends the reading after the first piece. -/
def State.packetBytes (s : State) (x : Queue) : Nat :=
  if s.slow ∨ 5 < s.kindNow x then 16 else 256 - 8 * x.got.length

/-- What is wrong with the packet at the head of queue q of p, by what this turn reads of it: 0, or its CAUSE. The packet is
read before its fields are tested, and KIND is tested first (R201, R204, R389). -/
def State.packetBad (s : State) (p q : Nat) : Nat :=
  let x := s.queue p q
  if 32 ≤ x.got.length then 0
  else
    match x.ring with
    | none => 4
    | some l =>
      let a := ringAddr l x.logn x.head + 8 * x.got.length
      if (s.placeFault p true a).isSome then 4
      else if s.poisoned a (s.packetBytes x) then 6
      else if (s.packetNow x).length < 32 then (if 5 < s.kindNow x then 2 else 0)
      else packetCheck (s.packetNow x)

/-- The parser of the queue's die takes the packet at its head: the next in round-robin order, and at most one in a cycle
(R424). -/
def State.parserTakes (s : State) (p q : Nat) : Bool :=
  let d := (s.queue p q).die
  (s.die d).parsed != s.now + 1 && s.parserNext d == some (16 * p + q)

def State.taken (s : State) (p q : Nat) : State :=
  let d := (s.queue p q).die
  s.setDie d { s.die d with lastQ := 16 * p + q, parsed := s.now + 1 }

/-- The parser holds the words `w` of the packet in progress, and behind its 32 those of a LAUNCH's record. -/
def State.packetRead (s : State) (p q : Nat) (w : List Word) : State :=
  s.setQueue p q { s.queue p q with parse := .reading, got := w }

/-- The reading of a packet goes on; `body` acts on one that is read and good. -/
def packetGoesOn (s : State) (p q : Nat) (body : State → List Word → Out) : Out :=
  let x := s.queue p q
  let w := s.packetNow x
  if s.packetBad p q ≠ 0 then .next (s.queueError p q (s.packetBad p q))
  else if s.slow && decide (x.got.length < 32) then .next (s.packetRead p q w)
  else body (s.packetRead p q w) w

/-- The packet at the head of queue q of p, of a kind that `mine` names, has its turn: the parser takes it, forwards it in
host-assisted mode, and reads and checks it when it or the host has decoded it; `body` acts (R424, Table 1.8). A packet in
progress goes on out of turn. -/
def packetTurn (s : State) (p q : Nat) (mine : Nat → Bool) (body : State → List Word → Out) : Out :=
  let x := s.queue p q
  if ¬ (x.state = 1 ∨ x.state = 2) ∨ s.kindNow x = 0 ∨ ¬ mine (s.kindNow x) then .next s
  else
    match x.parse with
    | .host _ => .next s
    | .idle =>
      if ¬ s.parserTakes p q then .next s
      else if s.assisted 1 then
        let s1 := s.taken p q
        .next ((s1.setQueue p q { x with parse := .host s1.nextReq }).forward 1 (.packet p q))
      else packetGoesOn (s.taken p q) p q body
    | .decoded | .reading => packetGoesOn s p q body
    | _ => body s x.got

/-- A crew of the record's group is in service still (R395). -/
def State.groupAlive (s : State) (n : Nest) : Bool := n.cores.any fun g => fieldOf (s.crew (g / 4)).bin 62 2 != 2

def State.parseWaits (s : State) (p q : Nat) : State := s.setQueue p q { s.queue p q with parse := .waiting }

/-- Gives a checked record to the walker, when it has a place for it (R192 to R194). -/
def State.acceptRecord (s : State) (p q : Nat) (n : Nest) : State :=
  let d := (s.queue p q).die
  if n.total = 0 then s.packetDone p q
  else if 16 ≤ (s.die d).active.length then s.parseWaits p q
  else
    let s1 := s.setDie d { s.die d with active := (s.die d).active ++ [{ nest := n, next := 0, last := none }] }
    s1.packetDone p q

/-- The record `r` of a LAUNCH is read: it is checked and goes to the walker (R192, R395). -/
def State.launchRecord (s : State) (p q : Nat) (a : Word) (r : List Word) : State :=
  let n := nestOf r a p q (s.queue p q).head
  let bad := nestCheck r n
  if bad ≠ 0 then s.queueError p q bad
  else if ¬ s.groupAlive n then s.queueError p q 5
  else s.acceptRecord p q n

/-- Event LAUNCH_PACKET: the head packet is a LAUNCH, or of an unknown kind (DEDUCED, assumption log 55). The pieces of its
record are read in order; one that waits for a place of the walker keeps the record that has been read (DESIGN CHOICE,
assumption log 109). -/
def execLaunchPacket (p q : Nat) (s : State) : Out :=
  packetTurn s p q (fun k => k == 1 || decide (5 < k)) fun s1 w =>
    let a := w.getD 1 0
    if ¬ (s1.part p).en ∨ a.toNat % 256 ≠ 0 then .next (s1.queueError p q 3)
    else
      let all := (piecesOf a 256).drop ((w.length - 32) / 2)
      let l := if s1.slow then all.take 1 else all
      match s1.dieFault p .load l with
      | some c => .next (s1.queueError p q (causeOf c))
      | none =>
        let r := w.drop 32 ++ wordsOf (2 * l.length) (s1.dieReadPieces p .load l)
        let s2 := s1.packetRead p q (w.take 32 ++ r)
        if l.length < all.length then .next s2 else .next (s2.launchRecord p q a r)

/-- A FENCE's counters and thresholds. -/
def fencePairs (w : List Word) : List (Word × Word) :=
  (List.range (fieldOf (w.getD 0 0) 4 4)).map fun i => (w.getD (2 * i + 1) 0, w.getD (2 * i + 2) 0)

/-- The first fault among a FENCE's counters, in list order. -/
def State.fenceFault (s : State) (p : Nat) (l : List (Word × Word)) : Option Cause :=
  l.findSome? fun x => s.dieFault p .load (piecesOf x.1 8)

/-- The watches of a FENCE that has not passed; a slice whose table is full takes none (R289). -/
def State.fenceWatch (s : State) (p q : Nat) (l : List (Word × Word)) : State :=
  l.foldl (fun y x =>
    let ra := y.dieAddr p .load x.1
    if 1024 ≤ y.watchCount (homeSlice ra) ∨ 2 ^ 40 ≤ ra then y
    else
      let w : Watch := { who := .svc 0, fence := some (16 * p + q), addr := ra, va := x.1, hit := none, touched := false }
      { y with watches := y.watches ++ [w] }) s

/-- The counters' values, as a pass reads them. -/
def State.fenceReads (s : State) (p : Nat) (l : List (Word × Word)) : List Word :=
  l.map fun x => wordLE (s.dieRead p .load x.1 8)

/-- A pass of the parser over a FENCE (R203) (DESIGN CHOICE, assumption log 54). -/
def State.fencePass (s : State) (p q : Nat) (w : List Word) : State :=
  let l := fencePairs w
  match s.fenceFault p l with
  | some c => s.queueError p q (causeOf c)
  | none =>
    if (l.zip (s.fenceReads p l)).all fun x => x.1.2.ule x.2 then s.packetDone p q
    else
      let s1 := s.dropPacket p q
      (s1.fenceWatch p q l).setQueue p q { s1.queue p q with parse := .fence (s.fenceReads p l), got := w }

/-- Event FENCE_PACKET: the first pass over a FENCE. -/
def execFencePacket (p q : Nat) (s : State) : Out :=
  match (s.queue p q).parse with
  | .fence _ => .next s
  | _ => packetTurn s p q (· == 2) fun s1 w => .next (s1.fencePass p q w)

/-- A counter of a waiting FENCE has changed: its watch has seen it, or its value is another than the one of the last pass. -/
def State.fenceWoken (s : State) (p q : Nat) (w : List Word) (seen : List Word) : Bool :=
  s.watches.any (fun x => x.fence == some (16 * p + q) && x.hit.isSome) ||
    ((fencePairs w).zip seen).any fun x =>
      (s.dieFault p .load (piecesOf x.1.1 8)).isNone && wordLE (s.dieRead p .load x.1.1 8) != x.2

/-- Event FENCE_RECHECK: a new pass over a waiting FENCE. -/
def execFenceRecheck (p q : Nat) (s : State) : Out :=
  match (s.queue p q).parse with
  | .fence seen =>
    if s.fenceWoken p q (s.queue p q).got seen then
      packetTurn s p q (· == 2) fun s1 w => .next (s1.fencePass p q w)
    else .next s
  | _ => .next s

/-- Event SIGNAL_PACKET: a release add on a counter. -/
def execSignalPacket (p q : Nat) (s : State) : Out :=
  packetTurn s p q (· == 3) fun s1 w =>
    match s1.dieAdd p (w.getD 1 0) (w.getD 2 0) with
    | .ok s2 => .next (s2.packetDone p q)
    | .error c => .next (s1.queueError p q (causeOf c))

/-- Event NODE_PACKET: passed at once, unless the queue is SUSPENDING (R225). -/
def execNodePacket (p q : Nat) (s : State) : Out :=
  packetTurn s p q (· == 4) fun s1 _ =>
    if (s1.queue p q).state = 2 then .next (s1.parseWaits p q) else .next (s1.packetDone p q)

/-- The 16-byte piece `i` of a composition record with the fields that the writer stamps: words 1 to 3 (R258, R259). -/
def stampPiece (i : Nat) (l : List Byte) (h1 h2 h3 : Word) : List Byte :=
  if i = 0 then l.take 8 ++ bytesLE 8 h1.toNat
  else if i = 1 then bytesLE 8 h2.toNat ++ bytesLE 8 h3.toNat
  else l

def logbPos (q : Queue) : Nat := match q.parse with | .logb n => n | _ => 0

/-- Event LOGB_PACKET: the next piece of the copy performs; the last one ends the packet. -/
def execLogbPacket (p q : Nat) (s : State) : Out :=
  packetTurn s p q (· == 5) fun s1 w =>
    let i := logbPos (s1.queue p q)
    let src := (w.getD 1 0 &&& ~~~ 127) + BitVec.ofNat 64 (16 * i)
    let dst := (w.getD 2 0 &&& ~~~ 127) + BitVec.ofNat 64 (16 * i)
    match s1.dieFault p .load [(src, 16)] with
    | some c => .next (s1.queueError p q (causeOf c))
    | none =>
      match s1.dieFault p .store [(dst, 16)] with
      | some c => .next (s1.queueError p q (causeOf c))
      | none =>
        let l := stampPiece i (s1.dieRead p .load src 16) (BitVec.ofNat 64 p) (BitVec.allOnes 64) 0x1FF
        let s2 := s1.dieWrite p .store dst l
        if i = 63 then .next (s2.packetDone p q)
        else .next (s2.setQueue p q { s2.queue p q with parse := .logb (i + 1) })

/-! ## Requests (R415) -/

/-- A reply is sent to the sender of a request. -/
def State.reply (s : State) (r : Reply) : State := { s with replies := s.replies ++ [r] }

/-- Event REQUEST_ARRIVAL: Novfin appends a request's packet to a queue of its partition, on a die that has passed test; one
for a DISABLED queue is refused to its sender (R415, R420; DEDUCED, assumption log 85). -/
def execRequestArrival (p q : Nat) (packet : List Word) (s : State) : Out :=
  let x := s.queue p q
  if x.state = 0 then .next (s.reply (.refused p q))
  else
    match x.ring with
    | some l =>
      if x.room ∧ s.boot.passed.getLsbD x.die then
        .next (s.pushPacket p q l (((packet ++ List.replicate 32 0).take 32).flatMap fun (w : Word) => bytesLE 8 w.toNat))
      else .next s
    | none => .next s

/-- Event REQUEST_REPLY: a request's completion counter, in memory of its partition, is tested; when it has reached the
threshold, the request's reply is sent (R415) (DEDUCED, assumption log 85). -/
def execRequestReply (p : Nat) (counter threshold : Word) (s : State) : Out :=
  if (s.dieFault p .load (piecesOf counter 8)).isNone ∧ threshold.ule (wordLE (s.dieRead p .load counter 8)) then
    .next (s.reply (.reached p counter threshold))
  else .next s

end Sys2Proof.Machine
end

