-- ==== Sys2Proof/Machine/Copy.lean ====
section
/-! DEFINITION. Machine/Copy.lean: the copy commands, the copy engine of a core, the engine threads of a service core,
messages to spores, and the residency table (R316 to R337, R223, R258, R259). -/

namespace Sys2Proof.Machine

/-! ## Codes of Table 12.4 -/

def opMsg : BitVec 9 := 0x082
def opCpy : BitVec 9 := 0x0A0
def opCpx : BitVec 9 := 0x0A1
def opCpk : BitVec 9 := 0x0A2
def opCpq : BitVec 9 := 0x0A3
def opCpg : BitVec 9 := 0x0A4
def opCps : BitVec 9 := 0x0A5
def opCpr : BitVec 9 := 0x0A6
def opRtacq : BitVec 9 := 0x0A8
def opNvq : BitVec 9 := 0x0AB
def opLogb : BitVec 9 := 0x0B6

def Cmd.dsp (c : Cmd) : Bool := c.mods.getLsbD 0
def Cmd.ssp (c : Cmd) : Bool := c.mods.getLsbD 1

def modBits (l : List Bool) : BitVec 10 :=
  BitVec.ofNat 10 (l.foldr (fun b a => (if b then 1 else 0) + 2 * a) 0)

/-- The destination, and the source, is a scratchpad offset. -/
def Cmd.dstSpad (c : Cmd) : Bool := c.opc == opCpk || (c.dsp && c.opc != opCpr)
def Cmd.srcSpad (c : Cmd) : Bool := c.ssp

/-! ## Accesses of engine threads -/

/-- Translates for an engine thread of home `h`: with `p` for a residency table, a fill or a queue pair's buffer, in
that partition; otherwise as the home's own accesses (R331, R332). A service core, which has no crew's cache, walks in
the same step, in hardware (DEDUCED, assumption log 37). -/
def State.engXlate (s : State) (h : Nat) (p : Option Nat) (perm : Perm) (va : Word) : Xlate :=
  match p with
  | none => s.xlate h perm va
  | some q =>
    if h < 1024 then s.xlateVirt h q perm va
    else match s.xlateDie q perm va with
      | .ok ra => .ok ra
      | .error c => .bad c

/-- The checks of one piece: translation, then where it performs, then poison that it reads (R321, R389). -/
def State.engChk (s : State) (h : Nat) (p : Option Nat) (perm : Perm) (va : Word) (n : Nat) : Chk :=
  match s.engXlate h p perm va with
  | .bad c => .bad c va
  | .forward => .forward va
  | .ok ra =>
    match s.placeFault (p.getD (s.carried h va)) perm.st ra with
    | some c => .bad c va
    | none => if perm.r && s.poisoned ra n then .bad poisonCause va else .ok

def State.engAddr (s : State) (h : Nat) (p : Option Nat) (perm : Perm) (va : Word) : Nat :=
  match s.engXlate h p perm va with
  | .ok ra => ra
  | _ => 0

/-- The engine thread waits for a walk of partition `p` (R354). -/
def State.forwardWalkFor (s : State) (h p : Nat) (va : Word) : State := s.askWalk h p (va.toNat / 4096)

/-- Where a piece of a command lies: device memory in the view of a partition, the scratchpad, the host's memory, or
nowhere: a zero element, or one that is not written. -/
inductive Loc where
  | dev (p : Option Nat) (va : Word)
  | spad (off : Nat)
  | host (o : Nat)
  | nowhere
deriving DecidableEq, Repr

/-- The checks of a piece; host memory needs the host link (R335, R412). -/
def State.locChk (s : State) (h : Nat) (perm : Perm) (l : Loc) (n : Nat) : Chk :=
  match l with
  | .dev p va => s.engChk h p perm va n
  | .spad off => if perm.r && s.spadPoisoned h off n then .bad poisonCause (BitVec.ofNat 64 off) else .ok
  | .host o => if s.linkUp then .ok else .bad (xlateCause 7) (BitVec.ofNat 64 o)
  | .nowhere => .ok

/-- Reads a checked piece. Host memory beyond the aperture's 256 GiB is a free value (Table 20.1; DESIGN CHOICE,
assumption log 2) (DESIGN CHOICE, assumption log 17). -/
def State.locRead (s : State) (h : Nat) (l : Loc) (n : Nat) : List Byte × State :=
  match l with
  | .dev p va => s.loadAt h (s.engAddr h p .load va) n .l2
  | .spad off => (s.spadRead h off n, s)
  | .host o =>
    if o + n ≤ 2 ^ 38 then (s.rawRead (0xC000000000 + o) n, s)
    else (bytesLE n (Config.freeNat s.free), { s with free := s.free + 1 })
  | .nowhere => (List.replicate n 0, s)

def State.locWrite (s : State) (c : Cmd) (l : Loc) (b : List Byte) : State :=
  match l with
  | .dev p va => s.storeAt c.forker (some c) (s.engAddr c.forker.home p .store va) b
  | .spad off => s.spadWrite c.forker.home off b
  | _ => s

/-- The bytes up to the next 16-byte boundary. -/
def Loc.run : Loc → Nat
  | .dev _ va => 16 - va.toNat % 16
  | .spad off => 16 - off % 16
  | .host o => 16 - o % 16
  | .nowhere => 16

/-! ## Issue (R316, R331) -/

/-- The values that a command takes with it. -/
def State.mkCmd (s : State) (t : Thread) (opc : BitVec 9) (k : Tok) (a b c : SReg) (mods : BitVec 10) : Cmd :=
  { opc := opc, tok := k, a := s.reg t a, b := s.reg t b, c := s.reg t c, mods := mods, pc := (s.stream t).pc,
    forker := t, seq := (s.ctx t.home).cpSeq, gen := (s.ctx t.home).gen }

/-- A started command. -/
def Copy.start (cmd : Cmd) (part gen : Nat) : Copy :=
  { cmd := cmd, part := part, gen := gen, phase := .moving, total := 0, pos := 0, mark := 0, st := 0, buf := [], out := [],
    tail := [], stopped := false }

/-! ## The operand checks (R320) -/

def overlaps (a n b m : Nat) : Bool := decide (0 < n ∧ 0 < m ∧ a < b + m ∧ b < a + n)

def ceilDiv (a b : Nat) : Nat := (a + b - 1) / b

/-- A command's extent: bytes written at its destination from its first to its last, and bytes read at its source. -/
def Cmd.extents (c : Cmd) : Nat × Nat :=
  let cn := c.c.toNat
  if c.opc = opCpy then (cn % 2 ^ 32, cn % 2 ^ 32)
  else if c.opc = opCpx then
    let n := cn % 2 ^ 16 * (cn / 2 ^ 16 % 2 ^ 16) * 2 ^ (cn / 2 ^ 32 % 4)
    (n, n)
  else if c.opc = opCpq then
    let n := cn % 2 ^ 24
    let b := ceilDiv n 32
    (128 * ceilDiv n 128 + 128 * ceilDiv b 128 + ceilDiv b 4, 4 * n)
  else if c.opc = opCpr then
    let n := cn % 2 ^ 32 * (if c.mods.getLsbD 3 then 2 else 4)
    (n, n)
  else if c.opc = opLogb then (1024, 1024)
  else if c.opc = opCpk then (c.a.toNat / 256 % 512 * (16 * ceilDiv (cn % 128) 2), 0)
  else if c.opc = opMsg then (0, (fieldOf c.b 36 12 + 1) * 16)
  else (0, 0)

/-- Destination and source addresses. -/
def Cmd.dstAddr (c : Cmd) : Word := if c.opc = opLogb then c.b &&& ~~~ 127 else if c.opc = opCpk then c.b else c.a
def Cmd.srcAddr (c : Cmd) : Word :=
  if c.opc = opLogb then c.a &&& ~~~ 127 else if c.opc = opMsg then c.a else c.b

/-- Element size of CPR's operation. -/
def cprSize (c : Cmd) : Nat := if c.mods.getLsbD 3 then 2 else 4

/-- Limits and alignment of the commands without a list; the job's accumulator rows are `rows` (DEDUCED, assumption log 93:
an OFF that is no multiple of 16). -/
def Cmd.limitsOk (c : Cmd) (rows : Nat) : Bool :=
  let cn := c.c.toNat
  if c.opc = opCpx then
    let sz := 2 ^ (cn / 2 ^ 32 % 4)
    decide (1 ≤ cn % 2 ^ 16 ∧ 1 ≤ cn / 2 ^ 16 % 2 ^ 16 ∧ c.a.toNat % sz = 0 ∧ c.b.toNat % sz = 0)
  else if c.opc = opCpk then
    let first := c.a.toNat % 256
    let n := c.a.toNat / 256 % 512
    decide (1 ≤ n ∧ n ≤ 256 ∧ 1 ≤ cn % 128 ∧ cn % 128 ≤ 64 ∧ c.b.toNat % 16 = 0 ∧ first + n ≤ rows)
  else if c.opc = opCpq then decide (1 ≤ cn % 2 ^ 24 ∧ cn / 2 ^ 32 % 16 < 4 ∧ c.b.toNat % 4 = 0)
  else if c.opc = opCpr then
    popcount 4 (c.mods.toNat / 4) == 1 && decide (c.a.toNat % cprSize c = 0 ∧ c.b.toNat % cprSize c = 0)
  else if c.opc = opMsg then 
    decide (c.a.toNat % 16 = 0 ∧ c.c.toNat % 8 = 0 ∧ fieldOf c.b 48 16 ≠ 0 ∧ fieldOf c.b 15 21 % 16 = 0)
  else true

/-- The checks of a command without a list: ST 1, then ST 2, else 0. -/
def State.basicCheck (s : State) (h : Nat) (c : Cmd) : BitVec 4 :=
  let (dn, sn) := c.extents
  let d := c.dstAddr.toNat
  let b := c.srcAddr.toNat
  let svcMods := h ≥ 1024 ∧ (c.dsp ∨ c.ssp)
  if svcMods ∨ ¬ c.limitsOk (s.ctx h).accRows then 1
  else if c.dstSpad == c.srcSpad && overlaps d dn b sn then 1
  else if (c.dstSpad && !s.spadOk h d dn) || (c.srcSpad && !s.spadOk h b sn) then 2
  else 0

/-- The checks of CPG and CPS with n elements of s bytes at indices `idx` (DEDUCED, assumption log 67). -/
def State.listCheck (s : State) (h : Nat) (c : Cmd) (n sz : Nat) (idx : List Nat) : BitVec 4 :=
  let list := c.c.toNat
  let listLen := 8 + 4 * n
  let gather := c.opc == opCpg
  let flat := if gather then c.a.toNat else c.b.toNat
  let flatSpad := if gather then c.dsp else c.ssp
  let tab := if gather then c.b.toNat else c.a.toNat
  let tabSpad := if gather then c.ssp else c.dsp
  let elems := (idx.filter fun i => i != 0xFFFFFFFF).map fun i => tab + i * sz
  if ¬ (1 ≤ n ∧ 1 ≤ sz ∧ sz ≤ 4096) then 1
  else if (flatSpad == tabSpad && elems.any fun e => overlaps flat (n * sz) e sz) ||
      (!flatSpad && overlaps list listLen flat (n * sz)) || (!tabSpad && elems.any fun e => overlaps list listLen e sz)
  then 1
  else if (flatSpad && !s.spadOk h flat (n * sz)) || (tabSpad && elems.any fun e => !s.spadOk h e sz) then 2
  else 0

/-! ## The residency table (R332 to R336) -/

def rtCount (x : Part) : Nat := fieldOf x.rtd1 0 17
def rtAddr (x : Part) (i w : Nat) : Word := BitVec.ofNat 64 (fieldOf x.rtd0 12 52 * 4096 + 32 * i + 8 * w)

/-- The partition and entry that a residency operand of home `h` names (R331). -/
def State.rtName (s : State) (h : Nat) (a : Word) : Nat × Nat :=
  (if h < 1024 then s.partOf h else fieldOf a 16 6, fieldOf a 0 16)

def rtState (w : Word) : Nat := fieldOf w 0 3
def rtRef (w : Word) : Nat := fieldOf w 16 16

/-- Word 0 of an entry with another state and reference count. -/
def rtWord (w : Word) (st ref : Nat) : Word := withField (withField w 0 3 st) 16 16 ref

/-- Replaces word 0 of entry i of partition p, at its home slice. -/
def State.rtPut (s : State) (h p i : Nat) (w : Word) : State :=
  s.store (s.engAddr h (some p) .table (rtAddr (s.part p) i 0)) (bytesLE 8 w.toNat)

def State.rtGet (s : State) (h p i w : Nat) : Word := s.readWord (s.engAddr h (some p) .table (rtAddr (s.part p) i w))

def State.rtChk (s : State) (h p i w : Nat) : Chk := s.engChk h (some p) .table (rtAddr (s.part p) i w) 8

/-- The fill of a residency entry starts: the copy remembers entry, DADDR, W2 and takes SIZE as its length; in
host-assisted mode it is forwarded (Table 1.8, function 2) (DESIGN CHOICE, assumption log 18). -/
def State.fillStart (s : State) (h : Nat) (x : Copy) (p i : Nat) : Copy × State :=
  let y := { x with part := p, total := fieldOf (s.rtGet h p i 3) 0 32,
                    tail := [i, (s.rtGet h p i 1).toNat, (s.rtGet h p i 2).toNat] }
  if s.assisted 2 then
    ({ y with phase := .host s.nextReq }, s.forward 2 (.fill h x.cmd.seq))
  else ({ y with phase := .filling }, s)

/-- An RTACQ looks at its entry (R335) (DEDUCED, assumption log 70). -/
def State.rtAcquire (s : State) (h : Nat) (x : Copy) (p i : Nat) : Copy × State :=
  let w := s.rtGet h p i 0
  let st := rtState w
  if st = 0 then
    let (y, s1) := s.fillStart h x p i
    (y, s1.rtPut h p i (rtWord w 1 1))
  else if st ≤ 3 then
    if rtRef w = 65535 then ({ x with phase := .done, st := 5 }, s)
    else
      ({ x with part := p, tail := [i], phase := if st = 1 then .fill else .done },
        s.rtPut h p i (rtWord w st (rtRef w + 1)))
  else ({ x with part := p, tail := [i], phase := .evicting }, s)

/-! ## NVQ (R337, R414) -/

def State.nvqPair (s : State) (h : Nat) (c : Word) : Nat × Nat :=
  (if h < 1024 then s.partOf h else fieldOf c 2 6, fieldOf c 0 2)

/-- Opcode Read, PSDT 00, and no more blocks than 2 MiB holds at 512 bytes a block (PRESUMED, assumption log 16). -/
def nvmeOk (e : List Byte) : Bool :=
  let b := fun i => (e.getD i 0).toNat
  b 0 == 2 && b 1 / 64 == 0 && decide (natLE ((e.drop 48).take 2) + 1 ≤ 4096)

/-! ## Starting -/

/-- What a start attempt comes to: a fault or a forwarded walk before the start, or a started command. -/
inductive Started where
  | chk (c : Chk)
  | run (x : Copy) (s : State)

/-- Reads the head of a list (CPG, CPS): the element count and the element size. The indices follow piece by piece
(DEDUCED, assumption log 67). -/
def State.startList (s : State) (h : Nat) (x : Copy) : Started :=
  let c := x.cmd
  let fin := fun st => Started.run { x with phase := .done, st := st } s
  if c.c.toNat % 8 ≠ 0 then fin 1
  else
    match s.engChk h none .load c.c 8 with
    | .ok =>
      let (hd, s1) := s.locRead h (.dev none c.c) 8
      let n := natLE (hd.take 2)
      let sz := natLE ((hd.drop 2).take 2)
      if n = 0 ∨ sz = 0 ∨ 4096 < sz then fin 1 else .run { x with phase := .list, total := 4 * n, tail := [sz] } s1
    | e => .chk e

/-- Starts a command whose wait token has been taken: its checks, and for CPG, CPS, RTACQ and NVQ their first access
(R320). -/
def State.startCopy (s : State) (h : Nat) (x : Copy) : Started :=
  let c := x.cmd
  let fin := fun (st : BitVec 4) => Started.run { x with phase := .done, st := st } s
  if c.opc = opCpg ∨ c.opc = opCps then s.startList h x
  else if c.opc = opRtacq then
    let (p, i) := s.rtName h c.a
    if rtCount (s.part p) ≤ i then fin 1
    else
      match s.rtChk h p i 0 with
      | .ok => let (y, s1) := s.rtAcquire h x p i; .run y s1
      | e => .chk e
  else if c.opc = opNvq then
    let (p, q) := s.nvqPair h c.c
    if c.a.toNat % 64 ≠ 0 ∨ c.b.toNat % 16 ≠ 0 ∨ overlaps c.a.toNat 64 c.b.toNat 16 then fin 1
    else if fieldOf ((s.part p).nvq.get q 0) 63 1 = 0 ∨ ¬ s.linkUp then fin 6
    else
      match s.engChk h none .load c.a 16 with
      | .ok =>
        let (b, s1) := s.locRead h (.dev none c.a) 16
        .run { x with phase := .entry, buf := b, part := p } s1
      | e => .chk e
  else
    match s.basicCheck h c with
    | 0 =>
      let (dn, sn) := c.extents
      let n :=
        if c.opc = opCpq then
          let n := c.c.toNat % 2 ^ 24
          n + ceilDiv n 32 + ceilDiv (ceilDiv n 32) 4
        else if c.opc = opMsg then sn else dn
      .run { x with total := n, phase := if n = 0 then .done else .moving } s
    | st => fin st

/-! ## Faults of an engine thread (R321, R331) -/

/-- The record's W3: sequence number and byte offset. -/
def cpW3 (seq pos : Nat) : Word := BitVec.ofNat 64 (seq % 2 ^ 16 * 2 ^ 48 + pos % 2 ^ 32 * 2 ^ 16)

def setCopy (l : List Copy) (x : Copy) : List Copy :=
  l.map fun y => if y.cmd.seq = x.cmd.seq ∧ y.gen = x.gen then x else y

def State.setCopy (s : State) (h : Nat) (x : Copy) : State :=
  s.setCtx h { s.ctx h with copies := Machine.setCopy (s.ctx h).copies x }

/-- The record of an engine thread: a job's cpq, or a service core's thread (R331, R377)
(DEDUCED, assumption log 72). -/
def State.copyRecord (s : State) (h : Nat) (cmd : Cmd) (pos : Nat) (c : Cause) (va : Word) : State :=
  if h < 1024 then
    let s1 := s.setCtx h { s.ctx h with cpStop := true }
    s1.postRecord c (s1.mkRecord h .cpq c 0 va (cpW3 cmd.seq pos))
  else
    s.svcRecord (h - 1024) { s.mkRecord h .service c cmd.pc va (cpW3 cmd.seq pos) with thread := some cmd.seq }

/-- The command of context h is a fill whose job has ended, before its context is free or later (R330). -/
def State.orphan (s : State) (h : Nat) (x : Copy) : Bool := x.gen != (s.ctx h).gen || (decide (h < 1024) && !s.running h)

/-- A started command meets a failed check of its piece at byte `pos` of its source or its destination: it stops before that
piece; a fill fails, unless it meets poison (R321, R335, R389). A fill that has outlived its job has no queue to stop, and
fails there too (DESIGN CHOICE, assumption log 94). -/
def State.copyStops (s : State) (h : Nat) (x : Copy) (pos : Nat) (c : Chk) : State :=
  match c with
  | .ok => s
  | .forward va => s.forwardWalkFor h (if x.isFill || 1024 ≤ h then x.part else s.partOf h) va
  | .bad e va =>
    if x.isFill ∧ (e.cls ≠ 18 ∨ s.orphan h x) then s.setCopy h { x with st := 4 }
    else (s.setCopy h { x with stopped := true }).copyRecord h x.cmd pos e va

/-! ## Moving data -/

/-- The source of byte `p` of the command's stream, and how many bytes from there lie together. -/
def Copy.srcAt (x : Copy) (p : Nat) : Loc × Nat :=
  let c := x.cmd
  let at_ := fun (spad : Bool) (base : Word) (o n : Nat) =>
    let l := if spad then Loc.spad (base.toNat + o) else Loc.dev none (base + BitVec.ofNat 64 o)
    (l, Nat.min n l.run)
  if c.opc = opCpx then
    let nr := c.c.toNat % 2 ^ 16
    let nc := c.c.toNat / 2 ^ 16 % 2 ^ 16
    let sz := 2 ^ (c.c.toNat / 2 ^ 32 % 4)
    let e := p / sz
    at_ c.ssp c.b ((e % nr * nc + e / nr) * sz + p % sz) (sz - p % sz)
  else if c.opc = opCpg then
    let sz := x.tail.headD 1
    let i := x.tail.getD (1 + p / sz) 0xFFFFFFFF
    if i = 0xFFFFFFFF then (.nowhere, Nat.min 16 (sz - p % sz)) else at_ c.ssp c.b (i * sz + p % sz) (sz - p % sz)
  else if c.opc = opRtacq then
    let b := x.tail.getD 2 0
    if b / 2 ^ 63 = 1 then let l := Loc.host (b % 2 ^ 63 + p); (l, l.run)
    else let l := Loc.dev (some x.part) (BitVec.ofNat 64 (b + p)); (l, l.run)
  else at_ (c.ssp && c.opc != opLogb) c.srcAddr p 16

/-- The destination of byte `p`, and how many bytes from there lie together. -/
def Copy.dstAt (x : Copy) (p : Nat) : Loc × Nat :=
  let c := x.cmd
  let at_ := fun (spad : Bool) (base : Word) (o n : Nat) =>
    let l := if spad then Loc.spad (base.toNat + o) else Loc.dev none (base + BitVec.ofNat 64 o)
    (l, Nat.min n l.run)
  if c.opc = opCps then
    let sz := x.tail.headD 1
    let i := x.tail.getD (1 + p / sz) 0xFFFFFFFF
    if i = 0xFFFFFFFF then (.nowhere, Nat.min 16 (sz - p % sz)) else at_ c.dsp c.a (i * sz + p % sz) (sz - p % sz)
  else if c.opc = opRtacq then
    let l := Loc.dev (some x.part) (BitVec.ofNat 64 (x.tail.getD 1 0 + p))
    (l, l.run)
  else at_ c.dstSpad c.dstAddr p 16

/-- Reads the next piece of the stream into the buffer, from byte `p`, `n` bytes at most. -/
def State.copyRead (s : State) (h : Nat) (x : Copy) (p n : Nat) : State :=
  let (l, r) := x.srcAt p
  let k := Nat.min r n
  match s.locChk h .load l k with
  | .ok => let (b, s1) := s.locRead h l k; s1.setCopy h { x with buf := x.buf ++ b }
  | e => s.copyStops h x p e

/-- The fields that LOGB stamps; its command holds the job's s7 as it was at the issue (R258, R259)
(DESIGN CHOICE, assumption log 95). On a service core PART is 0 (DESIGN CHOICE, assumption log 110). -/
def State.stamped (s : State) (h : Nat) (x : Copy) (p : Nat) (b : List Byte) : List Byte :=
  if x.cmd.opc = opLogb then
    if h < 1024 then
      stampPiece (p / 16) b (BitVec.ofNat 64 (s.partOf h)) x.cmd.c (BitVec.ofNat 64 (coreOf h))
    else stampPiece (p / 16) b 0 0 (BitVec.ofNat 64 (256 + (h - 1024)))
  else b

/-- The state after bytes of the command have been written. -/
def Copy.wrote (x : Copy) (n : Nat) : Copy :=
  let y := { x with pos := x.pos + n, buf := x.buf.drop n }
  if y.pos < y.total ∨ y.isFill then y else { y with phase := .done }

/-- The next piece of a list; behind its last one the operands are checked, and the command moves on (R320, R326). The offset
of a piece counts from the head of the list (DEDUCED, assumption log 125). -/
def State.copyList (s : State) (h : Nat) (x : Copy) : State :=
  let c := x.cmd
  let sz := x.tail.headD 1
  let next := fun (s1 : State) (l : List Byte) =>
    if l.length < x.total then s1.setCopy h { x with buf := l }
    else
      let idx := (List.range (x.total / 4)).map fun i => natLE ((l.drop (4 * i)).take 4)
      let st := s1.listCheck h c idx.length sz idx
      s1.setCopy h { x with
        buf := [], mark := 0, total := idx.length * sz, tail := sz :: idx, st := st
        phase := if st = 0 then .moving else .done }
  let va := c.c + 8 + BitVec.ofNat 64 x.buf.length
  let n := Nat.min (16 - va.toNat % 16) (x.total - x.buf.length)
  match s.engChk h none .load va n with
  | .ok => let (b, s1) := s.locRead h (.dev none va) n; next s1 (x.buf ++ b)
  | e => s.copyStops h x (8 + x.buf.length) e

/-- The next piece of a command that moves bytes unchanged: a read while the buffer holds less than the next destination
piece, else the write (R318). The source of an element that CPS does not write is read too (DESIGN CHOICE, assumption
log 121). -/
def State.copyBytes (s : State) (h : Nat) (x : Copy) : State :=
  let (l, r) := x.dstAt x.pos
  let n := Nat.min r (x.total - x.pos)
  if x.buf.length < n then s.copyRead h x (x.pos + x.buf.length) (x.total - x.pos - x.buf.length)
  else
    match s.locChk h .store l n with
    | .ok => (s.locWrite x.cmd l (s.stamped h x x.pos (x.buf.take n))).setCopy h (x.wrote n)
    | e => s.copyStops h x x.pos e

/-- The payload of a MSG is read whole before it leaves (R329). -/
def State.copyPayload (s : State) (h : Nat) (x : Copy) : State :=
  s.copyRead h x x.buf.length (x.total - x.buf.length)

/-! ### CPK (R324) -/

/-- The best `k` in order. -/
def topCands (k : Nat) (l : List Cand) : List Cand := l.foldl (fun b a => (insertCand a b).take k) []

/-- The record of one row: values, indices, zeros. -/
def cpkRecord (w16 : Bool) (k base : Nat) (r : Row) : List Byte :=
  let vals := (elems (widthOf w16) (lanesOf w16) r).map fun c => if w16 then c * 2 ^ 16 else c
  let best := topCands k ((List.range vals.length).map fun l => Cand.mk (vals.getD l 0) l)
  let body := best.flatMap (fun c => bytesLE 4 (canonical (.float f32) c.code)) ++
    best.flatMap fun c => bytesLE 4 ((base + c.idx) % 2 ^ 32)
  (body ++ List.replicate 16 0).take (16 * ceilDiv k 2)

def State.accRowPoisoned (s : State) (h r : Nat) : Bool :=
  let b := tilePiece (coreOf h) ((s.ctx h).accBase + r) 0
  s.poison.any fun pc => decide (b ≤ pc ∧ pc < b + 256)

def State.copyTopK (s : State) (h : Nat) (x : Copy) : State :=
  let c := x.cmd
  let k := c.c.toNat % 128
  let z := 16 * ceilDiv k 2
  let r := c.a.toNat % 256 + x.pos / z
  if x.buf.isEmpty then
    if s.accRowPoisoned h r then s.copyStops h x x.pos (.bad poisonCause 0)
    else s.setCopy h { x with buf := cpkRecord (s.w16 h) k (fieldOf c.c 32 32) (s.row h r) }
  else (s.spadWrite h (c.b.toNat + x.pos) (x.buf.take 16)).setCopy h (x.wrote 16)

/-! ### CPQ (R325) -/

def cpqFmt (f : Nat) : Elt := if f = 0 then .dm8 else if f = 1 then .e4m3 else if f = 2 then .e5m2 else .i8

/-- Status byte b of the blocks whose scale and status are in `tail`. -/
def statusByte (tail : List Nat) (b : Nat) : Nat :=
  (List.range 4).foldr (fun i a => tail.getD (4 * b + i) 0 / 256 + 4 * a) 0

/-- Where byte `p` of the codes, scales and status bytes goes, and the bytes from there that lie together. -/
def cpqDst (x : Copy) (p : Nat) : Loc × Nat :=
  let c := x.cmd
  let n := c.c.toNat % 2 ^ 24
  let b := ceilDiv n 32
  let at_ := fun (o m : Nat) =>
    let l := if c.dsp then Loc.spad (c.a.toNat + o) else Loc.dev none (c.a + BitVec.ofNat 64 o)
    (l, Nat.min m l.run)
  if p < n then at_ p (n - p)
  else if p < n + b then at_ (128 * ceilDiv n 128 + (p - n)) (n + b - p)
  else at_ (128 * ceilDiv n 128 + 128 * ceilDiv b 128 + (p - n - b)) (x.total - p)

/-- The bytes to write at position `p`, `m` of them, when they are known. -/
def cpqBytes (x : Copy) (p m : Nat) : List Byte :=
  let n := x.cmd.c.toNat % 2 ^ 24
  let b := ceilDiv n 32
  if p < n then x.out.take m
  else (List.range m).map fun i =>
    if p < n + b then BitVec.ofNat 8 (x.tail.getD (p + i - n) 0) else BitVec.ofNat 8 (statusByte x.tail (p + i - n - b))

/-- A block whose source is in the buffer is quantised. -/
def cpqBlock (x : Copy) : Copy :=
  let vals := (List.range (x.buf.length / 4)).map fun i => f32.value (natLE ((x.buf.drop (4 * i)).take 4))
  let (sc, codes, st) := quantise (cpqFmt (fieldOf x.cmd.c 32 4)) vals
  { x with buf := [], out := x.out ++ codes.map (BitVec.ofNat 8), tail := x.tail ++ [sc % 256 + 256 * st] }

def State.copyQuant (s : State) (h : Nat) (x : Copy) : State :=
  let n := x.cmd.c.toNat % 2 ^ 24
  let (l, r) := cpqDst x x.pos
  let m := Nat.min r (x.total - x.pos)
  let need := 4 * Nat.min 32 (n - 32 * x.tail.length)
  if x.pos < n ∧ x.out.length < m then
    if x.buf.length < need then s.copyRead h x (128 * x.tail.length + x.buf.length) (need - x.buf.length)
    else s.setCopy h (cpqBlock x)
  else
    match s.locChk h .store l m with
    | .ok =>
      let y := { x with pos := x.pos + m, out := x.out.drop m }
      (s.locWrite x.cmd l (cpqBytes x x.pos m)).setCopy h
        (if y.pos < y.total then y else { y with phase := .done })
    | e => s.copyStops h x x.pos e

/-! ### CPR (R327) -/

/-- One element combined by the operation keyword. -/
def cprCombine (c : Cmd) (old x : Nat) : Nat :=
  if c.mods.getLsbD 2 then laneAdd (.float f32) old x
  else if c.mods.getLsbD 3 then laneAdd (.float bf16) old x
  else if c.mods.getLsbD 4 then laneAdd (.int 32 false) old x
  else laneMinMax true (.float f32) old x

def cprPiece (c : Cmd) (old new : List Byte) : List Byte :=
  let sz := cprSize c
  (List.range (old.length / sz)).flatMap fun i =>
    bytesLE sz (cprCombine c (natLE ((old.drop (sz * i)).take sz)) (natLE ((new.drop (sz * i)).take sz)))

/-- Each piece of the destination is read, combined and written at its home as one atomic. -/
def State.copyReduce (s : State) (h : Nat) (x : Copy) : State :=
  let va := x.cmd.a + BitVec.ofNat 64 x.pos
  let n := Nat.min (16 - va.toNat % 16) (x.total - x.pos)
  if x.buf.length < n then s.copyRead h x (x.pos + x.buf.length) (x.total - x.pos - x.buf.length)
  else
    match s.engChk h none .both va n with
    | .ok =>
      let ra := s.engAddr h none .both va
      let s1 := if 2 ^ 40 ≤ ra then s.signLine h ra (some x.cmd) else s
      let s2 := s1.store ra (cprPiece x.cmd (s1.rawRead ra n) (x.buf.take n))
      (s2.dropCopy h ra).setCopy h (x.wrote n)
    | e => s.copyStops h x x.pos e

/-! ### NVQ's entry, its data and its completion entry (R337) -/

/-- The next piece of an NVQ's entry; behind the last one an accepted entry is submitted. One that the host link can no
longer take ends as one that has not found it (DESIGN CHOICE, assumption log 111). The depth of the pair limits no
submission (DESIGN CHOICE, assumption log 122). -/
def State.copyEntry (s : State) (h : Nat) (x : Copy) : State :=
  let va := x.cmd.a + BitVec.ofNat 64 x.buf.length
  match s.engChk h none .load va 16 with
  | .ok =>
    let (b, s1) := s.locRead h (.dev none va) 16
    let e := x.buf ++ b
    if e.length < 64 then s1.setCopy h { x with buf := e }
    else if nvmeOk e ∧ s1.linkUp then
      (s1.request 7 (.nvme h x.cmd.seq) none).setCopy h { x with phase := .host s1.nextReq, buf := e }
    else s1.setCopy h { x with phase := .done, st := 6 }
  | e => s.copyStops h x x.buf.length e

/-- Once the controller has read the data, `tail` holds its length, its status, and the first data address: the data
pieces, then the completion entry, whose other fields are free values (PRESUMED, assumption log 16). -/
def State.copyNvme (s : State) (h : Nat) (x : Copy) : State :=
  let len := x.tail.headD 0
  let status := x.tail.getD 1 0
  if x.pos < len then
    let va := BitVec.ofNat 64 (x.tail.getD 2 0 + x.pos)
    let n := Nat.min (16 - va.toNat % 16) (len - x.pos)
    match s.engChk h (some x.part) .store va n with
    | .ok =>
      let l := bytesLE n (Config.freeNat s.free)
      (({ s with free := s.free + 1 }.locWrite x.cmd (.dev (some x.part) va) l)).setCopy h { x with pos := x.pos + n }
    | e => s.copyStops h x x.pos e
  else
    match s.engChk h none .store x.cmd.b 16 with
    | .ok =>
      let l := bytesLE 12 (Config.freeNat s.free) ++ (x.buf.drop 2).take 2 ++ bytesLE 2 status
      (({ s with free := s.free + 1 }.locWrite x.cmd (.dev none x.cmd.b) l)).setCopy h
        { x with phase := .done, st := if status / 2 = 0 then 0 else 6 }
    | e => s.copyStops h x x.pos e

/-- One piece of a moving command. -/
def State.copyPiece (s : State) (h : Nat) (x : Copy) : State :=
  let o := x.cmd.opc
  if x.phase = .list then s.copyList h x
  else if x.phase = .entry then s.copyEntry h x
  else if o = opCpk then s.copyTopK h x
  else if o = opCpq then s.copyQuant h x
  else if o = opCpr then s.copyReduce h x
  else if o = opMsg then s.copyPayload h x
  else if o = opNvq then s.copyNvme h x
  else s.copyBytes h x

/-! ## Messages (R223, R329) -/

/-- The payload has been read and is on its way to a port. -/
def Copy.inTransit (x : Copy) : Bool := x.cmd.opc == opMsg && x.phase == .moving && x.buf.length == x.total && x.st == 0

/-- Messages on their way to core g, as home and command number. -/
def State.inTransitTo (s : State) (g : Nat) : List (Nat × Nat) :=
  s.ctxs.flatMap fun e =>
    (e.2.copies.filter fun x => x.inTransit && fieldOf x.cmd.b 0 8 == g).map fun x => (e.1, x.cmd.seq)

def State.copyOf (s : State) (h n : Nat) : Option Copy := (s.ctx h).copies.find? fun x => x.cmd.seq == n && x.gen == (s.ctx h).gen

/-- The partition in which a message looks for its spore. -/
def State.msgPart (s : State) (h : Nat) (x : Copy) : Nat := if h < 1024 then s.partOf h else fieldOf x.cmd.b 8 6

def Ctx.spore (c : Ctx) (k : Nat) : Spore := c.spores.get k { state := .idle, tag := 0 }

/-- The spore that a tag names on core g: in the lowest-numbered context of the partition that has one. -/
def State.msgMatch (s : State) (g p : Nat) (tag : Nat) : Option (Nat × Nat) :=
  ((List.range 4).flatMap fun c => (List.range 4).map fun k => (4 * g + c, k)).find? fun x =>
    let sp := (s.ctx x.1).spore x.2
    s.running x.1 && s.partOf x.1 == p && sp.state != .idle && sp.tag.toNat == tag

/-- A message ends without a delivery. -/
def State.msgRefuse (s : State) (h : Nat) (x : Copy) (st : BitVec 4) : State := s.setCopy h { x with phase := .done, st := st }

/-- The message at the head of the port for spore k of job j. -/
def State.portHead (s : State) (j k : Nat) : Option PortMsg :=
  (s.core (coreOf j)).port.find? fun m => m.job == j && m.spore == k

def State.setSpore (s : State) (j k : Nat) (x : Spore) : State :=
  s.setCtx j { s.ctx j with spores := (s.ctx j).spores.set k x }

/-- A spore that is ARMED takes the first message that waits for it. -/
def State.msgAccept (s : State) (j k : Nat) : State :=
  match s.portHead j k with
  | none => s
  | some m =>
    let sp := (s.ctx j).spore k
    if sp.state ≠ .armed then s
    else
      match s.copyOf m.home m.seq with
      | none => s
      | some x => (s.setCopy m.home { x with phase := .deliver j k, pos := 0 }).setSpore j k { sp with state := .filling }

/-- Event MESSAGE_ARRIVAL: one of the messages on their way to core g reaches its port, which of them is the device's
choice: it is refused, or it waits for its spore and is accepted when the spore is ARMED. -/
def execMessageArrival (g : Nat) (s : State) : Out :=
  match s.inTransitTo g with
  | [] => .next s
  | l =>
    let (i, s1) := s.pick l.length
    let (h, n) := l.getD i (0, 0)
    match s1.copyOf h n with
    | none => .next s1
    | some x =>
      match s1.msgMatch g (s1.msgPart h x) (fieldOf x.cmd.b 48 16) with
      | none => .next ((s1.msgRefuse h x 3).copyDone h)
      | some (j, k) =>
        let off := fieldOf x.cmd.b 15 21
        if ¬ s1.spadOk j off x.total then .next ((s1.msgRefuse h x 2).copyDone h)
        else
          let c := s1.core g
          let s2 := s1.setCore g { c with port := c.port ++ [{ home := h, seq := n, job := j, spore := k }] }
          .next ((s2.setCopy h { x with phase := .message j k }).msgAccept j k)

/-- The message has not left its port because its target ended (R220) (DEDUCED, assumption log 69). -/
def State.msgLost (s : State) (h : Nat) (x : Copy) (j : Nat) : Bool :=
  !((s.core (coreOf j)).port.any fun m => m.home == h && m.seq == x.cmd.seq)

/-- The next piece of a payload enters the spore's range; OFF is a multiple of 16. -/
def State.deliverPiece (s : State) (h : Nat) (x : Copy) (j : Nat) : State :=
  let off := fieldOf x.cmd.b 15 21 + x.pos
  (s.spadWrite j off (x.buf.take 16)).setCopy h { x with pos := x.pos + 16, buf := x.buf.drop 16 }

/-- Event SPORE_START: the payload's last byte has been written, and the spore starts RUNNING (R221, R329), with predicates
and shadows of its own, zero and invalid (DESIGN CHOICE, assumption log 116). -/
def execSporeStart (j k : Nat) (s : State) : Out :=
  match s.portHead j k with
  | none => .next s
  | some m =>
    match s.copyOf m.home m.seq with
    | none => .next s
    | some x =>
      let sp := (s.ctx j).spore k
      if x.phase ≠ .deliver j k ∨ x.pos < x.total ∨ sp.state ≠ .filling then .next s
      else
        let t := Thread.spore j k
        let sender := if m.home < 1024 then coreOf m.home else 256 + (m.home - 1024)
        let regs : Tab Word :=
          [(1, BitVec.ofNat 64 (fieldOf x.cmd.b 15 21)), (2, BitVec.ofNat 64 x.total), (3, BitVec.ofNat 64 sender),
            (4, x.cmd.b)]
        let s1 := s.setCox t { Cox.reset with run := { readyAt x.cmd.c with ran := (s.stream t).ran }, regs := regs }
        let s2 := s1.setSpore j k { sp with state := .running }
        let g := s2.core (coreOf j)
        let s3 := s2.setCore (coreOf j) { g with port := g.port.erase m }
        .next ((s3.setCopy m.home { x with phase := .done }).copyDone m.home)

/-! ## The engine of a core (R317) -/

/-- A command of the running job that still has pieces for the engine (DEDUCED, assumption log 68). -/
def Copy.busy (x : Copy) : Bool :=
  !x.stopped && (match x.phase with
    | .list | .entry => true
    | .moving => !x.inTransit
    | .filling => x.st == 0 && x.pos < x.total
    | _ => false)

/-- The command at the head of the cpq can start: its context's engine work is not stopped, none of its commands still
moves, its wait token is there (R317, R321) (DEDUCED, assumption log 68). -/
def Ctx.canStart (c : Ctx) : Bool :=
  !c.cpStop && c.copies.all (fun x => !x.busy && (!x.stopped || x.gen != c.gen)) &&
    (match c.cpq with
      | [] => false
      | x :: _ => c.waitReady x.tok)

/-- Bytes moved so far: those written; for a list, an entry and a payload those read; for CPQ, whose reads are not its
writes, both. -/
def Copy.moved (x : Copy) : Nat :=
  if x.phase = .list ∨ x.phase = .entry ∨ x.cmd.opc = opMsg then x.buf.length
  else if x.cmd.opc = opCpq then Nat.min (4 * (x.cmd.c.toNat % 2 ^ 24)) (128 * x.tail.length) + x.buf.length + x.pos
  else x.pos

/-- A chunk has begun, and its next piece stays within 64 KiB (R317). -/
def Copy.inChunk (x : Copy) : Bool :=
  x.busy && (x.moved != x.mark || !x.buf.isEmpty) && decide (x.moved + 16 ≤ x.mark + 65536)

def Ctx.midChunk (c : Ctx) : Bool := c.copies.any Copy.inChunk

def Ctx.copyWork (c : Ctx) : Bool := c.canStart || c.copies.any Copy.busy

/-- The context that the engine of core g serves: the one last served while its chunk goes on, else the next with work. -/
def State.copyTurn (s : State) (g : Nat) : Option Nat :=
  let r := (s.core g).rot
  if (s.ctx (4 * g + r)).midChunk then some (4 * g + r)
  else ((List.range 4).map fun i => 4 * g + (r + 1 + i) % 4).find? fun h => (s.ctx h).copyWork

def State.served (s : State) (h : Nat) : State := s.setCore (coreOf h) { s.core (coreOf h) with rot := h % 4 }

/-- Commands of a home that can make progress outside the engine's turn: messages at a port, RTACQs that watch an entry, and
every thread of a service core. -/
def State.loose (s : State) (h : Nat) (x : Copy) : Bool :=
  match x.phase with
  | .message _ _ => true
  | .deliver j _ => decide (x.pos < x.total) || s.msgLost h x j
  | .evicting | .starting => !x.stopped
  | .moving | .filling | .entry => decide (1024 ≤ h) && x.busy
  | _ => false

/-- The commands that the engine of a core may go on with: the one whose chunk has begun, or each that has pieces left. -/
def chunkOf (l : List Copy) : List Copy :=
  match l.find? Copy.inChunk with
  | some x => [x]
  | none => l.filter Copy.busy

/-- The candidates of a COPY_CHUNK turn. -/
def State.chunkCands (s : State) (h : Nat) : List Copy :=
  let l := (s.ctx h).copies
  (l.filter (s.loose h)) ++ (if h < 1024 ∧ s.copyTurn (coreOf h) = some h then chunkOf l else [])

/-- One step of a started command: its next piece, a message's acceptance or delivery, a look at an evicted entry. -/
def State.copyTurnOf (s : State) (h : Nat) (x : Copy) : State :=
  match x.phase with
  | .message j k => if s.msgLost h x j then s.msgRefuse h x 3 else s.msgAccept j k
  | .deliver j _ => if s.msgLost h x j then s.msgRefuse h x 3 else s.deliverPiece h x j
  | .evicting =>
    let i := x.tail.headD 0
    (match s.rtChk h x.part i 0 with
      | .ok =>
        if 4 ≤ rtState (s.rtGet h x.part i 0) then s
        else let (y, s1) := s.rtAcquire h x x.part i; s1.setCopy h y
      | e => s.copyStops h x x.pos e)
  | .starting =>
    (match s.startCopy h { x with phase := .moving } with
      | .run y s1 => s1.setCopy h y
      | .chk e => s.copyStops h x x.pos e)
  | _ => (if h < 1024 then s.served h else s).copyPiece h (if x.inChunk then x else { x with mark := x.moved })

/-- Event COPY_CHUNK: the engine (or a service core's thread) performs the next piece of a chunk. Which of several
commands of the home goes on is the device's choice (DEDUCED, assumption log 71). -/
def execCopyChunk (h : Nat) (s : State) : Out :=
  match s.chunkCands h with
  | [] => .next s
  | l =>
    let (i, s1) := s.pick l.length
    match l[i]? with
    | some x => .next ((s1.copyTurnOf h x).copyDone h)
    | none => .next s1

/-! ## Completion (R318, R319, R334) -/

/-- Event COPY_COMPLETE: the commands of the home whose writes have performed complete. The step that performs the last of
them has had them complete already (DEDUCED, assumption log 71). -/
def execCopyComplete (h : Nat) (s : State) : Out := .next (s.copyDone h)

/-- The RTACQs of partition p that wait for entry i end with status `st`. -/
def Ctx.endFills (c : Ctx) (p i : Nat) (st : BitVec 4) : Ctx :=
  { c with
    copies := c.copies.map fun x =>
      if x.phase = .fill ∧ x.part = p ∧ x.tail.headD 0 = i then { x with phase := .done, st := st } else x }

def State.endFills (s : State) (p i : Nat) (st : BitVec 4) : State :=
  { s with ctxs := s.ctxs.map fun e => (e.1, e.2.endFills p i st) }

/-- The commands of every home whose writes have all performed complete. -/
def State.copiesDone (s : State) : State := s.ctxs.foldl (fun x e => x.copyDone e.1) s

/-- A fill from the host's memory finds no host link (R335). -/
def State.fillCut (s : State) (x : Copy) : Bool := x.tail.getD 2 0 / 2 ^ 63 == 1 && !s.linkUp

/-- A fill has ended: its last byte has been written, or it has failed. -/
def State.fillOver (s : State) (x : Copy) : Bool :=
  x.phase == .filling && !x.stopped && s.acked x.cmd && (x.st == 4 || x.total ≤ x.pos || s.fillCut x)

/-- Event RESIDENCY_FILL_COMPLETE: a fill of the home ends: the entry becomes RESIDENT, or ABSENT with no reference when
the fill failed, and the RTACQs that wait for it complete (R334, R335). -/
def execResidencyFillComplete (h : Nat) (s : State) : Out :=
  match (s.ctx h).copies.find? s.fillOver with
  | none => .next s
  | some x =>
    let i := x.tail.headD 0
    let good := x.st == 0 && x.total ≤ x.pos && (x.total != 0 || !s.fillCut x)
    match s.rtChk h x.part i 0 with
    | .ok =>
      let w := s.rtGet h x.part i 0
      let s1 := s.rtPut h x.part i (if good then rtWord w 2 (rtRef w) else rtWord w 0 0)
      let s2 := s1.endFills x.part i (if good then 0 else 4)
      .next (s2.setCopy h { x with phase := .done, st := if good then 0 else 4 }).copiesDone
    | .forward va => .next (s.forwardWalkFor h x.part va)
    | .bad c va =>
      .next (if s.orphan h x then ((s.endFills x.part i 4).setCopy h { x with phase := .done, st := 4 }).copiesDone
        else (s.setCopy h { x with stopped := true }).copyRecord h x.cmd x.pos c va)

/-! ## The words -/

/-- Live engine threads of a service core that its copy words forked (R331). -/
def State.svcThreads (s : State) (n : Nat) : Nat := (s.ctx (1024 + n)).copies.length

/-- A copy command issues: to the job's cpq, or on a service core as a thread that starts at once (R316, R331)
(DEDUCED, assumption log 72). -/
def copyIssue (s : State) (h : CoxH) (f : Form) (opc : BitVec 9) (k : Tok) (a b c : SReg) (mods : BitVec 10) : Out :=
  coxForm s f h [a, b, c] fun t =>
    let x := s.ctx t.home
    let cmd0 := s.mkCmd t opc k a b c mods
    let cmd := if opc = opLogb ∧ ¬ t.isSvc then { cmd0 with c := s.reg (.cox t.home) 7 } else cmd0
    match t with
    | .svc n =>
      if ¬ x.waitReady k ∨ 4 ≤ s.svcThreads n then .next s
      else
        let c1 := { x.takeWait k with cpSeq := x.cpSeq + 1 }
        let s1 := (s.setCtx t.home c1).next t
        match s1.startCopy t.home (Copy.start cmd 0 x.gen) with
        | .run y s2 =>
          .next ((s2.setCtx t.home { s2.ctx t.home with copies := (s2.ctx t.home).copies ++ [y] }).copyDone t.home)
        | .chk (.bad e va) =>
          let y := { Copy.start cmd 0 x.gen with stopped := true, phase := .starting }
          .next ((s1.setCtx t.home { s1.ctx t.home with copies := (s1.ctx t.home).copies ++ [y] }).copyRecord t.home cmd 0 e va)
        | .chk _ => .next s
    | _ =>
      if 16 ≤ x.cpq.length then .next s
      else .next ((s.setCtx t.home ({ x with cpq := x.cpq ++ [cmd], cpSeq := x.cpSeq + 1 }.bumpPush 11)).next t)

def execCpy (h : CoxH) (k : Tok) (a b c : SReg) (dsp ssp : Bool) (s : State) : Out :=
  copyIssue s h .coxOnly opCpy k a b c (modBits [dsp, ssp])
def execCpx (h : CoxH) (k : Tok) (a b c : SReg) (dsp ssp : Bool) (s : State) : Out :=
  copyIssue s h .coxOnly opCpx k a b c (modBits [dsp, ssp])
def execCpk (h : CoxH) (k : Tok) (a b c : SReg) (s : State) : Out := copyIssue s h .coxOnly opCpk k a b c 0
def execCpq (h : CoxH) (k : Tok) (a b c : SReg) (dsp ssp : Bool) (s : State) : Out :=
  copyIssue s h .coxOnly opCpq k a b c (modBits [dsp, ssp])
def execCpg (h : CoxH) (k : Tok) (a b c : SReg) (dsp ssp : Bool) (s : State) : Out :=
  copyIssue s h .coxOnly opCpg k a b c (modBits [dsp, ssp])
def execCps (h : CoxH) (k : Tok) (a b c : SReg) (dsp ssp : Bool) (s : State) : Out :=
  copyIssue s h .coxOnly opCps k a b c (modBits [dsp, ssp])
def execCpr (h : CoxH) (k : Tok) (a b c : SReg) (ssp fadd badd iadd fmax : Bool) (s : State) : Out :=
  copyIssue s h .coxOnly opCpr k a b c (modBits [false, ssp, fadd, badd, iadd, fmax])
def execMsg (h : CoxH) (k : Tok) (a b c : SReg) (ssp : Bool) (s : State) : Out :=
  copyIssue s h .any opMsg k a b c (modBits [false, ssp])
def execLogb (h : CoxH) (k : Tok) (a b : SReg) (s : State) : Out := copyIssue s h .any opLogb k a b 0 0
def execRtacq (h : CoxH) (k : Tok) (a : SReg) (s : State) : Out := copyIssue s h .any opRtacq k a 0 0 0
def execNvq (h : CoxH) (k : Tok) (a b c : SReg) (s : State) : Out := copyIssue s h .any opNvq k a b c 0

/-- RTREL gives a reference back, after the threads that its stream forked (R336). -/
def execRtrel (h : CoxH) (d a : SReg) (s : State) : Out :=
  coxForm s .any h [d, a] fun t =>
    let (p, i) := s.rtName t.home (s.reg t a)
    let fin := fun (s1 : State) (v : Word) => Host.Outcome.next ((s1.setReg t d v).next t)
    if ¬ s.released t false then .next s
    else if rtCount (s.part p) ≤ i then fin (s.joinForks t) (BitVec.allOnes 64)
    else
      withChk s t (s.rtChk t.home p i 0)
        (let s1 := s.joinForks t
         let w := s1.rtGet t.home p i 0
         if rtRef w = 0 ∨ (rtState w ≠ 2 ∧ rtState w ≠ 3) then fin s1 (BitVec.allOnes 64)
         else fin (s1.rtPut t.home p i (rtWord w (rtState w) (rtRef w - 1))) (BitVec.ofNat 64 (rtRef w - 1)))

/-- RTQRY reads one word of an entry. -/
def execRtqry (h : CoxH) (d a : SReg) (w : BitVec 2) (s : State) : Out :=
  coxForm s .any h [d, a] fun t =>
    let (p, i) := s.rtName t.home (s.reg t a)
    if rtCount (s.part p) ≤ i then .next ((s.setReg t d (BitVec.allOnes 64)).next t)
    else
      withChk s t (s.rtChk t.home p i w.toNat)
        (.next ((s.setReg t d (s.rtGet t.home p i w.toNat)).next t))

end Sys2Proof.Machine
end

