-- ==== Sys2Proof/Machine/AccOps.lean ====
section
/-! DEFINITION. Machine/AccOps.lean: the words of the access stream (Table 12.2, R305 to R315, R62). -/

namespace Sys2Proof.Machine

/-! ## The wrapper of an ACC word -/

/-- The word's predicate holds (Table 3.1). -/
def Acc.pred (x : Acc) (f : BitVec 4) : Bool := x.p (f.toNat % 8) != f.getLsbD 3

/-- An ACC word with the direction check `ok2` and the queue stall `stall`; `body` is told whether the predicate holds. -/
def accForm (s : State) (h : LaneH) (ok2 : Bool) (stall : Ctx → Bool) (body : Nat → Bool → Out) : Out :=
  laneForm s false h (fun _ => true) (fun _ => ok2) (fun _ => true) (fun j => stall (s.ctx j)) fun j =>
    body j ((s.acc j).pred h.pred)

/-- The word has issued with stream registers `x`. -/
def State.accEnd (s : State) (j : Nat) (x : Acc) : State := (s.setAcc j x).laneNext (.acc j)

/-! ## Rows and bytes -/

def rowBytes (r : Row) : List Byte := bytesLE 1024 r.toNat
def bytesRow (l : List Byte) : Row := BitVec.ofNat 8192 (natLE l)

/-- A row enters a load queue, and keeps the lines `ls` that it brought into L2 locked there until it is popped (R309). -/
def Ctx.pushLq (c : Ctx) (q : Nat) (r : Option Row) (ls : List Nat) : Ctx :=
  { c with
    lq := c.lq.set q (c.lq.get q [] ++ [r]), lqLines := c.lqLines.set q (c.lqLines.get q [] ++ [ls]) }.bumpPush (2 + q)

def Ctx.headSq (c : Ctx) (q : Nat) : Row := (c.sq.get q []).headD 0

def Ctx.popSq (c : Ctx) (q : Nat) : Ctx := { c with sq := c.sq.set q ((c.sq.get q []).drop 1) }.bumpPop (6 + q)

def State.pushRow (s : State) (j : Nat) (t : BitVec 5) (r : Option Row) (ls : List Nat) : State :=
  s.setCtx j ((s.ctx j).pushLq t.toNat r ls)

/-- The head row of a store target. -/
def State.headRow (s : State) (j : Nat) (t : BitVec 5) : Row := (s.ctx j).headSq (t.toNat % 4)

def State.dropRow (s : State) (j : Nat) (t : BitVec 5) : State := s.setCtx j ((s.ctx j).popSq (t.toNat % 4))

/-! ## Checks of row accesses (R298, R299) -/

/-- A row of the scratchpad: alignment, range, poison. -/
def State.chkSpadRow (s : State) (j : Nat) (va : Word) (read : Bool) : Option Cause :=
  if va.toNat % 16 ≠ 0 then some alignment
  else if ¬ s.spadOk j va.toNat 1024 then some spadRange
  else if read && s.spadPoisoned j va.toNat 1024 then some poisonCause
  else none

/-- The checks of a row of device memory at `va` (R298, R299). -/
def State.chkRow (s : State) (h : Nat) (perm : Perm) (va : Word) : Chk :=
  if va.toNat % 16 ≠ 0 then .bad alignment va else s.chk h perm va 1024

/-- The checks of a scratchpad row, as the outcome of an access. -/
def State.chkSpad (s : State) (h : Nat) (va : Word) (read : Bool) : Chk :=
  match s.chkSpadRow h va read with
  | some c => .bad c va
  | none => .ok

/-- The checks of a store of the row at the head of a store target: its poison, then those of the access (R389). -/
def State.chkHead (s : State) (j : Nat) (t : BitVec 5) (c : Chk) : Chk :=
  if s.rowPoisoned j t then .bad poisonCause 0 else c

/-! ## Rows in pieces (R279)

Each piece of a row access is an operation of its own: a turn of the stream performs all that are left, a slow turn the first
of them only (DESIGN CHOICE, assumption log 89). The pieces of a load are tested again in each of its turns; a store into a
scratch window goes on to its end, for which a return waits (R299, R363, R389, R402). -/

/-- Where the bytes of a row access lie. -/
inductive Side where
  | dev | spad
deriving DecidableEq, Repr

/-- The place of a piece that a gather or scatter leaves out (R310). -/
def absent : Nat := 2 ^ 64

/-- Where checked pieces of device memory lie. -/
def State.places (s : State) (h : Nat) (perm : Perm) (l : List (Word × Nat)) : List (Nat × Nat) :=
  l.map fun x => (s.addr h perm x.1, x.2)

/-- The pieces of a scratchpad row. -/
def spadPieces (va : Word) : List (Nat × Nat) := (List.range 64).map fun i => (va.toNat + 16 * i, 16)

/-- The addresses of the pieces of a row at `va`. -/
def rowAddrs (va : Word) : List Word := (piecesOf va 1024).map (·.1)

/-- How many of some pieces perform in this turn. -/
def State.moveCount (s : State) (l : List (Nat × Nat)) : Nat := if s.slow then Nat.min 1 l.length else l.length

/-- Line `ln` stays locked for the row that the access stream of context j is loading, when the load of a piece has brought
it into the crew's L2 slice, which did not hold it in state `old` (R309). -/
def State.lockNew (s : State) (j ln : Nat) (old : State) : State :=
  if (s.l2 j).lines.contains ln && !(old.l2 j).lines.contains ln then
    s.setAcc j { s.acc j with moving := (s.acc j).moving.map fun m => { m with locked := m.locked ++ [ln] } }
  else s

/-- Pieces are read in order; what each of them brings into L2 is locked there before the next one is read. -/
def State.readAt (s : State) (h : Nat) (d : Side) : List (Nat × Nat) → List Byte × State
  | [] => ([], s)
  | (a, n) :: r =>
    let (b, s1) :=
      if a = absent then (List.replicate n 0, s)
      else match d with
        | .dev => let (l, s1) := s.loadAt h a n .l1; (l, s1.lockNew h (a / 128) s)
        | .spad => (s.spadRead h a n, s)
    let (bs, s2) := s1.readAt h d r
    (b ++ bs, s2)

/-- Pieces are written in order; an absent piece is skipped. -/
def State.writeAt (s : State) (t : Thread) (d : Side) : List (Nat × Nat) → List Byte → State
  | [], _ => s
  | (a, n) :: r, l =>
    (if a = absent then s
     else match d with
      | .dev => s.storeAt t none a (l.take n)
      | .spad => s.spadWrite t.home a (l.take n)).writeAt t d r (l.drop n)

def State.setMoving (s : State) (j : Nat) (m : Option Moving) : State := s.setAcc j { s.acc j with moving := m }

/-- The bytes that the first `c` pieces take. -/
def piecesBytes (l : List (Nat × Nat)) (c : Nat) : Nat := ((l.take c).map (·.2)).foldl (· + ·) 0

/-- The first of some places that cannot be accessed now, by its place among them, and the cause: a scratch window that
refuses it, or poison that is read (R389, R402, R403). -/
def State.pieceFault (s : State) (j : Nat) (d : Side) (store : Bool) (l : List (Nat × Nat)) : Option (Nat × Cause) :=
  l.zipIdx.findSome? fun x =>
    if x.1.1 = absent then none
    else match d with
      | .dev =>
        match (if inWindow x.1.1 then s.placeFault (s.partOf j) store x.1.1 else none) with
        | some c => some (x.2, c)
        | none => if !store && s.poisoned x.1.1 x.1.2 then some (x.2, poisonCause) else none
      | .spad => if !store && s.spadPoisoned j x.1.1 x.1.2 then some (x.2, poisonCause) else none

/-- A read in progress goes on, unless a piece whose turn has come fails: then the word faults there, and no value of it is
kept. `fin` gets the bytes, and the lines brought into L2, once the last piece has performed. -/
def State.moveLoad (s : State) (j : Nat) (d : Side) (m : Moving) (fin : List Byte → List Nat → State → Out) : Out :=
  let c := s.moveCount m.left
  match s.pieceFault j d false (m.left.take c) with
  | some (i, e) => .next ((s.setMoving j none).fault (.acc j) e (m.vas.getD i 0))
  | none =>
    let (b, s2) := (s.setMoving j (some m)).readAt j d (m.left.take c)
    let ls := ((s2.acc j).moving.getD m).locked
    if m.left.length ≤ c then fin (m.bytes ++ b) ls (s2.setMoving j none)
    else .next (s2.setMoving j (some { left := m.left.drop c, vas := m.vas.drop c, bytes := m.bytes ++ b, locked := ls }))

/-- A write in progress goes on; `fin` gets the state once the last piece has performed. -/
def State.moveStore (s : State) (j : Nat) (d : Side) (m : Moving) (fin : State → Out) : Out :=
  let c := s.moveCount m.left
  let s2 := s.writeAt (.acc j) d (m.left.take c) m.bytes
  if m.left.length ≤ c then fin (s2.setMoving j none)
  else .next (s2.setMoving j (some
    { m with left := m.left.drop c, vas := m.vas.drop c, bytes := m.bytes.drop (piecesBytes m.left c) }))

/-- A row access goes on where it stands, or begins with `start` once its checks have passed (R299). -/
def moveRow (s : State) (j : Nat) (c : Chk) (start : Moving) (go : Moving → Out) : Out :=
  match (s.acc j).moving with
  | some m => go m
  | none => withChk s (.acc j) c (go start)

/-! ## Address registers (R306) -/

/-- AMV waits for its call in mode 0x12, and takes a SCAL only. -/
def execAmv (h : LaneH) (t : AReg) (src : AmvSrc) (s : State) : Out :=
  let call := src == .call
  laneForm s false h (fun _ => true) (fun _ => true) (fun j => !call || s.headIs false .scal (fun _ => true) j)
    (fun j => call && ((s.ctx j).headCall false).isNone) fun j =>
    let x := s.acc j
    if call && x.pred h.pred && s.callPoisoned j false 1 then .next (s.fault (.acc j) poisonCause 0)
    else
    let v := match src with
      | .reg b => x.a b
      | .imm i => simm16 i
      | .call => match (s.ctx j).headCall false with | some c => c.payload | none => 0
    let s1 := if call then s.setCtx j ((s.ctx j).popCalls false 1) else s
    .next (s1.accEnd j (if x.pred h.pred then x.setA t v else x))

def AluSrc.value (x : Acc) : AluSrc → Word
  | .reg i => x.a i
  | .imm i => simm16 i

def accAlu (s : State) (h : LaneH) (t b : AReg) (src : AluSrc) (op : Word → Word → Word) : Out :=
  accForm s h true (fun _ => false) fun j p =>
    let x := s.acc j
    .next (s.accEnd j (if p then x.setA t (op (x.a b) (AluSrc.value x src)) else x))

def execAadd (h : LaneH) (t b : AReg) (src : AluSrc) (s : State) : Out := accAlu s h t b src (· + ·)
def execAmul (h : LaneH) (t b : AReg) (src : AluSrc) (s : State) : Out := accAlu s h t b src (· * ·)

/-! ## Rows (R307, R308) -/

/-- A load of one row; with a false predicate a void row is pushed. -/
def accLoad (s : State) (h : LaneH) (t : BitVec 5) (b : AReg) (m : AMode) (d : Side) : Out :=
  accForm s h (isLoadTgt t) (fun c => isLoadTgt t && c.lqFull t.toNat) fun j p =>
    let (va, x) := (s.acc j).address b m
    if ¬ p then .next ((s.pushRow j t none []).accEnd j x)
    else
      let (c, l) := match d with
        | .dev => (s.chkRow j .load va, s.places j .load (piecesOf va 1024))
        | .spad => (s.chkSpad j va true, spadPieces va)
      moveRow s j c { left := l, vas := rowAddrs va, bytes := [], locked := [] } fun y =>
        s.moveLoad j d y fun l ls s1 => .next ((s1.pushRow j t (some (bytesRow l)) ls).accEnd j { x with moving := none })

def execAld (h : LaneH) (t : BitVec 5) (b : AReg) (m : AMode) (s : State) : Out := accLoad s h t b m .dev

/-- DEDUCED, assumption log 63. -/
def execAlds (h : LaneH) (t : BitVec 5) (b : AReg) (m : AMode) (s : State) : Out := accLoad s h t b m .spad

/-- A store of the head row of sq, which leaves the queue with the last piece; with a false predicate the row is popped and
discarded. -/
def accStore (s : State) (h : LaneH) (t : BitVec 5) (b : AReg) (m : AMode) (d : Side) : Out :=
  accForm s h (isStoreTgt t) (fun c => isStoreTgt t && c.sqEmpty (t.toNat % 4)) fun j p =>
    let (va, x) := (s.acc j).address b m
    if ¬ p then .next ((s.dropRow j t).accEnd j x)
    else
      let (c, l) := match d with
        | .dev => (s.chkRow j .store va, s.places j .store (piecesOf va 1024))
        | .spad => (s.chkSpad j va false, spadPieces va)
      moveRow s j (s.chkHead j t c) { left := l, vas := rowAddrs va, bytes := rowBytes (s.headRow j t), locked := [] } fun y =>
        s.moveStore j d y fun s1 => .next ((s1.dropRow j t).accEnd j { x with moving := none })

def execAst (h : LaneH) (t : BitVec 5) (b : AReg) (m : AMode) (s : State) : Out := accStore s h t b m .dev

/-- DEDUCED, assumption log 63. -/
def execAsts (h : LaneH) (t : BitVec 5) (b : AReg) (m : AMode) (s : State) : Out := accStore s h t b m .spad

/-! ## Gather and scatter (R310) -/

/-- The checks of the index table and of the base register; the indices when they pass (DEDUCED, assumption log 71). -/
def State.indexTable (s : State) (j : Nat) (tab base : Word) : Except (Cause × Word) (List Nat) :=
  if tab.toNat % 4 ≠ 0 then .error (alignment, tab)
  else if base.toNat % 16 ≠ 0 then .error (alignment, base)
  else if ¬ s.spadOk j tab.toNat 256 then .error (spadRange, tab)
  else if s.spadPoisoned j tab.toNat 256 then .error (poisonCause, tab)
  else
    let l := s.spadRead j tab.toNat 256
    .ok ((List.range 64).map fun i => natLE ((l.drop (4 * i)).take 4))

/-- The pieces that the indices name, without those of index 0xFFFFFFFF. -/
def indexed (base : Word) (idx : List Nat) : List (Word × Nat) :=
  (idx.filter fun i => i != 0xFFFFFFFF).map fun i => (base + BitVec.ofNat 64 (16 * i), 16)

/-- Where the 64 pieces lie, those of index 0xFFFFFFFF absent. -/
def State.indexPlaces (s : State) (j : Nat) (perm : Perm) (base : Word) (idx : List Nat) : List (Nat × Nat) :=
  idx.map fun i => if i = 0xFFFFFFFF then (absent, 16) else (s.addr j perm (base + BitVec.ofNat 64 (16 * i)), 16)

/-- The checks of a gather or scatter, its pieces when they pass, and their addresses. -/
def State.indexMove (s : State) (j : Nat) (perm : Perm) (tab base : Word) : Chk × List (Nat × Nat) × List Word :=
  match s.indexTable j tab base with
  | .error (c, a) => (.bad c a, [], [])
  | .ok idx => (s.chkPieces j perm (indexed base idx), s.indexPlaces j perm base idx,
      idx.map fun i => base + BitVec.ofNat 64 (16 * i))

def execAgth (h : LaneH) (t : BitVec 5) (b i : AReg) (m : GMode) (s : State) : Out :=
  accForm s h (isLoadTgt t) (fun c => isLoadTgt t && c.lqFull t.toNat) fun j p =>
    let (va, x) := (s.acc j).gaddress b m
    if ¬ p then .next ((s.pushRow j t none []).accEnd j x)
    else
      let (c, l, vas) := s.indexMove j .load va ((s.acc j).a i)
      moveRow s j c { left := l, vas := vas, bytes := [], locked := [] } fun y =>
        s.moveLoad j .dev y fun l ls s1 =>
          .next ((s1.pushRow j t (some (bytesRow l)) ls).accEnd j { x with moving := none })

def execAsct (h : LaneH) (t : BitVec 5) (b i : AReg) (m : GMode) (s : State) : Out :=
  accForm s h (isStoreTgt t) (fun c => isStoreTgt t && c.sqEmpty (t.toNat % 4)) fun j p =>
    let (va, x) := (s.acc j).gaddress b m
    if ¬ p then .next ((s.dropRow j t).accEnd j x)
    else
      let (c, l, vas) := s.indexMove j .store va ((s.acc j).a i)
      moveRow s j (s.chkHead j t c) { left := l, vas := vas, bytes := rowBytes (s.headRow j t), locked := [] } fun y =>
        s.moveStore j .dev y fun s1 => .next ((s1.dropRow j t).accEnd j { x with moving := none })

/-- The 128-byte lines of [va, va + n). -/
def linesOf (va : Word) (n : Nat) : List Word :=
  let a := va.toNat / 128
  (List.range ((va.toNat + n + 127) / 128 - a)).map fun i => BitVec.ofNat 64 (128 * (a + i))

/-- The line at a resolved address is fetched into the crew's L2 slice, when it lies in memory that can be read. -/
def State.fetchLine (s : State) (h ra : Nat) : State :=
  if (s.placeFault (s.partOf h) false ra).isNone then (s.loadAt h ra 128 .l2).2 else s

/-- A line is fetched when its page has a translation; the walk that has failed is used up. -/
def State.prefetch (s : State) (h : Nat) (va : Word) : State :=
  match s.xlate h .load va with
  | .ok ra => s.fetchLine h ra
  | _ => s.dropFailed h va

/-- A line whose page waits for a walk. -/
def State.unwalked (s : State) (h : Nat) (va : Word) : Bool := match s.xlate h .load va with | .forward => true | _ => false

/-- APF fetches its lines into L2, changes no value and never faults (R312); its post-increment happens. It waits for
the walks of its pages; that it does not pass on meanwhile is the model's choice (DESIGN CHOICE, assumption log 106). -/
def execApf (h : LaneH) (b : AReg) (m : AMode) (s : State) : Out :=
  accForm s h true (fun _ => false) fun j p =>
    let (va, x) := (s.acc j).address b m
    let ls := linesOf va 1024
    match (if p then ls.find? (s.unwalked j) else none) with
    | some a => .next (s.forwardWalk j a)
    | none => .next ((if p then ls.foldl (fun y a => y.prefetch j a) s else s).accEnd j x)

/-! ## Transposed stores (R311) -/

def XW.size : XW → Nat
  | .n8 => 1
  | .i16 => 2
  | .i32 => 4

/-- Column e of the 32 rows: element e of each. An element that lies beyond its row is a free value (DESIGN CHOICE,
assumption log 2) (DESIGN CHOICE, assumption log 66). -/
def column (free size e : Nat) (rows : List Row) : List Byte :=
  (List.range 32).flatMap fun r =>
    if size * (e + 1) ≤ 1024 then bytesLE size (elem (8 * size) (rows.getD r 0) e)
    else bytesLE size (Config.freeNat (free + 32 * e + r))

/-- The columns' pieces, column e at `addr` + e × `stride`. -/
def columnPieces (addr stride : Word) (size n : Nat) : List (Word × Nat) :=
  (List.range n).flatMap fun e => piecesOf (addr + BitVec.ofNat 64 e * stride) (32 * size)

/-- Rows enter `taken` from the queue until there are 32, or, with `read`, up to a poisoned one (R389). -/
def State.takeRows (s : State) (j q : Nat) (read : Bool) : State :=
  (List.range 32).foldl (fun x _ =>
    let a := x.acc j
    if a.taken.length < 32 ∧ ¬ (x.ctx j).sqEmpty q ∧ ¬ (read ∧ x.headPoisoned j (6 + q)) then
      (x.setAcc j { a with taken := a.taken ++ [some ((x.ctx j).headSq q)] }).setCtx j ((x.ctx j).popSq q)
    else x) s

/-- The checks of an ASTX. -/
def State.chkAstx (s : State) (j size : Nat) (va stride : Word) (l : List (Word × Nat)) : Chk :=
  if va.toNat % 16 ≠ 0 then .bad alignment va
  else if stride.toNat % 16 ≠ 0 ∨ stride.toNat < 32 * size then .bad alignment stride
  else s.chkPieces j .store l

/-- The 32 rows of an ASTX have been popped. -/
def Acc.full (x : Acc) : Bool := decide (32 ≤ x.taken.length)

/-- ASTX: the checks come before the first pop, and the columns are those of the lane count then; the rows are popped as
they arrive, and the stores follow the last. A poisoned row stops the word before its pop; stores to a scratch window
are tested again when the first of them arrives there (DESIGN CHOICE, assumption logs 2, 66 and 89). -/
def execAstx (h : LaneH) (w : XW) (t : BitVec 5) (b i : AReg) (m : GMode) (s : State) : Out :=
  accForm s h (isStoreTgt t) (fun c => isStoreTgt t && c.sqEmpty (t.toNat % 4) && !(s.acc s.cur.home).full) fun j p =>
    let (va, x) := (s.acc j).gaddress b m
    let stride := (s.acc j).a i
    let size := XW.size w
    let n := lanesOf (s.w16 j)
    let l := columnPieces va stride size n
    if ¬ p then
      let s1 := s.takeRows j (t.toNat % 4) false
      .next (if (s1.acc j).full then s1.accEnd j { x with taken := [] } else s1)
    else
      moveRow s j (s.chkAstx j size va stride l)
          { left := s.places j .store l, vas := l.map (·.1), bytes := [], locked := [] } fun y =>
        let s1 := s.takeRows j (t.toNat % 4) true
        if ¬ (s1.acc j).full then
          let s2 := s1.setMoving j (some y)
          .next (if ¬ (s1.ctx j).sqEmpty (t.toNat % 4) then s2.fault (.acc j) poisonCause 0 else s2)
        else
          let cols := piecesBytes y.left y.left.length / (32 * size)
          match (if y.bytes.isEmpty then s1.pieceFault j .dev true y.left else none) with
          | some (i, c) => .next ((s1.setMoving j none).fault (.acc j) c (y.vas.getD i 0))
          | none =>
          let (y1, s2) :=
            if y.bytes.isEmpty then
              let rows := (s1.acc j).taken.map fun r => r.getD 0
              let bytes := (List.range cols).flatMap fun e => column s1.free size e rows
              (({ y with bytes := bytes } : Moving), { s1 with free := s1.free + 32 * cols })
            else (y, s1)
          s2.moveStore j .dev y1 fun s3 => .next (s3.accEnd j { x with taken := [], moving := none })

/-! ## Load blocks (R313, R314) -/

def blockCapacity : Cause := { cls := 12, sub := 0 }

def setFlag (w : BitVec 64) (i : Nat) (b : Bool) : BitVec 64 :=
  if b then w ||| BitVec.ofNat 64 (2 ^ i) else w &&& ~~~ BitVec.ofNat 64 (2 ^ i)

/-- The translation of each page of a block, and the place of its lines (R299); poison is met by a load of the line only. -/
def State.chkBlock (s : State) (j : Nat) (va : Word) (n : Nat) : Chk :=
  let l := (linesOf va (128 * n)).map fun a => (a, 128)
  match s.chkXlate j .load l with
  | .ok => s.chkPlace j .load l
  | c => c

def execAldb (h : LaneH) (b : AReg) (f lines1 : BitVec 6) (s : State) : Out :=
  accForm s h true (fun _ => false) fun j p =>
    let c := s.ctx j
    let x := s.acc j
    let va := x.a b
    let n := lines1.toNat + 1
    let others := c.blocks.filter fun y => y.flag != f.toNat
    if ¬ p then .next (s.accEnd j x)
    else if va.toNat % 128 ≠ 0 then .next (s.fault (.acc j) alignment va)
    else if c.blocks.any (fun y => y.flag == f.toNat && !y.filled) then .next s
    else if 1024 < (others.map (·.lines)).foldl (· + ·) 0 + n then .next (s.fault (.acc j) blockCapacity va)
    else
      withChk s (.acc j) (s.chkBlock j va n)
        (let held := (linesOf va (128 * n)).map fun a => s.addr j .load a / 128
         let b1 : Block := { flag := f.toNat, addr := va, lines := n, held := held, filled := false }
         let s1 := s.setCtx j { c with blocks := others ++ [b1] }
         .next (s1.accEnd j { x with flags := setFlag x.flags f.toNat false }))

/-- Event LOAD_BLOCK_FILL: the lines of the block of flag f arrive in the crew's L2 slice, where each stays locked from its
arrival until the block is released (R313). -/
def execLoadBlockFill (j : Nat) (f : BitVec 6) (s : State) : Out :=
  let c := s.ctx j
  if c.blocks.any fun y => y.flag == f.toNat && !y.filled then
    let bs := c.blocks.map fun y => if y.flag = f.toNat then { y with filled := true } else y
    let lines := (c.blocks.filter fun y => y.flag == f.toNat).flatMap (·.held)
    let s1 := lines.foldl (fun y a => y.fetchLine j (128 * a)) (s.setCtx j { c with blocks := bs })
    .next (s1.setAcc j { s1.acc j with flags := setFlag (s1.acc j).flags f.toNat true })
  else .next s

def execAwf (h : LaneH) (f : BitVec 6) (s : State) : Out :=
  accForm s h true (fun _ => false) fun j p =>
    if p && !(s.acc j).flags.getLsbD f.toNat then .next s else .next (s.accEnd j (s.acc j))

/-! ## Loops, arms, calls, JOIN (R315) -/

/-- The STRIDE calls at the head of cqa, NOTEs between them passed over (DESIGN CHOICE, assumption log 113); the first
call after them; the entries up to and with it. -/
def takeStrides : List Call → List Call × Option Call × Nat
  | [] => ([], none, 0)
  | c :: r =>
    if c.ty = .note then let (l, o, n) := takeStrides r; (l, o, n + 1)
    else if c.ty = .stride then let (l, o, n) := takeStrides r; (c :: l, o, n + 1)
    else ([], some c, 1)

/-- A STRIDE payload: register and signed bytes (R214). -/
def strideOf (c : Call) : Nat × Word :=
  (fieldOf c.payload 48 5, (BitVec.ofNat 48 (fieldOf c.payload 0 48)).signExtend 64)

/-- DEDUCED, assumption log 29. -/
def execAloop (h : LaneH) (lvl : BitVec 3) (count : BitVec 16) (s : State) : Out :=
  let t := s.cur
  let pc := (s.stream t).pc
  let fs := s.frames t
  let legal := loopLegal fs lvl.toNat count.toNat pc
  let calls := fun (j : Nat) => takeStrides (s.ctx j).cqa
  laneForm s false h (fun _ => legal) (fun _ => true)
    (fun j =>
      let (l, o, _) := calls j
      (match o with | some c => c.ty == .trip | none => true) && decide (l.length ≤ 4) &&
        l.all fun c => c.g.toNat == lvl.toNat)
    (fun j => ((s.ctx j).headCall false).isNone || (legal && (calls j).2.1.isNone)) fun j =>
    match calls j with
    | (l, some c, n) =>
      if s.callPoisoned j false n then .next (s.fault t poisonCause 0)
      else
      let x := s.acc j
      let strides := l.map strideOf
      let level : Level :=
        { num := lvl.toNat, first := pc + 8, last := pc + 8 + BitVec.ofNat 64 (8 * count.toNat), idx := 0,
          trip := c.payload.toNat % 2 ^ 32, win := 0, strides := strides,
          saved := strides.map fun p => (p.1, x.a (BitVec.ofNat 5 p.1)) }
      let (fs', nxt) := openLoop fs level
      let q := s.ctx j
      .next ((s.setCtx j ({ q with cqa := q.cqa.drop n }.bumpPops 1 n)).laneGo t fs' nxt true)
    | _ => .next s

/-- DEDUCED, assumption logs 28 and 29. -/
def execAarm (h : LaneH) (n : BitVec 4) (lens : Word) (s : State) : Out :=
  let t := s.cur
  let pc := (s.stream t).pc
  let fs := s.frames t
  let legal := armLegal fs n.toNat lens pc
  laneFormTo s false h (armBytes n.toNat lens) (fun _ => legal) (fun _ => true)
    (s.headIs false .arm fun p => decide (p.toNat < n.toNat)) (fun j => ((s.ctx j).headCall false).isNone) fun j =>
    match (s.ctx j).headCall false with
    | none => .next s
    | some c =>
      if s.callPoisoned j false 1 then .next (s.fault t poisonCause 0)
      else
      let (fs', nxt) := openArm fs n.toNat c.payload.toNat lens pc
      .next ((s.setCtx j ((s.ctx j).popCalls false 1)).laneGo t fs' nxt true)

/-- What a call does to the stream: a SCAL sets a register, a MASK sets p1 to p7. -/
def Acc.callEffect (x : Acc) (b : AReg) (c : Call) : Acc :=
  match c.ty with
  | .scal => x.setA b c.payload
  | .mask => { x with preds := BitVec.ofNat 8 (c.payload.toNat % 256 / 2 * 2) }
  | _ => x

def execAcall (h : LaneH) (b : AReg) (s : State) : Out :=
  laneForm s false h (fun _ => true) (fun _ => true)
    (fun j => match (s.ctx j).headCall false with | some c => c.ty == .scal || c.ty == .mask | none => true)
    (fun j => ((s.ctx j).headCall false).isNone) fun j =>
    match (s.ctx j).headCall false with
    | none => .next s
    | some c =>
      let x := s.acc j
      if x.pred h.pred && s.callPoisoned j false 1 then .next (s.fault (.acc j) poisonCause 0)
      else
      let s1 := s.setCtx j ((s.ctx j).popCalls false 1)
      .next (s1.accEnd j (if x.pred h.pred then x.callEffect b c else x))

def execAccJoin (h : LaneH) (s : State) : Out := laneJoin s false h

end Sys2Proof.Machine
end

