-- ==== Sys2Proof/Machine/Binning.lean ====
section
/-! DEFINITION. Machine/Binning.lean: integrity events, and the operating bins of a crew: its re-binning, readmission and
retirement (R113, R144, R391 to R395). -/

namespace Sys2Proof.Machine

/-- STATE of BINc (Table 16.13). -/
def Crew.binState (c : Crew) : Nat := fieldOf c.bin 62 2
def Crew.binNum (c : Crew) : Nat := fieldOf c.bin 0 3
def Crew.binFails (c : Crew) : Nat := fieldOf c.bin 48 8

def binWord (st fails n : Nat) : Word := BitVec.ofNat 64 (st % 4 * 2 ^ 62 + fails % 256 * 2 ^ 48 + n % 8)

/-- An event of re-binning, about no fault record (Table 16.14). -/
def State.binEvent (s : State) (c kind : Nat) : State := s.logEvent kind (s.crew c).binNum c [0, 0, 0, 0]

/-- Step 1 of R393: the crew is fenced and its jobs leave. -/
def State.binStart (s : State) (c : Nat) (retest : Bool) : State :=
  let x := s.crew c
  s.setCrew c { x with bin := binWord 1 x.binFails x.binNum, step := .draining s.now, retest := retest }

/-- A crew whose array cannot be trusted enters re-binning; with known-answer scheduling given to the host, the case goes
there only. A crew that is TESTING or RETIRED ignores it (R391) (DEDUCED, assumption log 92). -/
def State.binTrigger (s : State) (c : Nat) : State :=
  if (s.crew c).binState ≠ 0 then s
  else if s.assisted 5 then s.forward 5 (.trigger c)
  else s.binStart c false

/-- A known-answer mismatch is counted (Table 16.13). -/
def State.countFail (s : State) (c : Nat) : State :=
  let x := s.crew c
  s.setCrew c { x with bin := withField x.bin 48 8 (Nat.min 255 (x.binFails + 1)) }

/-- The active records of all dies whose group has no crew in service are dropped, and their queues stop (R395). -/
def State.dropDead (s : State) : State :=
  let gone := s.dies.flatMap fun e => e.2.active.filter fun a => !s.groupAlive a.nest
  let s1 := { s with dies := s.dies.map fun e => (e.1, { e.2 with active := e.2.active.filter fun a => s.groupAlive a.nest }) }
  gone.foldl (fun x a => x.queueError a.nest.part a.nest.queue 5) s1

/-- The crew is retired: fenced until reset, its planes evicted (R395). Jobs that are still there leave
(DEDUCED, assumption log 81). -/
def State.binRetire (s : State) (c : Nat) : State :=
  let x := s.crew c
  if x.binState = 2 then s
  else
    let js := (List.range 16).filter fun j => eBound (x.entry j)
    let s1 := s.evict c js
    let y := s1.crew c
    let s2 := s1.setCrew c
      { y with
        dir := [], load := none, tile := none, bin := binWord 2 y.binFails y.binNum, retest := false
        step := if s1.crewEmpty c then .none else .draining s.now }
    (s2.binEvent c 7).dropDead

/-- A CMD of BINc: 1 steps to the next bin, 2 retests, 3 retires (Table 16.13). -/
def State.binCmd (s : State) (c cmd : Nat) : State :=
  if cmd = 1 ∧ (s.crew c).binState = 0 then s.binStart c false
  else if cmd = 2 ∧ (s.crew c).binState = 0 then s.binStart c true
  else if cmd = 3 then s.binRetire c
  else s

/-- Step 2 of R393: the next bin, which settles for 1 ms; past bin 5 the crew is retired. -/
def State.binNext (s : State) (c : Nat) : State :=
  let x := s.crew c
  if x.binNum = 5 then s.binRetire c
  else s.setCrew c { x with bin := binWord 1 x.binFails (x.binNum + 1), step := .settling s.now, retest := false }

/-- The crew is empty, or its supply and clock have settled: the next step of R393 starts. -/
def State.binStepEnd (s : State) (c : Nat) : State :=
  let x := s.crew c
  match x.step with
  | .draining _ =>
    if ¬ s.crewEmpty c then s
    else if x.binState = 2 then s.setCrew c { x with step := .none }
    else if x.retest then s.setCrew c { x with step := .battery (s.crewNow c), retest := false }
    else s.binNext c
  | .settling t => if t + s.ms ≤ s.now then s.setCrew c { x with step := .battery (s.crewNow c) } else s
  | _ => s

/-- The battery of 8 passes ends, clean or not, 20,608 cycles of the crew's clock after its start (R393, steps 3 and 4)
(DESIGN CHOICE, assumption log 20). -/
def State.batteryEnd (s : State) (c : Nat) (clean : Bool) : State :=
  let x := s.crew c
  match x.step with
  | .battery t =>
    if s.crewNow c < t + 20608 then s
    else if clean then (s.setCrew c { x with bin := binWord 0 x.binFails x.binNum, step := .none }).binEvent c 6
    else
      ((s.countFail c).logEvent 5 (Nat.min 5 (x.binNum + 1)) c [0, 0, 0, 0]).binNext c
  | _ => s

/-! ## Integrity events (R113, R144, Table 16.2) -/

/-- An integrity event of a job's array work: an event record of `kind`, and a record to the partition supervisor that stops
no unit (DEDUCED, assumption logs 78 and 86). -/
def State.integrity (s : State) (h kind : Nat) (sub : Byte) : State :=
  let c : Cause := { cls := 18, sub := sub }
  let r := s.mkRecord h .none c 0 0 0
  (s.logEvent kind sub.toNat (crewOf h) [r.word (s.pendOf r) 0, 0, 0, 0]).postRecord c r

/-! ## Events -/

/-- Event BIN_STEP: a service core writes 1 into CMD of BINc. -/
def execBinStep (c : Nat) (s : State) : Out := .next (s.binCmd c 1)
/-- Event BIN_RETEST: a service core writes 2 into CMD of BINc. -/
def execBinRetest (c : Nat) (s : State) : Out := .next (s.binCmd c 2)
/-- Event BIN_RETIRE: a service core writes 3 into CMD of BINc. -/
def execBinRetire (c : Nat) (s : State) : Out := .next (s.binCmd c 3)
/-- Event BIN_SETTLE: the supply and clock of a crew in re-binning have settled, or its last job has left it. -/
def execBinSettle (c : Nat) (s : State) : Out := .next (s.binStepEnd c)
/-- Event KNOWN_ANSWER_BATTERY: the battery ends. Whether the crew's array gave every answer is the event's input. -/
def execKnownAnswerBattery (c : Nat) (clean : Bool) (s : State) : Out := .next (s.batteryEnd c clean)

end Sys2Proof.Machine
end

