-- ==== Sys2Proof/Machine/Frond.lean ====
section
/-! DEFINITION. Machine/Frond.lean: format words and shape words, operand images, the planes' contents, and the arithmetic of
the frond array (R83, R84, R101 to R109, R121 to R125, R127). -/

namespace Sys2Proof.Machine

/-! ## Format words (Table 6.3) -/

def fmtA (f : Word) : Nat := fieldOf f 0 4
def fmtB (f : Word) : Nat := fieldOf f 4 4
def fmtO (f : Word) : Nat := fieldOf f 8 4
def fmtScm (f : Word) : Nat := fieldOf f 12 2
def fmtBlen (f : Word) : Nat := fieldOf f 14 2
def fmtNsc (f : Word) : Nat := fieldOf f 16 5
def fmtAmx (f : Word) : Bool := fieldOf f 24 1 == 1
def fmtAmr (f : Word) : Nat := fieldOf f 25 2
def fmtTa (f : Word) : Bool := fieldOf f 28 1 == 1
def fmtTb (f : Word) : Bool := fieldOf f 29 1 == 1

/-- Subcause 2: a reserved field or a reserved code (Table 6.4). -/
def fmtReserved (f : Word) : Bool :=
  fieldOf f 30 34 != 0 || fieldOf f 27 1 != 0 || fieldOf f 21 3 != 0 || decide (9 ≤ fmtA f ∨ 9 ≤ fmtB f ∨ 9 ≤ fmtO f) ||
    fmtScm f == 3 || fmtBlen f != 0

/-- The row of Table 5.7 that a format belongs to: 0 E4M3 and E5M2, 1 DM8, 2 I8 and N8, 3 BF16 and binary16. -/
def comboRow (c : Nat) : Option Nat :=
  if c = 1 ∨ c = 2 then some 0 else if c = 0 then some 1 else if c = 3 ∨ c = 4 then some 2
  else if c = 5 ∨ c = 6 then some 3 else none

/-- The combination stands in Table 5.7. -/
def comboOk (f : Word) : Bool :=
  match comboRow (fmtA f), comboRow (fmtB f) with
  | some a, some b =>
    a == b &&
      (if a = 2 then fmtScm f == 0 && fmtO f == 8 && !fmtAmx f
      else (fmtO f == 7 || fmtO f == 5 || fmtO f == 6) && (if a = 0 then true else decide (fmtScm f ≤ 1)))
  | _, _ => false

def fmtIsInt (f : Word) : Bool := comboRow (fmtA f) == some 2

/-- Bytes of an element of format code c. -/
def sizeOf (c : Nat) : Nat := if c ≤ 4 then 1 else if c ≤ 6 then 2 else 4

def wideFmt (c : Nat) : Bool := c == 5 || c == 6

/-- Before full service a tile command may name DM8 and E4M3 only (R420). -/
def State.fmtServed (s : State) (f : Word) : Bool := s.boot.full || decide (fmtA f ≤ 1 ∧ fmtB f ≤ 1)

/-! ## Shape words (Table 6.5) -/

def shM (c : Word) : Nat := fieldOf c 0 16
def shK (c : Word) : Nat := fieldOf c 16 16
def shN (c : Word) : Nat := fieldOf c 32 16
def shRow0 (c : Word) : Nat := fieldOf c 48 8
/-- HND and ROW0 together. -/
def shHnd (c : Word) : Nat := fieldOf c 48 16

/-! ## Images (R102, R124, R125) -/

def align128 (n : Nat) : Nat := (n + 127) / 128 * 128

def off (a : Word) (n : Nat) : Word := a + BitVec.ofNat 64 n

/-- The addresses of row m of an image of `rows` × `cols` elements of `sz` bytes. -/
def imageRow (a : Word) (rows cols sz m : Nat) (transposed : Bool) : List (Word × Nat) :=
  if transposed then (List.range cols).map fun k => (off a ((k * rows + m) * sz), sz)
  else [(off a (m * cols * sz), cols * sz)]

/-- Where an A image's scales start (R124). -/
def mmScales (c f : Word) : Nat := align128 (shM c * shK c * sizeOf (fmtA f))

def mmX (cmd : Cmd) (f : Word) (m : Nat) : List (Word × Nat) :=
  imageRow cmd.a (shM cmd.c) (shK cmd.c) (sizeOf (fmtA f)) m (fmtTa f)
def mmRs (cmd : Cmd) (f : Word) (m : Nat) : List (Word × Nat) :=
  if fmtScm f = 1 then [(off cmd.a (mmScales cmd.c f + 4 * m), 4)] else []
def mmEa (cmd : Cmd) (f : Word) (m : Nat) : List (Word × Nat) :=
  if fmtScm f = 2 then [(off cmd.a (mmScales cmd.c f + m * fmtNsc f), fmtNsc f)] else []

/-- The modifiers: `uni` of MXMM and MXGA. -/
def Cmd.uni (c : Cmd) : Bool := c.mods.getLsbD 0
def Cmd.accum (c : Cmd) : Bool := c.mods.getLsbD 1
def Cmd.h1 (c : Cmd) : Bool := c.mods.getLsbD 2

def gaX (cmd : Cmd) (f : Word) (m : Nat) : List (Word × Nat) :=
  imageRow cmd.a (shM cmd.c) (shK cmd.c) (sizeOf (fmtA f)) m (fmtTa f)
def gaDy (cmd : Cmd) (f : Word) (m : Nat) : List (Word × Nat) :=
  imageRow cmd.b (shM cmd.c) (shN cmd.c) (sizeOf (fmtB f)) m (fmtTb f)
def gaSx (cmd : Cmd) (f : Word) (m : Nat) : List (Word × Nat) :=
  if fmtScm f = 1 then [(off cmd.a (align128 (shM cmd.c * shK cmd.c * sizeOf (fmtA f)) + 4 * m), 4)] else []
def gaSdy (cmd : Cmd) (f : Word) (m : Nat) : List (Word × Nat) :=
  if fmtScm f = 1 then [(off cmd.b (align128 (shM cmd.c * shN cmd.c * sizeOf (fmtB f)) + 4 * m), 4)] else []
/-- The selector vector of an X image follows its elements and its scales. -/
def gaSel (cmd : Cmd) (f : Word) (m : Nat) : List (Word × Nat) :=
  let e := align128 (shM cmd.c * shK cmd.c * sizeOf (fmtA f))
  [(off cmd.a ((if fmtScm f = 1 then align128 (e + 4 * shM cmd.c) else e) + 2 * m), 2)]

/-! ## Fetching (R101) -/

def oneF32 : BitVec 32 := 0x3F80_0000

def bytes32 (l : List Byte) : BitVec 32 := if l.isEmpty then oneF32 else BitVec.ofNat 32 (natLE l)

def opMxgrp : BitVec 9 := 0x090
def opMxldp : BitVec 9 := 0x091
def opMxswp : BitVec 9 := 0x092
def opMxevp : BitVec 9 := 0x093
def opMxpin : BitVec 9 := 0x094
def opMxmm : BitVec 9 := 0x095
def opMxga : BitVec 9 := 0x096
def opMxdrg : BitVec 9 := 0x097
def opMxkat : BitVec 9 := 0x099
def opMxtsm : BitVec 9 := 0x09A
def opMxdir : BitVec 9 := 0x09B

/-- The uniform handle of an MXMM or MXGA. -/
def Cmd.uniHandle (c : Cmd) : Nat := if c.opc = opMxga then shHnd c.c else c.b.toNat % 2 ^ 16

/-- Where the handle of row or token m stands, unless it is the command's own. -/
def selParts (cmd : Cmd) (f : Word) (m : Nat) : List (Word × Nat) :=
  if cmd.uni then [] else if cmd.opc = opMxga then gaSel cmd f m else [(off cmd.b (2 * m), 2)]

/-- The operands of row or token m of an MXMM or MXGA, in the order in which they are read: x row, dy row, scales of x and dy,
kblock scales. -/
def rowParts (cmd : Cmd) (f : Word) (m : Nat) : List (List (Word × Nat)) :=
  if cmd.opc = opMxga then [gaX cmd f m, gaDy cmd f m, gaSx cmd f m, gaSdy cmd f m, []]
  else [mmX cmd f m, [], mmRs cmd f m, [], mmEa cmd f m]

/-- Parts as pieces, each split at 16 bytes. -/
def partPieces (l : List (Word × Nat)) : List (Word × Nat) := l.flatMap fun x => piecesOf x.1 x.2

/-- The pieces behind the handle of row m: none for a null handle. -/
def operandPieces (cmd : Cmd) (f : Word) (m hnd : Nat) : List (Word × Nat) :=
  if hnd = 0xFFFF then [] else partPieces (rowParts cmd f m).flatten

/-- The bytes of some parts that stand one after another, part by part. -/
def splitParts : List (List (Word × Nat)) → List Byte → List (List Byte)
  | [], _ => []
  | p :: r, l =>
    let n := (p.map (·.2)).foldl (· + ·) 0
    l.take n :: splitParts r (l.drop n)

/-- What the fetch unit has read of row or token m before its first piece. -/
def Fetching.start (cmd : Cmd) (f : Word) (m : Nat) : Fetching :=
  if cmd.uni then
    { idx := m, handle := some cmd.uniHandle, left := operandPieces cmd f m cmd.uniHandle, bytes := [], lines := [] }
  else { idx := m, handle := none, left := partPieces (selParts cmd f m), bytes := [], lines := [] }

/-- The fetch of the next entry goes on from where it stands. -/
def Ctx.fetchNow (c : Ctx) (cmd : Cmd) (f : Word) (m : Nat) : Fetching :=
  match c.fetching with
  | some y => if y.idx = m then y else Fetching.start cmd f m
  | none => Fetching.start cmd f m

/-- A piece has been read: behind the handle's last one come the operands'. -/
def Fetching.took (y : Fetching) (cmd : Cmd) (f : Word) (b : List Byte) (line : Nat × Nat) : Fetching :=
  let y1 := { y with left := y.left.drop 1, bytes := y.bytes ++ b, lines := (y.lines ++ [line]).eraseDups }
  match y1.handle with
  | some _ => y1
  | none =>
    if y1.left.isEmpty then
      let hnd := natLE y1.bytes
      { y1 with handle := some hnd, left := operandPieces cmd f y.idx hnd, bytes := [] }
    else y1

/-- The entry that has been read whole. -/
def Fetching.fetch (y : Fetching) (cmd : Cmd) (f : Word) : Fetch :=
  let l := splitParts (rowParts cmd f y.idx) y.bytes
  { idx := y.idx, handle := BitVec.ofNat 16 (y.handle.getD 0xFFFF), x := l.getD 0 [], dy := l.getD 1 [],
    rs := bytes32 (l.getD 2 []), sdy := bytes32 (l.getD 3 []), ea := l.getD 4 [], lines := y.lines }

/-- The virtual lines that row or token m of an MXMM or MXGA may read (R101). -/
def rowLines (cmd : Cmd) (f : Word) (m : Nat) : List Nat :=
  (selParts cmd f m ++ (rowParts cmd f m).flatten).flatMap fun x =>
    let a := x.1.toNat
    (List.range ((a + x.2 - 1) / 128 - a / 128 + 1)).map fun i => a / 128 + i

/-! ## Contents of planes (R83, R84, R127) -/

def cellAt (k n : Nat) : Nat := 256 * k + n

/-- The weight byte and the index of cell (k, n). -/
def Plane.byteAt (p : Plane) (k n : Nat) : Nat := (p.w.extractLsb' (8 * cellAt k n) 8).toNat
def Plane.idxAt (p : Plane) (k n : Nat) : Nat := (p.idx.extractLsb' (2 * cellAt k n) 2).toNat
def Plane.csAt (p : Plane) (n : Nat) : Nat := (p.cs.extractLsb' (32 * n) 32).toNat
def Plane.ebAt (p : Plane) (b n : Nat) : Nat := (p.eb.extractLsb' (8 * (256 * b + n)) 8).toNat

/-- A number made of `count` fields of `w` bits. -/
def packFields (w count : Nat) (f : Nat → Nat) : Nat :=
  (List.range count).foldr (fun i a => a * 2 ^ w + f i % 2 ^ w) 0

/-- The cells' bytes as a function of k and n, zero outside rows × cols. -/
def packCells (w rows cols : Nat) (f : Nat → Nat → Nat) : Nat :=
  packFields w (256 * rows) fun i => if i % 256 < cols then f (i / 256) (i % 256) else 0

def Crew.plane (c : Crew) (j : Nat) : Plane := c.planes.get j Plane.reset
def Crew.setPlane (c : Crew) (j : Nat) (p : Plane) : Crew := { c with planes := c.planes.set j p }

/-- The code of weight (k, n) of the plane whose first slot is j. -/
def Crew.weight (c : Crew) (j k n : Nat) : Nat :=
  let lo := (c.plane j).byteAt k n
  if eKind (c.entry j) = 1 then lo + 256 * (c.plane (j + 1)).byteAt k n else lo

/-- The accumulator G(k, n) of the gradient plane in slots j to j + 3. -/
def Crew.grad (c : Crew) (j k n : Nat) : Nat :=
  (c.plane j).byteAt k n + 2 ^ 8 * (c.plane (j + 1)).byteAt k n + 2 ^ 16 * (c.plane (j + 2)).byteAt k n +
    2 ^ 24 * (c.plane (j + 3)).byteAt k n

/-- The gradient plane with cells k < rows, n < cols replaced. -/
def Crew.setGrad (c : Crew) (j rows cols : Nat) (f : Nat → Nat → Nat) : Crew :=
  (List.range 4).foldl (fun x b =>
    let p := c.plane (j + b)
    let m := packCells 8 rows cols fun _ _ => 255
    let v := packCells 8 rows cols fun k n => f k n / 2 ^ (8 * b) % 256
    x.setPlane (j + b) { p with w := (p.w &&& ~~~ (BitVec.ofNat 524288 m)) ||| BitVec.ofNat 524288 v }) c

/-! ## Results (R105, R106) -/

/-- A rounded value as a binary32 code, and whether a finite value became an infinity. -/
def round32 (x : Num) : Nat × Bool :=
  let c := f32.round .rne x
  (c, !x.isInf && !x.isNan && (f32.value c).isInf)

/-- What a row meets in column n: element number, its code, the weight's code (R84, R104). -/
def Crew.products (c : Crew) (j k n : Nat) (x : List Nat) : List (Nat × Nat × Nat) :=
  if eSp (c.entry j) then
    (List.range 256).filterMap fun r =>
      let e := 4 * (r / 2) + (c.plane j).idxAt r n
      if e < k then some (e, x.getD e 0, c.weight j r n) else none
  else (List.range k).map fun i => (i, x.getD i 0, c.weight j i n)

/-- The products' exact values. -/
def prodNums (ta tb : Elt) (l : List (Nat × Nat × Nat)) : List Num :=
  l.map fun p => (ta.value p.2.1).mul (tb.value p.2.2)

/-- One block's scaled, rounded sum added to the running sum. -/
def addBlock (acc : Nat × Bool) (blk : Num) (ea eb : Nat) : Nat × Bool :=
  let b := if ea = 255 ∨ eb = 255 then Num.nan else blk
  let (p, o1) := round32 (b.scale ((ea : Int) + eb - 254))
  let (a, o2) := round32 ((f32.value acc.1).add (f32.value p))
  (a, acc.2 || o1 || o2)

/-- result(m, n) of R105 as a 32-bit value, and its OVF. -/
def Crew.result (c : Crew) (j : Nat) (f : Word) (k n : Nat) (x : List Nat) (rs : BitVec 32) (ea : List Byte) : Nat × Bool :=
  let ps := c.products j k n x
  match eltOfCode (fmtA f), eltOfCode (fmtB f) with
  | some ta, some tb =>
    let cs := if fmtScm f = 1 then f32.value ((c.plane j).csAt n) else .fin false 1 1
    let rsv := if fmtScm f = 1 then f32.value rs.toNat else .fin false 1 1
    if fmtIsInt f then
      match exactSum (prodNums ta tb ps) with
      | .fin s a b => ((BitVec.ofInt 32 (signed s (a / b))).toNat, false)
      | _ => (0, false)
    else if fmtA f = 0 then round32 (((exactSum (prodNums ta tb ps)).mul rsv).mul cs)
    else
      let acc := (List.range ((k + 31) / 32)).foldl (fun a b =>
        let blk := exactSum (prodNums ta tb (ps.filter fun p => p.1 / 32 == b))
        let e1 := if fmtScm f = 2 then (ea.getD b 0x7F).toNat else 0x7F
        let e2 := if fmtScm f = 2 then (c.plane j).ebAt b n else 0x7F
        addBlock a blk e1 e2) ((0, false) : Nat × Bool)
      if fmtScm f = 1 then
        let (r, o) := round32 (((f32.value acc.1).mul rsv).mul cs)
        (r, acc.2 || o)
      else acc
  | _, _ => (0, false)

/-- The codes of a row's bytes. -/
def rowCodes (sz : Nat) : Nat → List Byte → List Nat
  | 0, _ => []
  | n + 1, l => natLE (l.take sz) :: rowCodes sz n (l.drop sz)

/-- The results of a row in columns n < cols, packed as 32-bit values, and their OVF. -/
def Crew.rowResult (c : Crew) (j : Nat) (f : Word) (k cols : Nat) (t : Fetch) : Row × Bool :=
  let x := rowCodes (sizeOf (fmtA f)) k t.x
  let l := (List.range cols).map fun n => c.result j f k n x t.rs t.ea
  (BitVec.ofNat 8192 (packFields 32 cols fun n => (l.getD n (0, false)).1), l.any (·.2))

/-! ## The drain (R107) -/

/-- The new code of one element of type OFMT, with its NAN, INF and OVF. -/
def drainElt (o : Nat) (accum : Bool) (old res : Nat) : Nat × Bool × Bool × Bool :=
  if o = 8 then
    if accum then
      let x := (BitVec.ofNat 32 old).toInt + (BitVec.ofNat 32 res).toInt
      ((BitVec.ofInt 32 x).toNat, false, false, decide (x < -2147483648 ∨ 2147483647 < x))
    else (res, false, false, false)
  else
    let f := if o = 5 then bf16 else if o = 6 then f16 else f32
    let r := f32.value res
    let x := if accum then (f.value old).add r else r
    let c := f.round .rne x
    let v := f.value c
    (c, v.isNan, v.isInf, !x.isInf && !x.isNan && v.isInf)

/-- What a drain makes of an accumulator row: the new row and its flags. -/
def drainRow (f : Word) (accum h1 : Bool) (cols : Nat) (res old : Row) : Row × Bool × Bool × Bool :=
  let w := 8 * sizeOf (fmtO f)
  let base := if h1 then 256 else 0
  let es := (List.range cols).map fun n => drainElt (fmtO f) accum (elem w old (base + n)) (elem 32 res n)
  let put := packFields w cols fun n => (es.getD n (0, false, false, false)).1
  let mask := BitVec.ofNat 8192 ((2 ^ (w * cols) - 1) * 2 ^ (w * base))
  ((old &&& ~~~ mask) ||| BitVec.ofNat 8192 (put * 2 ^ (w * base)), es.any (·.2.1), es.any (·.2.2.1), es.any (·.2.2.2))

/-- The amax updates of a drained row (R77). -/
def amaxRow (m : BitVec 32) (cols : Nat) (res : Row) : BitVec 32 :=
  (List.range cols).foldl (fun a n => amaxUpdate a (BitVec.ofNat 32 (elem 32 res n))) m

/-! ## Gradient accumulation (R108) -/

/-- One cell's update and its OVF. -/
def gradAdd (g : Nat) (x dy sx sdy : Num) : Nat × Bool :=
  round32 ((f32.value g).add (((x.mul dy).mul sx).mul sdy))

/-- A token's updates: the crew after it, and NAN, INF, OVF of the cells. -/
def Crew.token (c : Crew) (j : Nat) (f : Word) (rows cols : Nat) (t : Fetch) : Crew × Bool × Bool × Bool :=
  match eltOfCode (fmtA f), eltOfCode (fmtB f) with
  | some ta, some tb =>
    let x := rowCodes (sizeOf (fmtA f)) rows t.x
    let dy := rowCodes (sizeOf (fmtB f)) cols t.dy
    let sx := f32.value t.rs.toNat
    let sdy := f32.value t.sdy.toNat
    let cells := (List.range rows).map fun k => (List.range cols).map fun n =>
      gradAdd (c.grad j k n) (ta.value (x.getD k 0)) (tb.value (dy.getD n 0)) sx sdy
    let at_ := fun k n => (cells.getD k []).getD n (0, false)
    let all := cells.flatten
    (c.setGrad j rows cols fun k n => (at_ k n).1, all.any (fun v => (f32.value v.1).isNan),
      all.any (fun v => (f32.value v.1).isInf), all.any (·.2))
  | _, _ => (c, false, false, false)

/-! ## Known answers (R143) -/

def poolAddr (t m : Nat) : Nat := 0x4080000000 + t * 8192 + m * 256
def poolSum (t : Nat) : Nat := 0x4080080000 + 8 * t

/-- The results of row m of tile t: every weight is the E4M3 code (k xor n xor t) and 0x77. -/
def katResult (t : Nat) (x : List Nat) (n : Nat) : Nat :=
  let w := fun (k : Nat) => (Nat.xor (Nat.xor k n) t) &&& 0x77
  ((List.range 8).foldl (fun a b =>
    addBlock a (exactSum ((List.range 32).map fun i =>
      (Elt.e4m3.value (x.getD (32 * b + i) 0)).mul (Elt.e4m3.value (w (32 * b + i))))) 0x7F 0x7F) ((0, false) : Nat × Bool)).1

/-- A row's share of the checksum. -/
def katSum (t m : Nat) (x : List Nat) : Word :=
  BitVec.ofNat 64 ((List.range 256).foldl (fun a n => a + katResult t x n * (2 * (256 * m + n) + 1)) 0)

end Sys2Proof.Machine
end

