-- ==== Sys2Proof/Machine/Matrix.lean ====
section
/-! DEFINITION. Machine/Matrix.lean: the matrix commands and the frond array of a crew: issue, leases, starts, entries,
selector misses, drains, replay windows, completions (R83 to R149). -/

namespace Sys2Proof.Machine

/-! ## Issue (R116, R118) -/

/-- Commands that have not left the head of the mxq. -/
def Ctx.mxCount (c : Ctx) : Nat := c.mxq.length + c.mx.toList.length + (c.held.filter fun x => !x.mx.stopped).length

/-- A matrix command issues into the mxq. -/
def mxIssue (s : State) (h : CoxH) (opc : BitVec 9) (k : Tok) (a b c : SReg) (mods : BitVec 10) : Out :=
  coxForm s .coxOnly h [a, b, c] fun t =>
    let x := s.ctx t.home
    if 32 ≤ x.mxCount then .next s
    else .next ((s.setCtx t.home (x.pushMx { s.mkCmd t opc k a b c mods with seq := x.mxSeq })).next t)

def noTok : Tok := { wait := 0, sig := 0 }

def execMxgrp (h : CoxH) (n1 : BitVec 6) (s : State) : Out := mxIssue s h opMxgrp noTok 0 0 0 (n1.setWidth 10)
def execMxldp (h : CoxH) (k : Tok) (a b c : SReg) (hi : Bool) (s : State) : Out :=
  mxIssue s h opMxldp k a b c (modBits [hi])
def execMxswp (h : CoxH) (k : Tok) (a b : SReg) (grad : Bool) (s : State) : Out :=
  mxIssue s h opMxswp k a b 0 (modBits [grad])
def execMxevp (h : CoxH) (k : Tok) (a : SReg) (s : State) : Out := mxIssue s h opMxevp k a 0 0 0
def execMxpin (h : CoxH) (k : Tok) (a : SReg) (unpin : Bool) (s : State) : Out :=
  mxIssue s h opMxpin k a 0 0 (modBits [unpin])
def execMxmm (h : CoxH) (k : Tok) (a b c : SReg) (uni acc h1 : Bool) (s : State) : Out :=
  mxIssue s h opMxmm k a b c (modBits [uni, acc, h1])
def execMxga (h : CoxH) (k : Tok) (a b c : SReg) (uni : Bool) (s : State) : Out :=
  mxIssue s h opMxga k a b c (modBits [uni])
def execMxdrg (h : CoxH) (k : Tok) (a b c : SReg) (clr : Bool) (s : State) : Out :=
  mxIssue s h opMxdrg k a b c (modBits [clr])
def execMxkat (h : CoxH) (k : Tok) (a b : SReg) (s : State) : Out := mxIssue s h opMxkat k a b 0 0
def execMxtsm (h : CoxH) (k : Tok) (a : SReg) (s : State) : Out := mxIssue s h opMxtsm k a 0 0 0
def execMxdir (h : CoxH) (k : Tok) (a b : SReg) (idx : Bool) (s : State) : Out :=
  mxIssue s h opMxdir k a b 0 (modBits [idx])

/-- The first modifier bit: `hi`, `grad`, `unpin`, `uni`, `clr`, `idx`. -/
def Cmd.mod0 (c : Cmd) : Bool := c.mods.getLsbD 0
def Cmd.handle (c : Cmd) : Nat := c.a.toNat % 2 ^ 16
/-- DEDUCED, assumption log 73. -/
def Cmd.slot (c : Cmd) : Nat := c.b.toNat % 16

/-! ## The head of an mxq (R98, R119, R147) -/

def Mx.fresh (c : Cmd) : Mx :=
  { cmd := c, tookTok := false, began := false, fmt := 0, pos := 0, rows := 0, due := 0, status := 0,
    handle := BitVec.ofNat 16 c.handle, nan := false, inf := false, ovf := false, iev := false, rpl := false, sum := 0,
    out := [], stored := 0, pins := [], again := false, finished := false, stopped := false }

/-- The command at the head, and the context without it; none while the mxq is empty or stopped with nothing ahead. -/
def Ctx.head (c : Ctx) : Option (Mx × Ctx) :=
  match c.mx with
  | some m => some (m, { c with mx := none })
  | none =>
    match c.held with
    | [] => c.mxq.head?.map fun q => (Mx.fresh q, { c with mxq := c.mxq.drop 1 })
    | x :: r =>
      if 0 < x.ahead then
        c.mxq.head?.map fun q =>
          (Mx.fresh q, { c with mxq := c.mxq.drop 1, held := { x with ahead := x.ahead - 1 } :: r })
      else if x.stop.isNone then some (x.mx, { c with held := mergeHeld x r })
      else none

/-- A format word has been popped from among those placed ahead of a stopped command. -/
def dropAhead : List Held → List Held
  | [] => []
  | x :: r => if 0 < x.fqAhead then { x with fqAhead := x.fqAhead - 1 } :: r else x :: dropAhead r

def Ctx.popFmt (c : Ctx) : Ctx := { c with fq := c.fq.drop 1, held := dropAhead c.held }.bumpPop 9

def popsFmt (opc : BitVec 9) : Bool :=
  opc == opMxldp || opc == opMxmm || opc == opMxga || opc == opMxdrg || opc == opMxkat

/-! ## The checks of Table 6.4 (R122) -/

/-- A command's own format rule (R127, R137, R140, R142, R143). -/
def ownFmt (cmd : Cmd) (f : Word) : Bool :=
  if cmd.opc = opMxldp then !(cmd.b != 0 && wideFmt (fmtB f)) && !(cmd.mod0 && !wideFmt (fmtB f))
  else if cmd.opc = opMxmm then !(cmd.h1 && sizeOf (fmtO f) == 4)
  else if cmd.opc = opMxga then !fmtIsInt f && fmtO f == 7
  else if cmd.opc = opMxdrg then !fmtIsInt f && (fmtO f == 7 || fmtO f == 5) && fmtScm f == 0
  else fmtA f == 1 && fmtB f == 1 && fmtO f == 7 && fmtScm f == 0 && !fmtAmx f

/-- NSC and the scale mode fit the command (check 4). -/
def nscOk (cmd : Cmd) (f : Word) : Bool :=
  (if fmtScm f = 2 then fmtNsc f == (shK cmd.c + 31) / 32 else fmtNsc f == 0) && !(cmd.opc == opMxga && fmtScm f == 2)

/-- Checks 2 to 5. -/
def State.fmtFault (s : State) (h : Nat) (cmd : Cmd) (f : Word) : Option Nat :=
  if fmtReserved f then some 2
  else if ¬ (comboOk f && s.fmtServed f && ownFmt cmd f) then some 3
  else if ¬ nscOk cmd f then some 4
  else if cmd.opc = opMxmm ∧ (sizeOf (fmtO f) == 2) ≠ s.w16 h then some 5
  else none

def within1 (n hi : Nat) : Bool := decide (1 ≤ n ∧ n ≤ hi)

/-- Check 6: shapes and operand values; a selector vector at an odd address is an unaligned operand (DEDUCED, assumption
log 73). -/
def shapeOk (cmd : Cmd) (f : Word) : Bool :=
  let c := cmd.c
  let al := fun (w : Word) (sz : Nat) => w.toNat % sz == 0
  if cmd.opc = opMxldp then
    shHnd c == 0 && within1 (shK c) (if cmd.b = 0 then 256 else 512) && within1 (shN c) 256 && al cmd.a (sizeOf (fmtB f))
  else if cmd.opc = opMxmm then
    fieldOf c 56 8 == 0 && within1 (shM c) 256 && within1 (shK c) 512 && within1 (shN c) 256 &&
      al cmd.a (sizeOf (fmtA f)) && (cmd.uni || al cmd.b 2)
  else if cmd.opc = opMxga then
    (cmd.uni || shHnd c == 0) && within1 (shM c) 65535 && within1 (shK c) 256 && within1 (shN c) 256 &&
      al cmd.a (sizeOf (fmtA f)) && al cmd.b (sizeOf (fmtB f))
  else if cmd.opc = opMxdrg then
    shHnd c == 0 && within1 (shK c) 256 && within1 (shN c) 256 && al cmd.b (sizeOf (fmtO f))
  else if cmd.opc = opMxswp then cmd.handle != 0xFFFF && (!cmd.mod0 || cmd.slot % 4 == 0)
  else if cmd.opc = opMxtsm then within1 (cmd.a.toNat / 256 % 512) 256
  else if cmd.opc = opMxdir then !(cmd.mod0 && decide (16 < cmd.a.toNat % 32)) && al cmd.b 8
  else true

/-- Check 7: rows inside the job's run. -/
def rowsOk (cmd : Cmd) (rows : Nat) : Bool :=
  if cmd.opc = opMxmm then decide (shRow0 cmd.c + shM cmd.c ≤ rows)
  else if cmd.opc = opMxtsm then decide (cmd.a.toNat % 256 + cmd.a.toNat / 256 % 512 ≤ rows)
  else true

/-- The order of the two swaps of a 16-bit plane; a low half whose second slot holds another plane is out of order too (R130)
(DEDUCED, assumption log 73). -/
def Crew.halfOk (c : Crew) (p j hnd : Nat) : Bool :=
  let e := c.entry 16
  if c.shHi then
    let lo := c.entry (j - 1)
    j % 2 == 1 && eState lo == stHalf && eHandle lo == hnd && ePart lo == p && eFmt lo == eFmt e
  else
    let nx := c.entry (j + 1)
    j % 2 == 0 && (eState nx == stEmpty || (eState nx == stCovered && eBound (c.entry j) && eKind (c.entry j) == 1))

def Crew.ownsShadow (c : Crew) (h : Nat) : Bool := eState (c.entry 16) != stEmpty && eOwner (c.entry 16) == ownerNum h

/-- Check 8 (DEDUCED, assumption log 73). -/
def State.swapOk (s : State) (h : Nat) (cmd : Cmd) : Bool :=
  let c := s.crew (crewOf h)
  if cmd.opc = opMxswp ∧ ¬ cmd.mod0 then
    eState (c.entry 16) != stEmpty &&
      (!(c.ownsShadow h && eKind (c.entry 16) == 1) || c.halfOk (s.partOf h) cmd.slot cmd.handle)
  else true

/-- The first check that fails; `f` is the format word at the head of fq. -/
def State.startFault (s : State) (h : Nat) (cmd : Cmd) (f : Option Word) : Option Nat :=
  let fault := if popsFmt cmd.opc then (match f with | none => some 1 | some w => s.fmtFault h cmd w) else none
  match fault with
  | some n => some n
  | none =>
    if ¬ shapeOk cmd (f.getD 0) then some 6
    else if ¬ rowsOk cmd (s.ctx h).accRows then some 7
    else if ¬ s.swapOk h cmd then some 8
    else none

/-! ## Readiness (R87, R94, R100, R114, R119) -/

/-- The shadow's condition of MXLDP and MXSWP. A load whose shadow a forced eviction has emptied runs on, and every other
MXLDP waits for its end (DEDUCED, assumption log 74). -/
def State.shadowReady (s : State) (h : Nat) (cmd : Cmd) : Bool :=
  let c := s.crew (crewOf h)
  let e := c.entry 16
  if cmd.opc = opMxldp then
    c.load.isNone && (eState e == stEmpty || (eState e == stFull && eOwner e == ownerNum h)) &&
      (match c.lastSwap with | some t => decide (t + 511 ≤ s.crewNow (crewOf h)) | none => true)
  else if cmd.opc = opMxswp ∧ ¬ cmd.mod0 then !(eState e == stLoading && eOwner e == ownerNum h)
  else true

/-- No other context of the crew holds a non-empty mxq (R114). -/
def State.katAlone (s : State) (h : Nat) : Bool :=
  (List.range 16).all fun i => 16 * crewOf h + i == h || (s.ctx (16 * crewOf h + i)).mxCount == 0

/-- The wait of the MXKAT at the head of context h's mxq has lasted 65,536 cycles: it starts no more (R144). -/
def State.katOver (s : State) (h : Nat) : Bool :=
  match (s.ctx h).mxWaitFrom with
  | some t => decide (t + 65536 ≤ s.crewNow (crewOf h))
  | none => false

def Ctx.tokReady (c : Ctx) (m : Mx) : Bool := m.tookTok || c.waitReady m.cmd.tok

/-- A head that has not started can start but for the lease and its lines. -/
def State.startReady (s : State) (h : Nat) (m : Mx) : Bool :=
  (s.ctx h).tokReady m && s.shadowReady h m.cmd && (m.cmd.opc != opMxkat || (s.katAlone h && !s.katOver h))

/-- The next entry of the command reads operands. -/
def Mx.reads (m : Mx) : Bool :=
  (m.cmd.opc == opMxmm || m.cmd.opc == opMxga) && decide (m.pos < shM m.cmd.c) &&
    !(m.cmd.uni && m.cmd.uniHandle == 0xFFFF)

def Ctx.has (c : Ctx) (m : Mx) : Bool := match c.fetched with | some f => f.idx == m.pos | none => false

/-- The check of the next piece of a fetch (R299, R389). -/
def State.fetchCheck (s : State) (h : Nat) (y : Fetching) : Chk := s.chkPieces h .load (y.left.take 1)

/-- The lines of the head's next entry have arrived. A head whose start will fault waits for none, and one whose lines
cannot be read takes its fault after its start (DEDUCED, assumption log 74). -/
def State.linesReady (s : State) (h : Nat) (m : Mx) : Bool :=
  let c := s.ctx h
  !m.reads || c.has m || (!m.began &&
    (match c.fq.head? with
      | none => true
      | some f =>
        (s.startFault h m.cmd (some f)).isSome ||
          (match s.fetchCheck h (c.fetchNow m.cmd f 0) with | .bad _ _ => true | _ => false)))

/-- The replay whose rows enter next (R112). -/
def Ctx.redo (c : Ctx) : Option Redo := c.redoing.find? fun r => !r.left.isEmpty

/-- Rows of a replay still have to enter. -/
def Ctx.redoes (c : Ctx) : Bool := c.redo.isSome

/-- A context that may be granted the array (R100). -/
def State.eligible (s : State) (h : Nat) : Bool :=
  let c := s.ctx h
  s.running h && (c.redoes ||
    (match c.head with
      | none => false
      | some (m, _) => (m.began || s.startReady h m) && s.linesReady h m))

/-- The first MXGA after an MXMM waits for the drain, and that counts as the head waiting (R109, R140). -/
def State.gaWaits (s : State) (h : Nat) : Bool :=
  let x := s.crew (crewOf h)
  match (s.ctx h).head with
  | some (m, _) =>
    !(s.ctx h).redoes && m.cmd.opc == opMxga && m.began && !x.lastGa && decide (s.crewNow (crewOf h) ≤ x.lastDrain)
  | none => false

/-- DEDUCED, assumption log 75. -/
def State.headWaits (s : State) (h : Nat) : Bool := !s.eligible h || s.gaWaits h

/-! ## Leases (R98 to R100) -/

def State.endLease (s : State) (c : Nat) : State := s.setCrew c { s.crew c with lease := none }

/-- A command of the holder has completed its entries; MXGRP opens a group (R98, R99, R145). -/
def Lease.left (l : Lease) (cmd : Cmd) : Option Lease :=
  match l.group with
  | none =>
    if cmd.opc = opMxgrp then some { l with group := some (cmd.mods.toNat % 64 + 1), groupRows := 0, waited := 0 }
    else if 16 ≤ l.cmds + 1 then none else some { l with cmds := l.cmds + 1 }
  | some n => if n ≤ 1 then none else some { l with group := some (n - 1) }

/-- A row of the holder has entered; `redo` rows have no group status (R112). -/
def Lease.row (l : Lease) (redo : Bool) : Option Lease :=
  let l1 := { l with rows := l.rows + 1, groupRows := if redo then l.groupRows else l.groupRows + 1 }
  if l.group.isSome && !redo then (if 16384 ≤ l1.groupRows then none else some l1)
  else if 4096 ≤ l1.rows then none else some l1

def State.leaseMap (s : State) (c : Nat) (f : Lease → Option Lease) : State :=
  let x := s.crew c
  s.setCrew c { x with lease := match x.lease with | some l => f l | none => none }

/-- Outside a group a holder with an empty mxq ends its lease. -/
def State.leaseEmpty (s : State) (h : Nat) : State :=
  let c := s.ctx h
  s.leaseMap (crewOf h) fun l => if l.group.isNone && c.head.isNone && !c.redoes then none else some l

/-- The context that is granted the array next. -/
def State.nextHolder (s : State) (c : Nat) : Option Nat :=
  let x := s.crew c
  ((List.range 4).flatMap fun i =>
    let k := (x.lastCore + 1 + i) % 4
    (List.range 4).map fun n => 16 * c + 4 * k + (x.lastCtx.get k 3 + 1 + n) % 4).find? s.eligible

/-- A scheduled known-answer tile is between its first row and its last. -/
def Crew.tileRuns (x : Crew) : Bool := match x.tile with | some t => decide (0 < t.pos ∧ t.pos < 32) | none => false

/-- Event LEASE_GRANT: the array of crew c has no holder and no tile's rows are entering, and the next eligible context
gets its lease, after a handover of 2 cycles. -/
def execLeaseGrant (c : Nat) (s : State) : Out :=
  let x := s.crew c
  if x.lease.isSome ∨ x.tileRuns then .next s
  else
    match s.nextHolder c with
    | none => .next s
    | some h =>
      .next (s.setCrew c
        { x with
          lease := some { job := h, cmds := 0, rows := 0, group := none, groupRows := 0, waited := 0 }
          lastCore := coreOf h % 4, lastCtx := x.lastCtx.set (coreOf h % 4) (h % 4)
          portFree := Nat.max x.portFree (s.crewNow c) + 2 })

/-- A group's head has waited for 1,024 cycles in all, and its lease is over (R99). -/
def Lease.over (l : Lease) : Bool := l.group.isSome && decide (1024 ≤ l.waited)

/-- Event GROUP_WAIT_LIMIT: the head of a group's holder has waited for 1,024 cycles. -/
def execGroupWaitLimit (c : Nat) (s : State) : Out :=
  match (s.crew c).lease with
  | some l => .next (if l.over then s.endLease c else s)
  | none => .next s

/-- What the passing of a cycle of the crew's clock does to a lease: a head that waits ends it, or counts toward the group's
limit (R98, R99) (DEDUCED, assumption log 75). -/
def State.leaseCycle (s : State) (c : Nat) : State :=
  match (s.crew c).lease with
  | none => s
  | some l =>
    if ¬ (s.crew c).portOpen (s.crewNow c) ∨ ¬ s.headWaits l.job then s
    else s.leaseMap c fun l => if l.group.isNone then none else some { l with waited := l.waited + 1 }

/-! ## Stops (R96, R122, R147) -/

def mxW3 (seq pos : Nat) : Word := BitVec.ofNat 64 (seq % 2 ^ 16 * 2 ^ 48 + pos % 2 ^ 32 * 2 ^ 16)

def State.mxRecord (s : State) (h : Nat) (c : Cause) (seq pos : Nat) (addr : Word) : Record :=
  s.mkRecord h .mxq c 0 addr (mxW3 seq pos)

/-- The lease of context h ends, if it holds one. -/
def State.loseLease (s : State) (h : Nat) : State := s.leaseMap (crewOf h) fun l => if l.job = h then none else some l

/-- A command as it is held, stopped in this cycle. -/
def State.heldOf (s : State) (h : Nat) (m : Mx) (stop : Option MxStop) (code : Byte) (told : Bool) : Held :=
  { mx := m, stop := stop, at_ := s.clockOf h, host := s.assisted 4, code := code, told := told, ahead := 0, fqAhead := 0 }

/-- The mxq stops at the command `m`, and the lease ends (DEDUCED, assumption log 75). -/
def State.mxStop (s : State) (h : Nat) (m : Mx) (stop : MxStop) (code : Byte) (told : Bool) : State :=
  let c := s.ctx h
  (s.setCtx h { c with held := s.heldOf h m (some stop) code told :: c.held, mx := none, fetched := none, fetching := none }).loseLease h

/-- A privileged fault on an operand line stops the mxq (R147). -/
def State.mxOperandFault (s : State) (h : Nat) (m : Mx) (c : Cause) (va : Word) : State :=
  (s.mxStop h m .privileged 0 true).postRecord c (s.mxRecord h c m.cmd.seq m.pos va)

/-- The record of a selector miss is raised, or forwarded to the host, as the mode was when the row missed; it is of the
cycle in which the mxq stopped (R34, R96, R370, Table 1.8 function 4). -/
def State.missRaise (s : State) (h : Nat) (x : Held) : State :=
  let c : Cause := { cls := 4, sub := x.code }
  let r := { s.mxRecord h c x.mx.cmd.seq x.mx.pos (x.mx.handle.setWidth 64) with at_ := x.at_ }
  if x.host then s.forward 4 (.miss r) else s.postRecord c r

/-- Row `m.pos` takes a selector miss; with rows in flight before it, its record waits for their drain. -/
def State.selectorMiss (s : State) (h : Nat) (m : Mx) (hnd : Nat) (code : Byte) : State :=
  let m1 := { m with handle := BitVec.ofNat 16 hnd }
  let s1 := s.mxStop h m1 .miss code (m.pos == 0)
  if m.pos = 0 then s1.missRaise h (s.heldOf h m1 (some .miss) code true) else s1

/-- The rows of a command are in flight. -/
def Crew.flying (x : Crew) (h gen seq : Nat) : Bool :=
  x.flights.any fun f => f.job == h && f.gen == gen && f.cmd.seq == seq && f.kind != .tsm && !f.dead

/-- Rows of a command still have to enter again in a replay. -/
def Ctx.reenters (c : Ctx) (seq : Nat) : Bool := c.redoing.any fun r => r.left.any fun k => k.cmd.seq == seq

/-- The first cycle after the last row before a miss has drained, in a replay those that enter again too: its record is raised
(R96 step 5) (DEDUCED, assumption log 78). -/
def State.missCycle (s : State) (h : Nat) : State :=
  let c := s.ctx h
  match c.held.find? fun x => x.stop == some .miss && !x.told with
  | none => s
  | some x =>
    if (s.crew (crewOf h)).flying h c.gen x.mx.cmd.seq || c.reenters x.mx.cmd.seq then s
    else
      let mark := fun (y : Held) => if y.mx.cmd.seq = x.mx.cmd.seq then { y with told := true } else y
      (s.setCtx h { c with held := c.held.map mark }).missRaise h x

/-! ## Leaving the head (R119) -/

/-- A command has left the head: its pop is counted, and the 32nd after an MXTSM closes its window (R111). -/
def Ctx.mxGone (c : Ctx) : Ctx :=
  let c1 := c.bumpPop 10
  match c1.window with
  | none => c1
  | some w =>
    let c2 := { c1 with window := some { w with left := w.left + 1 } }
    if 32 ≤ w.left + 1 then c2.closeWindow else c2

/-- The command at the head leaves it. -/
def Ctx.mxLeave (c : Ctx) (m : Mx) : Ctx :=
  { c with mx := none, fetched := none, fetching := none, mxTail := if m.finished then c.mxTail else c.mxTail ++ [m] }.mxGone

def State.mxLeft (s : State) (h : Nat) (m : Mx) : State :=
  ((s.setCtx h ((s.ctx h).mxLeave m)).leaseMap (crewOf h) fun l => l.left m.cmd).leaseEmpty h

/-- A command whose entries go on, or have all passed. -/
def State.mxPass (s : State) (h : Nat) (m : Mx) : State :=
  if m.rows ≤ m.pos then s.mxLeft h m
  else s.setCtx h { s.ctx h with mx := some m, fetched := none, fetching := none }

def State.leaseRow (s : State) (h : Nat) (redo : Bool) : State := s.leaseMap (crewOf h) fun l => l.row redo

/-! ## Starts (R119, R120, R127) -/

def padded (m : Nat) : Nat := (m + 31) / 32 * 32

def Mx.total (m : Mx) : Nat :=
  if m.cmd.opc = opMxmm ∨ m.cmd.opc = opMxga then padded (shM m.cmd.c) else if m.cmd.opc = opMxkat then 32 else 1

/-- Rows of cells that a plane image fills: KC for a sparse plane. -/
def ldpRows (cmd : Cmd) : Nat := if cmd.b = 0 then shK cmd.c else 2 * ((shK cmd.c + 3) / 4)

def ldpImage (cmd : Cmd) (f : Word) : List (Word × Nat) := [(cmd.a, ldpRows cmd * shN cmd.c * sizeOf (fmtB f))]
def ldpMeta (cmd : Cmd) : List (Word × Nat) :=
  if cmd.b = 0 then [] else [(cmd.b, (ldpRows cmd * shN cmd.c + 3) / 4)]
def ldpScales (cmd : Cmd) (f : Word) : List (Word × Nat) :=
  let a := off cmd.a (align128 (ldpRows cmd * shN cmd.c * sizeOf (fmtB f)))
  if cmd.mod0 then [] else if fmtScm f = 1 then [(a, 4 * shN cmd.c)]
  else if fmtScm f = 2 then [(a, fmtNsc f * shN cmd.c)] else []

/-- What an MXLDP reads, in order: image, indices, scales. -/
def ldpParts (cmd : Cmd) (f : Word) : List (List (Word × Nat)) := [ldpImage cmd f, ldpMeta cmd, ldpScales cmd f]

/-- An MXLDP takes the shadow (R127). -/
def State.ldpStart (s : State) (h : Nat) (m : Mx) : State :=
  let i := crewOf h
  let x := s.crew i
  let b := fmtB m.fmt
  let e := mkEntry 0xFFFF (s.partOf h) 0 (ownerNum h) b (if wideFmt b then 1 else 0) (m.cmd.b != 0) stLoading
  let l : Load :=
    { job := h, gen := (s.ctx h).gen, cmd := m.cmd, fmt := m.fmt, start := s.crewNow i
      left := partPieces (ldpParts m.cmd m.fmt).flatten, bytes := [], lines := [] }
  (s.setCrew i { x.setEntry 16 e with load := some l, shHi := m.cmd.mod0 }).mxLeft h m

/-- A command starts without a fault. -/
def State.mxBegin (s : State) (h : Nat) (m : Mx) : State :=
  if m.cmd.opc = opMxgrp then
    let s1 := s.mxLeft h m
    s1.setCtx h { s1.ctx h with mxTail := (s1.ctx h).mxTail.filter fun y => y.cmd.seq != m.cmd.seq }
  else if m.cmd.opc = opMxldp then s.ldpStart h m
  else
    s.setCtx h { s.ctx h with mx := some { m with began := true, rows := m.total } }

/-- The entry of the mxq at its head, or the format word that it pops, is poisoned (R388, R389). -/
def State.startPoisoned (s : State) (h : Nat) (m : Mx) : Bool :=
  s.headPoisoned h 10 || (popsFmt m.cmd.opc && s.headPoisoned h 9)

/-- The start of the head: its token, its format word, its checks. -/
def State.mxStart (s : State) (h : Nat) (m : Mx) (x : Ctx) : State :=
  if s.startPoisoned h m then (s.setCtx h x).mxOperandFault h m poisonCause 0
  else
  let x1 := if m.tookTok then x else x.takeWait m.cmd.tok
  let f := if popsFmt m.cmd.opc then x1.fq.head? else none
  let x2 := if f.isSome then x1.popFmt else x1
  let m1 := { m with tookTok := true, fmt := f.getD 0 }
  let s1 := s.setCtx h x2
  match s1.startFault h m.cmd f with
  | some n =>
    let c : Cause := { cls := 5, sub := BitVec.ofNat 8 n }
    (s1.mxStop h m1 .format 0 true).postRecord c (s1.mxRecord h c m.cmd.seq 0 0)
  | none => s1.mxBegin h m1

/-- Event MATRIX_COMMAND_START: the head of the holder of crew c starts. -/
def execMatrixCommandStart (c : Nat) (s : State) : Out :=
  match (s.crew c).lease with
  | none => .next s
  | some l =>
    let h := l.job
    match (s.ctx h).head with
    | none => .next s
    | some (m, x) =>
      if m.began then .next (s.setCtx h { x with mx := some m })
      else if (s.ctx h).redoes ∨ l.over ∨ ¬ s.startReady h m then .next s
      else .next (s.mxStart h m x)

/-! ## Pinned lines (R101) -/

def Ctx.pins (c : Ctx) : List Nat :=
  ((match c.window with | some w => w.kept.flatMap fun k => k.fetch.lines | none => []) ++
    (c.mx.toList ++ c.held.map (·.mx)).flatMap (·.pins) ++
    (match c.fetched with | some f => f.lines | none => []) ++
    (match c.fetching with | some f => f.lines | none => [])).map (·.2)

/-- The number of lines that crew i has pinned, those of the load of its shadow among them. -/
def State.pinned (s : State) (i : Nat) : Nat :=
  (((List.range 16).flatMap fun n => (s.ctx (16 * i + n)).pins) ++
    (match (s.crew i).load with | some l => l.lines.map (·.2) | none => [])).eraseDups.length

/-- The context of crew i with the oldest open window. -/
def State.oldestWindow (s : State) (i : Nat) : Option Nat :=
  ((List.range 16).foldl (fun (a : Option (Nat × Nat)) n =>
    match (s.ctx (16 * i + n)).window, a with
    | some w, some (t, h) => if w.openAt < t then some (w.openAt, 16 * i + n) else some (t, h)
    | some w, none => some (w.openAt, 16 * i + n)
    | none, _ => a) none).map (·.2)

/-- Past the slice's limit of pinned lines the oldest open windows of the crew close (R101, R111); at most `n` of them. -/
def State.pinLimit (s : State) (i : Nat) : Nat → State
  | 0 => s
  | n + 1 =>
    if s.pinned i ≤ 16384 then s
    else
      match s.oldestWindow i with
      | some h => (s.setCtx h (s.ctx h).closeWindow).pinLimit i n
      | none => s

/-- The lines that a command keeps pinned behind entry t: those that one of its later rows reads too. -/
def Mx.pinsAfter (m : Mx) (t : Fetch) : List (Nat × Nat) :=
  (m.pins ++ t.lines).eraseDups.filter fun l =>
    (List.range (shM m.cmd.c)).any fun k => decide (t.idx < k) && (rowLines m.cmd m.fmt k).contains l.1

/-- The fetch `y` of row y.idx takes its next piece, which has passed its check (R101, R279). -/
def State.fetchPiece (s : State) (h : Nat) (cmd : Cmd) (f : Word) (y : Fetching) : State :=
  let ps := y.left.take 1
  let (b, s1) := s.readPieces h .load .l2 ps
  let line := match ps.head? with | some p => (p.1.toNat / 128, s.addr h .load p.1 / 128) | none => (0, 0)
  let y1 := y.took cmd f b line
  let c := s1.ctx h
  s1.setCtx h (if y1.left.isEmpty then { c with fetched := some (y1.fetch cmd f), fetching := none }
    else { c with fetching := some y1 })

/-- Event TILE_LINE_ARRIVAL: the line of the next piece of the next entry of context j's head arrives, and the piece is
read. -/
def execTileLineArrival (j : Nat) (s : State) : Out :=
  let c := s.ctx j
  match c.head with
  | none => .next s
  | some (m, x) =>
    if ¬ m.reads ∨ c.has m ∨ ¬ c.tokReady m then .next s
    else
      let f := if m.began then some m.fmt else c.fq.head?
      match f with
      | none => .next s
      | some w =>
        if ¬ m.began ∧ (s.startFault j m.cmd f).isSome then .next s
        else
          let y := c.fetchNow m.cmd w m.pos
          match s.fetchCheck j y with
          | .ok => .next ((s.fetchPiece j m.cmd w y).pinLimit (crewOf j) 16)
          | .bad e va => if m.began then .next ((s.setCtx j x).mxOperandFault j m e va) else .next s
          | .forward va => .next (s.forwardWalk j va)

/-! ## MXLDP (R127, R128) -/

/-- The place of cell (k, n) in the image. -/
def ldpCell (cmd : Cmd) (f : Word) (k n : Nat) : Nat := if fmtTb f then n * ldpRows cmd + k else k * shN cmd.c + n

/-- The shadow's new content: weights, indices, and scales unless under `hi`. -/
def ldpPlane (old : Plane) (cmd : Cmd) (f : Word) (img mb sc : List Byte) : Plane :=
  let rows := ldpRows cmd
  let cols := shN cmd.c
  let sz := sizeOf (fmtB f)
  let w := packCells 8 rows cols fun k n => (img.getD (ldpCell cmd f k n * sz + (if cmd.mod0 then 1 else 0)) 0).toNat
  let ix := packCells 2 rows cols fun k n =>
    let p := ldpCell cmd f k n
    (mb.getD (p / 4) 0).toNat / 2 ^ (2 * (p % 4)) % 4
  let cs := packFields 32 256 fun n =>
    if fmtScm f = 1 ∧ n < cols then natLE ((sc.drop (4 * n)).take 4) else oneF32.toNat
  let eb := packFields 8 4096 fun i =>
    if fmtScm f = 2 ∧ i / 256 < fmtNsc f ∧ i % 256 < cols then (sc.getD (i / 256 * cols + i % 256) 0).toNat else 0x7F
  { w := BitVec.ofNat 524288 w, idx := if cmd.b = 0 then 0 else BitVec.ofNat 131072 ix,
    cs := if cmd.mod0 then old.cs else BitVec.ofNat 8192 cs, eb := if cmd.mod0 then old.eb else BitVec.ofNat 32768 eb }

def updMx (q : Nat) (f : Mx → Mx) (m : Mx) : Mx := if m.cmd.seq = q then f m else m

/-- Changes the context's command with sequence number q, wherever it stands. -/
def Ctx.updMx (c : Ctx) (q : Nat) (f : Mx → Mx) : Ctx :=
  { c with
    mx := c.mx.map (Machine.updMx q f), mxTail := c.mxTail.map (Machine.updMx q f)
    held := c.held.map fun x => { x with mx := Machine.updMx q f x.mx } }

/-- The last byte of the load has been written: the shadow becomes FULL, unless an eviction has emptied it. -/
def State.ldpFull (s : State) (i : Nat) (l : Load) (img mb sc : List Byte) : State :=
  let x := s.crew i
  let e := x.entry 16
  let x1 :=
    if eState e = stLoading then
      (x.setPlane 16 (ldpPlane (x.plane 16) l.cmd l.fmt img mb sc)).setEntry 16 (withField e 13 3 stFull)
    else x
  let s1 := s.setCrew i { x1 with load := none }
  s1.setCtx l.job ((s1.ctx l.job).updMx l.cmd.seq fun m => { m with pos := 1, due := s1.crewNow i + 1 })

/-- The least cycles of a load at 1,024 bytes per cycle. -/
def ldpCycles (cmd : Cmd) : Nat := Nat.max 1 ((ldpRows cmd * shN cmd.c + 1023) / 1024)

/-- The command with sequence number q, which has left the head, stops the mxq: it is held above a head command that has
begun, and both keep their place (R147) (DEDUCED, assumption log 76). -/
def State.tailStop (s : State) (h q : Nat) : State :=
  let c := s.ctx h
  match c.mxTail.find? fun m => m.cmd.seq == q && !m.again with
  | none => s
  | some m =>
    let top := s.heldOf h { m with stopped := true } (some .privileged) 0 true
    let next := c.mx.toList.map fun y => s.heldOf h y none 0 true
    (s.setCtx h
      { c with held := top :: (next ++ c.held), mx := none, fetched := none, fetching := none, mxTail := c.mxTail.erase m }).loseLease h

/-- A load or a store of a command that has left the head meets a failed check: it stops the mxq until the supervisor's
restart (R135, R142, R147, R367). -/
def State.tailFault (s : State) (h : Nat) (cmd : Cmd) (pos : Nat) (c : Chk) : State :=
  match c with
  | .ok => s
  | .forward va => s.forwardWalk h va
  | .bad e va => (s.tailStop h cmd.seq).postRecord e (s.mxRecord h e cmd.seq pos va)

/-- The load `l` of crew c's shadow takes its next piece, which has passed its check (R101, R279). -/
def State.ldpPiece (s : State) (c : Nat) (l : Load) : State :=
  let ps := l.left.take 1
  let (b, s1) := s.readPieces l.job .load .l2 ps
  let ls := ps.map fun p => (p.1.toNat / 128, s.addr l.job .load p.1 / 128)
  (s1.setCrew c { s1.crew c with
    load := some { l with left := l.left.drop 1, bytes := l.bytes ++ b, lines := (l.lines ++ ls).eraseDups } }).pinLimit c 16

/-- Event SHADOW_FULL: the load of crew c's shadow reads its next piece; behind the last one it writes its last byte, no
earlier than the shadow port allows. The offset of a piece counts through all that the load reads (DEDUCED, assumption
log 125). -/
def execShadowFull (c : Nat) (s : State) : Out :=
  match (s.crew c).load with
  | none => .next s
  | some l =>
    let h := l.job
    let halted := (s.ctx h).held.any fun x => x.mx.cmd.seq == l.cmd.seq && x.mx.stopped
    if halted then .next s
    else if l.left.isEmpty then
      (if s.crewNow c < l.start + ldpCycles l.cmd then .next s
      else
        let b := splitParts (ldpParts l.cmd l.fmt) l.bytes
        .next (s.ldpFull c l (b.getD 0 []) (b.getD 1 []) (b.getD 2 [])))
    else
      match s.chkPieces h .load (l.left.take 1) with
      | .ok => .next (s.ldpPiece c l)
      | e => .next (s.tailFault h l.cmd l.bytes.length e)

/-! ## Entries: directory commands (R129 to R135) -/

/-- Slots that an 8-bit, 16-bit or gradient entry j covers. -/
def Crew.slotsOf (c : Crew) (j : Nat) : List Nat := (List.range (eSlots (c.entry j))).map (j + ·)

/-- Other live entries of the partition with the handle, which a bind removes (R88) (DEDUCED, assumption log 73). -/
def Crew.superseded (c : Crew) (p hnd : Nat) (keep : List Nat) : List Nat :=
  (List.range 16).filter fun i =>
    eBound (c.entry i) && eHandle (c.entry i) == hnd && ePart (c.entry i) == p && !keep.contains i

/-- The shadow is loaded with a high half. -/
def Crew.highHalf (c : Crew) : Bool := eKind (c.entry 16) == 1 && c.shHi

/-- Status of an MXSWP without `grad` (R129). -/
def Crew.swapStatus (c : Crew) (h p j hnd : Nat) : BitVec 4 :=
  let t := c.entry j
  let keep := if c.highHalf then [j, j - 1] else [j]
  if ¬ (c.ownsShadow h && eState (c.entry 16) == stFull) then 2
  else if eState t ≠ stEmpty ∧ ePart t ≠ p then 3
  else if (eState t = stCovered ∧ ¬ c.highHalf) ∨ (eBound t ∧ eKind t = 2) then 5
  else if ePin t ≠ 0 ∨ (c.superseded p hnd keep).any (fun i => ePin (c.entry i) != 0) then 1
  else 0

/-- The swap of an accepted MXSWP without `grad`, and what it removed or replaced (Table 5.2). The COVERED entry of a 16-bit
plane carries the plane's FMT and KIND (DESIGN CHOICE, assumption log 97). -/
def Crew.swap (c : Crew) (p j hnd : Nat) : Crew :=
  let e := c.entry 16
  let t := c.entry j
  let keep := if c.highHalf then [j, j - 1] else [j]
  let c0 := (c.superseded p hnd keep).foldl Crew.empty c
  let c1 := (c0.setPlane j (c.plane 16)).setPlane 16 (c.plane j)
  if c.highHalf then (c1.setEntry (j - 1) (withField (c1.entry (j - 1)) 13 3 stLive)).setEntry 16 emptyEntry
  else
    let c2 := if eBound t then c1.empty j else c1
    let st := if eKind e = 1 then stHalf else stLive
    let c3 := c2.setEntry j (mkEntry hnd p 0 0 (eFmt e) (eKind e) (eSp e) st)
    let c4 := if eKind e = 1 then c3.setEntry (j + 1) (mkEntry 0xFFFF p 0 0 (eFmt e) 1 false stCovered) else c3
    let back :=
      if eState t = stLive then mkEntry 0xFFFF (ePart t) 0 (eOwner e) (eFmt t) (eKind t) (eSp t) stFull else emptyEntry
    { c4.setEntry 16 back with shHi := false }

/-- Slots, and handles with their partitions, whose binding a swap changes (R111). -/
def Crew.swapMet (c : Crew) (p j hnd : Nat) : List Nat × List (Nat × Nat) :=
  let gone := c.superseded p hnd (if c.highHalf then [j, j - 1] else [j])
  let t := if eBound (c.entry j) then [j] else []
  (j :: (gone ++ t ++ (if c.highHalf then [j - 1] else [])).flatMap c.slotsOf ++ gone,
    (p, hnd) :: ((gone ++ t).map fun i => (ePart (c.entry i), eHandle (c.entry i))))

/-- Status of an MXSWP under `grad` (R131). -/
def Crew.gradStatus (c : Crew) (p g hnd : Nat) : BitVec 4 :=
  let es := (List.range 4).map fun i => c.entry (4 * g + i)
  if es.any fun e => eState e != stEmpty then (if es.any fun e => ePin e != 0 then 1 else 5)
  else if (c.superseded p hnd []).any fun i => ePin (c.entry i) != 0 then 1
  else 0

/-- The bind of gradient plane g; its slots are zero. Its COVERED entries carry FMT 7 and KIND 10 as its own entry does
(DESIGN CHOICE, assumption log 97). -/
def Crew.gradBind (c : Crew) (p g hnd : Nat) : Crew :=
  let c0 := (c.superseded p hnd []).foldl Crew.empty c
  (List.range 4).foldl (fun x i =>
    (x.setPlane (4 * g + i) { x.plane (4 * g + i) with w := 0 }).setEntry (4 * g + i)
      (mkEntry (if i = 0 then hnd else 0xFFFF) p 0 0 7 2 false (if i = 0 then stLive else stCovered))) c0

/-- The entry port is taken for n cycles. -/
def State.portTake (s : State) (c n : Nat) : State := s.setCrew c { s.crew c with portFree := s.crewNow c + n }

/-- A directory command has entered with its status, and completes 511 cycles later (Table 6.2). -/
def State.dirDone (s : State) (h : Nat) (m : Mx) (st : BitVec 4) : State :=
  (s.portTake (crewOf h) 1).mxLeft h { m with status := st, due := s.crewNow (crewOf h) + 511, pos := 1 }

def State.swpEntry (s : State) (h : Nat) (m : Mx) : State :=
  let i := crewOf h
  let c := s.crew i
  let p := s.partOf h
  let hnd := m.cmd.handle
  let j := m.cmd.slot
  if m.cmd.mod0 then
    let st := c.gradStatus p (j / 4) hnd
    if st ≠ 0 then s.dirDone h m st
    else
      let gone := c.superseded p hnd []
      let s1 := (s.setCrew i { c.gradBind p (j / 4) hnd with lastSwap := some (s.crewNow i) }).rebound i
        ((List.range 4).map (4 * (j / 4) + ·) ++ gone.flatMap c.slotsOf) [(p, hnd)]
      s1.dirDone h m 0
  else
    let st := c.swapStatus h p j hnd
    if st ≠ 0 then s.dirDone h m st
    else
      let (js, hs) := c.swapMet p j hnd
      ((s.setCrew i { c.swap p j hnd with lastSwap := some (s.crewNow i) }).rebound i js hs).dirDone h m 0

def State.evpEntry (s : State) (h : Nat) (m : Mx) : State :=
  let i := crewOf h
  let c := s.crew i
  match c.find (s.partOf h) m.cmd.handle with
  | none => s.dirDone h m 4
  | some j =>
    if ePin (c.entry j) ≠ 0 then s.dirDone h m 1
    else ((s.setCrew i (c.empty j)).rebound i (c.slotsOf j) [(s.partOf h, m.cmd.handle)]).dirDone h m 0

def State.pinEntry (s : State) (h : Nat) (m : Mx) : State :=
  let i := crewOf h
  let c := s.crew i
  match c.find (s.partOf h) m.cmd.handle with
  | none => s.dirDone h m 4
  | some j =>
    let n := ePin (c.entry j)
    if m.cmd.mod0 then
      if n = 0 then s.dirDone h m 6
      else (s.setCrew i (c.setEntry j (withField (c.entry j) 32 8 (n - 1)))).dirDone h m 0
    else if n = 255 then s.dirDone h m 6
    else (s.setCrew i (c.setEntry j (withField (c.entry j) 32 8 (n + 1)))).dirDone h m 0

/-- What MXDIR reads (R135). -/
def State.dirValue (s : State) (h : Nat) (cmd : Cmd) : Word :=
  let c := s.crew (crewOf h)
  let p := s.partOf h
  if cmd.mod0 then
    let e := c.entry (cmd.a.toNat % 32)
    if eState e ≠ stEmpty ∧ ePart e ≠ p then emptyEntry else e
  else
    match c.find p cmd.handle with
    | some j => c.entry j
    | none => emptyEntry

def State.dirEntry (s : State) (h : Nat) (m : Mx) : State :=
  (s.portTake (crewOf h) 1).mxLeft h { m with out := [s.dirValue h m.cmd], pos := 1, due := s.crewNow (crewOf h) }

/-! ## Entries: MXTSM, MXDRG (R111, R141, R146) -/

def State.addFlight (s : State) (c : Nat) (f : Flight) : State :=
  s.setCrew c { s.crew c with flights := (s.crew c).flights ++ [f] }

/-- The plane of entry j of a crew has met an error, and its eviction has not entered yet (Table 16.10). -/
def Crew.planeBad (c : Crew) (j : Nat) : Bool := c.fevs.any fun r => r.why == .error j

/-- An entry that drains `after` cycles from now, having met slot `slot`. -/
def State.mkFlight (s : State) (h : Nat) (k : FlightKind) (after : Nat) (m : Mx) (row : Nat) (slot : Option Nat) (res : Row)
    (ovf : Bool) : Flight :=
  { due := s.crewNow (crewOf h) + after, kind := k, job := h, gen := (s.ctx h).gen, cmd := m.cmd, fmt := m.fmt, row := row,
    slot := slot, res := res, ovf := ovf, iev := slot.any (s.crew (crewOf h)).planeBad, dead := false }

def State.tsmEntry (s : State) (h : Nat) (m : Mx) : State :=
  let i := crewOf h
  let w : Window :=
    { openAt := s.crewNow i, first := m.cmd.a.toNat % 256, count := m.cmd.a.toNat / 256 % 512, left := 0, kept := [],
      replaying := false }
  let s1 := (s.portTake i 1).addFlight i (s.mkFlight h .tsm 528 m 0 none 0 false)
  let s2 := s1.mxLeft h { m with pos := 1, due := s.crewNow i + 528 }
  s2.setCtx h { s2.ctx h with window := some w }

/-- The values that MXDRG stores, in ascending address order, and the order of their cells. -/
def drgCells (cmd : Cmd) (f : Word) : List (Nat × Nat) :=
  let ks := shK cmd.c
  let ns := shN cmd.c
  (List.range (ks * ns)).map fun i => if fmtTb f then (i % ks, i / ks) else (i / ns, i % ns)

/-- DEDUCED, assumption log 80. -/
def State.drgEntry (s : State) (h : Nat) (m : Mx) : State :=
  let i := crewOf h
  let c := s.crew i
  let s0 := s.setCtx h (s.ctx h).closeWindow
  match c.find (s.partOf h) m.cmd.handle with
  | none => s0.dirDone h m 4
  | some j =>
    if eState (c.entry j) ≠ stLive then s0.dirDone h m 4
    else if eKind (c.entry j) ≠ 2 then s0.dirDone h m 5
    else
      let gs := (drgCells m.cmd m.fmt).map fun x => c.grad j x.1 x.2
      let ys := gs.map fun g => if fmtO m.fmt = 7 then g else bf16.round .rne (f32.value g)
      let v := fun (y : Nat) => if fmtO m.fmt = 7 then f32.value y else bf16.value y
      let c1 := if m.cmd.mod0 then c.setGrad j (shK m.cmd.c) (shN m.cmd.c) fun _ _ => 0 else c
      let x := s0.ctx h
      let am := if fmtAmx m.fmt then
          x.amax.set (fmtAmr m.fmt) (gs.foldl (fun a g => amaxUpdate a (BitVec.ofNat 32 g)) (x.amax.get (fmtAmr m.fmt) 0))
        else x.amax
      let m1 := { m with
        out := ys.map (BitVec.ofNat 64), nan := ys.any fun y => (v y).isNan, inf := ys.any fun y => (v y).isInf }
      (((s0.setCrew i c1).setCtx h { x with amax := am })).dirDone h m1 0

/-! ## Entries: rows (R91 to R96, R136 to R144) -/

/-- The live entry that a row's handle selects (R91). -/
def Crew.select (c : Crew) (p hnd : Nat) : Option Nat :=
  (List.range 16).find? fun j => eState (c.entry j) == stLive && eHandle (c.entry j) == hnd && ePart (c.entry j) == p

/-- An open window keeps the row for its replay. -/
def Ctx.keep (c : Ctx) (k : KeptRow) : Ctx :=
  match c.window with
  | some w => { c with window := some { w with kept := w.kept ++ [k] } }
  | none => c

/-- Cycles that a row or token holds the port, and from its entry to its drain (R90, R92)
(DEDUCED, assumption log 80). -/
def rowCycles (wide : Bool) : Nat := if wide then 4 else 1
/-- DEDUCED, assumption log 80. -/
def drainAfter (wide : Bool) : Nat := if wide then 531 else 528

/-- A null row or token, or padding, passes (R92). It meets no plane, and is no entry that a row of the other kind waits for
(DEDUCED, assumption log 80). -/
def State.nullPass (s : State) (h : Nat) (m : Mx) (gap : Nat) : State :=
  let i := crewOf h
  let last := m.pos + 1 = shM m.cmd.c
  let m1 := { m with pos := m.pos + 1, due := if last then s.crewNow i + gap else m.due }
  ((s.portTake i 1).leaseRow h false).mxPass h m1

def nullFetch (m : Nat) : Fetch :=
  { idx := m, handle := 0xFFFF, x := [], dy := [], rs := oneF32, sdy := oneF32, ea := [], lines := [] }

/-- What the next entry of an MXMM or MXGA carries; none while its lines have not arrived. -/
def Ctx.carried (c : Ctx) (m : Mx) : Option Fetch :=
  if ¬ m.reads then some (nullFetch m.pos)
  else match c.fetched with
    | some f => if f.idx = m.pos then some f else none
    | none => none

/-- The selected plane does not fit an MXMM (Table 5.6, mismatch). -/
def Crew.mmMismatch (c : Crew) (j : Nat) (cmd : Cmd) (f : Word) : Bool :=
  eKind (c.entry j) == 2 || eFmt (c.entry j) != fmtB f || (!eSp (c.entry j) && decide (256 < shK cmd.c))

/-- A row enters the array with the plane in slot j. -/
def State.mmFly (s : State) (h : Nat) (m : Mx) (t : Fetch) (j : Nat) : State :=
  let i := crewOf h
  let c := s.crew i
  let wide := wideFmt (fmtA m.fmt)
  let (res, o) := c.rowResult j m.fmt (shK m.cmd.c) (shN m.cmd.c) t
  let due := s.crewNow i + drainAfter wide
  let s1 := (s.portTake i (rowCycles wide)).addFlight i (s.mkFlight h .mm (drainAfter wide) m t.idx (some j) res o)
  s1.setCrew i { s1.crew i with lastGa := false, lastDrain := Nat.max (s1.crew i).lastDrain due }

def State.mmEntry (s : State) (h : Nat) (m : Mx) : State :=
  let i := crewOf h
  let c := s.crew i
  if c.lastGa && decide (s.crewNow i ≤ c.lastDrain) then s
  else if shM m.cmd.c ≤ m.pos then s.nullPass h m 529
  else
    match (s.ctx h).carried m with
    | none => s
    | some t =>
      let keep := fun (s1 : State) (j : Option Nat) =>
        (s1.setCtx h ((s1.ctx h).keep { cmd := m.cmd, fmt := m.fmt, fetch := t, slot := j })).pinLimit i 16
      let m0 := { m with pins := m.pinsAfter t }
      if t.handle = 0xFFFF then (keep s none).nullPass h m0 529
      else
        match c.select (s.partOf h) t.handle.toNat with
        | none => (s.portTake i 1).selectorMiss h m t.handle.toNat 1
        | some j =>
          if c.mmMismatch j m.cmd m.fmt then (s.portTake i 1).selectorMiss h m t.handle.toNat 2
          else
            let due := s.crewNow i + drainAfter (wideFmt (fmtA m.fmt)) + 1
            let m1 := { m0 with pos := m.pos + 1, due := if m.pos + 1 = shM m.cmd.c then due else m.due }
            (((keep (s.mmFly h m t j) (some j)).leaseRow h false)).mxPass h m1

/-- DEDUCED, assumption log 80. -/
def State.gaEntry (s : State) (h : Nat) (m : Mx) : State :=
  let i := crewOf h
  let c := s.crew i
  let wide := wideFmt (fmtA m.fmt) || wideFmt (fmtB m.fmt)
  if !c.lastGa && decide (s.crewNow i ≤ c.lastDrain) then s
  else
    let s0 := s.setCtx h (s.ctx h).closeWindow
    if shM m.cmd.c ≤ m.pos then s0.nullPass h m 511
    else
      match (s.ctx h).carried m with
      | none => s
      | some t =>
        let m0 := { m with pins := m.pinsAfter t }
        if t.handle = 0xFFFF then s0.nullPass h m0 511
        else
          match c.select (s.partOf h) t.handle.toNat with
          | none => (s0.portTake i 1).selectorMiss h m t.handle.toNat 1
          | some j =>
            if eKind (c.entry j) ≠ 2 then (s0.portTake i 1).selectorMiss h m t.handle.toNat 2
            else
              let (c1, n, f, o) := c.token j m.fmt (shK m.cmd.c) (shN m.cmd.c) t
              let due := s.crewNow i + drainAfter wide
              let m1 := { m0 with
                pos := m.pos + 1, nan := m.nan || n, inf := m.inf || f, ovf := m.ovf || o
                due := if m.pos + 1 = shM m.cmd.c then s.crewNow i + 511 else m.due }
              let s1 := (s0.setCrew i { c1 with lastGa := true, lastDrain := Nat.max c.lastDrain due })
              let s2 := (s1.portTake i (rowCycles wide)).addFlight i (s.mkFlight h .ga (drainAfter wide) m t.idx (some j) 0 false)
              (s2.leaseRow h false).mxPass h m1

def State.katEntry (s : State) (h : Nat) (m : Mx) : State :=
  let i := crewOf h
  let t := m.cmd.a.toNat % 64
  let a := poolAddr t m.pos
  if (s.crew i).lastGa && decide (s.crewNow i ≤ (s.crew i).lastDrain) then s
  else if s.poisoned a 256 then s.mxOperandFault h m poisonCause (BitVec.ofNat 64 a)
  else
    let x := rowCodes 1 256 (s.rawRead a 256)
    let due := s.crewNow i + 528
    let m1 := { m with pos := m.pos + 1, sum := m.sum + katSum t m.pos x, due := due + 1 }
    let s1 := (s.portTake i 1).addFlight i (s.mkFlight h .kat 528 m m.pos none 0 false)
    let s2 := s1.setCrew i { s1.crew i with lastGa := false, lastDrain := Nat.max (s1.crew i).lastDrain due }
    (s2.leaseRow h false).mxPass h m1

/-- The first replay that has rows left has one less. -/
def redoPop : List Redo → List Redo
  | [] => []
  | r :: l => if r.left.isEmpty then r :: redoPop l else { r with left := r.left.drop 1 } :: l

/-- A row of a replay enters again, as it was first read; `rest` follow it (R101, R112). It waits for the tokens before
it as a first row does (R109), and meets the slot that it met then, as its content stands; padding rows do not enter
again. A command that enters again has no group status, and counts toward the lease's 16 (DEDUCED, assumption log 79).
-/
def State.redoEntry (s : State) (h : Nat) (k : KeptRow) (rest : List KeptRow) : State :=
  let i := crewOf h
  if (s.crew i).lastGa && decide (s.crewNow i ≤ (s.crew i).lastDrain) then s
  else
  let m := { Mx.fresh k.cmd with fmt := k.fmt }
  let wide := wideFmt (fmtA k.fmt)
  let s1 := match k.slot with | none => s.portTake i 1 | some j => s.mmFly h m k.fetch j
  let due := s.crewNow i + drainAfter (wide && k.slot.isSome) + 1
  let c := (s1.ctx h).updMx k.cmd.seq fun y => if k.fetch.idx + 1 = shM k.cmd.c then { y with due := due } else y
  let s2 := (s1.setCtx h { c with redoing := redoPop c.redoing }).leaseRow h true
  if rest.any fun y => y.cmd.seq == k.cmd.seq then s2
  else
    (s2.leaseMap i fun l => if 16 ≤ l.cmds + 1 then none else some { l with cmds := l.cmds + 1 }).leaseEmpty h

/-- The next entry of the head command. -/
def State.mxEntry (s : State) (h : Nat) (m : Mx) : State :=
  if m.cmd.opc = opMxmm then s.mmEntry h m
  else if m.cmd.opc = opMxga then s.gaEntry h m
  else if m.cmd.opc = opMxkat then s.katEntry h m
  else if m.cmd.opc = opMxswp then
    (if s.swapOk h m.cmd then s.swpEntry h m
    else
      let c : Cause := { cls := 5, sub := 8 }
      (s.mxStop h { m with began := false } .format 0 true).postRecord c (s.mxRecord h c m.cmd.seq 0 0))
  else if m.cmd.opc = opMxevp then s.evpEntry h m
  else if m.cmd.opc = opMxpin then s.pinEntry h m
  else if m.cmd.opc = opMxdrg then s.drgEntry h m
  else if m.cmd.opc = opMxtsm then s.tsmEntry h m
  else s.dirEntry h m

/-- Crew c may pass an entry of its lease holder in this cycle: its clock ticks, the port is open, and no forced
eviction takes it (R89, R94, R270). -/
def State.entryOpen (s : State) (c : Nat) : Bool :=
  s.ticks c && (s.crew c).portOpen (s.crewNow c) && !s.fevTakes c

/-- The next entry of context h: a row of its replay, from the second cycle after the flagged drain on, or the head's. -/
def State.entryOf (s : State) (h : Nat) : State :=
  match (s.ctx h).redo with
  | some r =>
    (match r.left with
      | k :: rest => if r.from_ ≤ s.crewNow (crewOf h) then s.redoEntry h k rest else s
      | [] => s)
  | none =>
    match (s.ctx h).mx with
    | some m => s.mxEntry h m
    | none => s

/-- Event ROW_ENTRY: the next row or other entry of crew c's lease holder passes the entry port. -/
def execRowEntry (c : Nat) (s : State) : Out :=
  match (s.crew c).lease with
  | none => .next s
  | some l => .next (if s.entryOpen c && !l.over then s.entryOf l.job else s)

/-! ## Drains and replay (R107, R111 to R113) -/

/-- The flight that drains first among those that are due. -/
def firstDue (now : Nat) (l : List Flight) : Option Flight :=
  l.foldl (fun a f =>
    if now < f.due then a
    else match a with
      | some g => if f.due < g.due then some f else some g
      | none => some f) none

/-- Poison of an accumulator row's elements that a write covers whole is gone (R389). -/
def State.clearTile (s : State) (h r : Nat) (whole : Nat → Bool) : State :=
  let b := tilePiece (coreOf h) ((s.ctx h).accBase + r) 0
  { s with poison := s.poison.filter fun pc => !(b ≤ pc && pc < b + 256 && whole (pc - b)) }

def State.zeroRows (s : State) (h first count : Nat) : State :=
  (List.range count).foldl (fun x i => (x.setRow h (first + i) 0).clearTile h (first + i) fun _ => true) s

/-- 32-bit elements of a row that a drain writes in part or whole. -/
def drainTouches (f : Word) (h1 : Bool) (cols e : Nat) : Bool :=
  if sizeOf (fmtO f) = 4 then decide (e < cols)
  else let b := if h1 then 128 else 0; decide (b ≤ e ∧ 2 * (e - b) < cols)

def drainWhole (f : Word) (h1 : Bool) (cols e : Nat) : Bool :=
  if sizeOf (fmtO f) = 4 then decide (e < cols)
  else let b := if h1 then 128 else 0; decide (b ≤ e ∧ 2 * (e - b) + 1 < cols)

/-- An accumulating drain reads a poisoned element (Table 16.10). -/
def State.drainPoisoned (s : State) (f : Flight) : Bool :=
  let b := tilePiece (coreOf f.job) ((s.ctx f.job).accBase + shRow0 f.cmd.c + f.row) 0
  f.cmd.accum && s.poison.any fun pc =>
    decide (b ≤ pc ∧ pc < b + 256) && drainTouches f.fmt f.cmd.h1 (shN f.cmd.c) (pc - b)

/-- A drain of the context outside the named rows closes its window (R111) (DEDUCED, assumption log 79). -/
def Ctx.drainOutside (c : Ctx) (first count : Nat) : Ctx :=
  match c.window with
  | some w => if w.first ≤ first ∧ first + count ≤ w.first + w.count then c else c.closeWindow
  | none => c

/-- The entry in flight is a row of a replay. -/
def Redo.holds (r : Redo) (f : Flight) : Bool := r.rows.any fun k => k.cmd.seq == f.cmd.seq && k.fetch.idx == f.row

/-- The row is one of the open window's. -/
def Window.holds (w : Window) (f : Flight) : Bool :=
  w.kept.any fun k => k.cmd.seq == f.cmd.seq && k.fetch.idx == f.row

/-- An uncorrectable error that is not replayed: the command's TSF entry has IEV = 1, or gets it when it has been written, as
that of an MXGA has whose padding still enters (R113). -/
def Ctx.markIev (c : Ctx) (q : Nat) : Ctx :=
  let c1 := c.updMx q fun m => { m with iev := true }
  let mine := fun (w : Word) => fieldOf w 48 16 == q % 2 ^ 16 && fieldOf w 7 1 == 1
  let mark := fun (w : Word) => if mine w then w ||| 8 else w
  if (c.mx.toList ++ c.mxTail ++ c.held.map (·.mx)).any fun m => m.cmd.seq == q && !m.finished then c1
  else { c1 with tsf := c1.tsf.map fun e => (e.1, mark e.2), tsfNew := c1.tsfNew.map fun e => (e.1, e.2.1, mark e.2.2) }

def State.notReplayed (s : State) (f : Flight) : State :=
  ((s.setCtx f.job ((s.ctx f.job).markIev f.cmd.seq)).integrity f.job 3 2).binTrigger (crewOf f.job)

/-- A row's results are written (R107). -/
def State.drainMm (s : State) (f : Flight) : State :=
  let h := f.job
  let r := shRow0 f.cmd.c + f.row
  let (row, n, i, o) := drainRow f.fmt f.cmd.accum f.cmd.h1 (shN f.cmd.c) f.res (s.row h r)
  let s1 := (s.setRow h r row).clearTile h r (drainWhole f.fmt f.cmd.h1 (shN f.cmd.c))
  let c := (s1.ctx h).updMx f.cmd.seq fun m =>
    { m with nan := m.nan || n, inf := m.inf || i, ovf := m.ovf || o || f.ovf }
  let am := if fmtAmx f.fmt then c.amax.set (fmtAmr f.fmt) (amaxRow (c.amax.get (fmtAmr f.fmt) 0) (shN f.cmd.c) f.res)
    else c.amax
  s1.setCtx h { c with amax := am }

/-- A command that had completed and is replayed: it will write a second TSF entry (R112). -/
def Mx.second (k : KeptRow) (now : Nat) : Mx :=
  { Mx.fresh k.cmd with tookTok := true, began := true, fmt := k.fmt, pos := padded (shM k.cmd.c),
                        rows := padded (shM k.cmd.c), due := now, rpl := true, again := true }

/-- The replay of a window starts at drain cycle d: its rows in flight write nothing any more, its named rows are zeroed in
d + 1, and its rows enter again from d + 2 on (R112) (DEDUCED, assumption log 79). -/
def State.replay (s : State) (h : Nat) (w : Window) : State :=
  let i := crewOf h
  let c := s.ctx h
  let live := (c.mx.toList ++ c.mxTail ++ c.held.map (·.mx)).filter fun m => !m.finished
  let seqs := (w.kept.map fun k => k.cmd.seq).eraseDups
  let gone := seqs.filter fun q => !(live.any fun m => m.cmd.seq == q)
  let seconds := gone.filterMap fun q => (w.kept.find? fun k => k.cmd.seq == q).map fun k => Mx.second k (s.crewNow i)
  let c1 := seqs.foldl (fun x q => x.updMx q fun m => if m.finished then m else { m with rpl := true }) c
  let r : Redo :=
    { first := w.first, count := w.count, rows := w.kept, left := w.kept, from_ := s.crewNow i + 2, zeroed := false }
  let s1 := s.setCtx h
    { c1 with mxTail := c1.mxTail ++ seconds, window := some { w with replaying := true }, redoing := c1.redoing ++ [r] }
  let x := s1.crew i
  let dead := fun (f : Flight) => f.kind == .mm && f.job == h && f.gen == c.gen && w.holds f
  let recent := s.now :: x.replays.filter fun t => decide (s.now < t + s.ms)
  let s2 := s1.setCrew i
    { x with
      flights := x.flights.map fun f => if dead f then { f with dead := true } else f
      replays := recent }
  let s3 := s2.logEvent 2 0 i [0, 0, 0, 0]
  if 8 ≤ recent.length then s3.binTrigger i else s3

/-- The named rows of the replays of context h that have not been zeroed are zeroed: cycle d passes (R112, step 2). -/
def State.replayZero (s : State) (h : Nat) : State :=
  let c := s.ctx h
  match c.redoing.filter fun r => !r.zeroed with
  | [] => s
  | l =>
    let s1 := s.setCtx h { c with redoing := c.redoing.map fun r => { r with zeroed := true } }
    l.foldl (fun x r => x.zeroRows h r.first r.count) s1

/-- Rows of a replay of context h still have to enter or to drain. -/
def State.redoBusy (s : State) (h : Nat) (r : Redo) : Bool :=
  !r.zeroed || !r.left.isEmpty ||
    (s.crew (crewOf h)).flights.any fun f => f.job == h && f.gen == (s.ctx h).gen && !f.dead && r.holds f

/-- A replay is over once its rows have entered and drained (R112, step 3). -/
def State.replayOver (s : State) (h : Nat) : State :=
  let c := s.ctx h
  match c.redoing.filter fun r => !s.redoBusy h r with
  | [] => s
  | l =>
    let of := fun (w : Window) => l.any fun r => w.kept.take r.rows.length == r.rows
    s.setCtx h { c with
      redoing := c.redoing.filter fun r => s.redoBusy h r
      window := c.window.map fun w => if of w then { w with replaying := false } else w }

/-- One entry in flight drains; `err` says that its row is flagged with an uncorrectable error. A row that met an error in its
plane drains with IEV (R388). -/
def State.drainOne (s : State) (f : Flight) (err : Bool) : State :=
  let h := f.job
  if f.dead then s
  else
    match f.kind with
    | .tsm =>
      let first := f.cmd.a.toNat % 256
      let n := f.cmd.a.toNat / 256 % 512
      (s.setCtx h ((s.ctx h).drainOutside first n)).zeroRows h first n
    | .ga | .kat => if err || f.iev then s.notReplayed f else s
    | .mm =>
      let s1 := s.setCtx h ((s.ctx h).drainOutside (shRow0 f.cmd.c + f.row) 1)
      let flagged := err || s1.drainPoisoned f
      match (s1.ctx h).window with
      | some w =>
        if f.iev then (s1.drainMm f).notReplayed f
        else if flagged && !w.replaying && w.holds f then s1.replay h w
        else if flagged then (s1.drainMm f).notReplayed f
        else s1.drainMm f
      | none => if flagged || f.iev then (s1.drainMm f).notReplayed f else s1.drainMm f

/-- The entry of crew c whose drain cycle comes first drains, if one is due. -/
def State.drainNext (s : State) (c : Nat) (err : Bool) : State :=
  match firstDue (s.crewNow c) (s.crew c).flights with
  | none => s
  | some f => (s.setCrew c { s.crew c with flights := (s.crew c).flights.erase f }).drainOne f err

/-- A cycle of crew c does not pass before the entries that are due in it have drained (R90). -/
def State.drainAll (s : State) (c : Nat) : State :=
  (List.range (s.crew c).flights.length).foldl (fun x _ => x.drainNext c false) s

/-- Event ROW_DRAIN: the entry of crew c whose drain cycle comes first drains, after the turn that the lanes of its job
have in that cycle: they see its row from the next one on (R90). -/
def execRowDrain (c : Nat) (err : Bool) (s : State) : Out :=
  match firstDue (s.crewNow c) (s.crew c).flights with
  | none => .next s
  | some f => .next (if s.mayRun (.vec f.job) then s else s.drainNext c err)

/-! ## Completion (R110, R120, R126) -/

def b2n (b : Bool) : Nat := if b then 1 else 0

/-- A TSF entry (Table 5.8). -/
def tsfWord (m : Mx) (row0 cnt : Nat) : Word :=
  BitVec.ofNat 64 (m.cmd.seq % 2 ^ 16 * 2 ^ 48 + row0 % 256 * 2 ^ 32 + cnt % 256 * 2 ^ 24 + 128 + b2n m.rpl * 16 +
    b2n m.iev * 8 + b2n m.ovf * 4 + b2n m.inf * 2 + b2n m.nan)

/-- MXST after a command with a status (Table 6.6) (DEDUCED, assumption log 76). -/
def mxstWord (old : Word) (m : Mx) : Word :=
  let ref := if 1 ≤ m.status.toNat ∧ m.status.toNat ≤ 6 then 1 else fieldOf old 8 1
  let hnd := if m.cmd.opc = opMxkat then 0xFFFF else m.cmd.handle
  BitVec.ofNat 64 (m.cmd.seq % 2 ^ 16 * 2 ^ 48 + hnd * 2 ^ 32 + m.cmd.opc.toNat % 256 * 2 ^ 24 + ref * 256 + m.status.toNat)

def writesMxst (opc : BitVec 9) : Bool :=
  opc == opMxswp || opc == opMxevp || opc == opMxpin || opc == opMxdrg || opc == opMxkat
def writesTsf (opc : BitVec 9) : Bool := opc == opMxmm || opc == opMxga || opc == opMxdrg || opc == opMxkat

/-- A TSF entry that becomes visible 24 cycles from now (R110). -/
def Ctx.pushTsf (c : Ctx) (now : Nat) (w : Word) : Ctx := { c with tsfNew := c.tsfNew ++ [(0, now + 24, w)] }

/-- The command's TSF entry; the spec gives no rows for MXKAT's, which writes none: free values (DESIGN CHOICE,
assumption log 2) (DEDUCED, assumption log 77). -/
def State.tsfOf (s : State) (m : Mx) : Word × State :=
  if m.cmd.opc = opMxmm then (tsfWord m (shRow0 m.cmd.c) (shM m.cmd.c - 1), s)
  else if m.cmd.opc = opMxkat then let (n, s1) := s.pick 65536; (tsfWord m (n % 256) (n / 256), s1)
  else (tsfWord m 0 0, s)

/-- The command `m` completes: token, MXST, TSF; a known-answer mismatch is an integrity event (R144)
(DEDUCED, assumption log 76). -/
def State.mxComplete (s : State) (h : Nat) (m : Mx) : State :=
  let bad := m.cmd.opc == opMxkat && m.status != 7 && m.sum != m.cmd.b
  let m1 := if bad then { m with status := 8, iev := true } else m
  let (w, s1) := if writesTsf m.cmd.opc then s.tsfOf m1 else (0, s)
  let c := s1.ctx h
  let c1 := if m.again then c else c.signal m.cmd.tok.sig
  let c2 := if writesTsf m.cmd.opc then c1.pushTsf (s.crewNow (crewOf h)) w else c1
  let c3 := if writesMxst m.cmd.opc then { c2 with mxst := mxstWord c2.mxst m1 } else c2
  let s2 := s1.setCtx h c3
  if bad then ((s2.countFail (crewOf h)).integrity h 4 3).binTrigger (crewOf h) else s2

/-- A command's next store is due (MXDIR, MXDRG). -/
def Mx.storing (m : Mx) : Bool := !m.stopped && decide (m.stored < m.out.length)

/-- Every entry of the command has passed, and what it stores has performed: its completion is due in cycle `due`. -/
def State.mxSettled (s : State) (h : Nat) (m : Mx) : Bool :=
  !m.finished && !m.stopped && !(s.ctx h).reenters m.cmd.seq &&
    (if m.cmd.opc = opMxmm ∨ m.cmd.opc = opMxga then decide (shM m.cmd.c ≤ m.pos)
    else if m.cmd.opc = opMxkat then decide (32 ≤ m.pos)
    else m.pos == 1 && decide (m.out.length ≤ m.stored) && (m.out.isEmpty || s.acked m.cmd))

/-- Rows of the command, or the zeroing of an MXTSM, still have to drain. -/
def Crew.draining (x : Crew) (h gen : Nat) (m : Mx) : Bool :=
  (m.cmd.opc == opMxmm || m.cmd.opc == opMxkat) && x.flying h gen m.cmd.seq ||
    x.flights.any fun f => f.kind == .tsm && f.job == h && f.gen == gen && f.cmd.seq == m.cmd.seq

/-- The commands of a context that have started or may: its head, those that have left it, and those held at their places. -/
def Ctx.live (c : Ctx) : List Mx := c.mx.toList ++ c.mxTail ++ (c.held.filter fun x => x.stop.isNone).map (·.mx)

/-- A command that has entered may complete now (Table 6.2): the first in order of their cycles among its context's. -/
def State.mxDone (s : State) (h : Nat) (m : Mx) : Bool :=
  let c := s.ctx h
  s.mxSettled h m && decide (m.due ≤ s.crewNow (crewOf h)) && !(s.crew (crewOf h)).draining h c.gen m &&
    c.live.all fun y =>
      !s.mxSettled h y || decide (m.due < y.due ∨ (m.due = y.due ∧ m.cmd.seq ≤ y.cmd.seq))

/-- The next store of MXDIR or MXDRG. -/
def State.mxStore (s : State) (h : Nat) (m : Mx) : State :=
  let sz := if m.cmd.opc = opMxdir then 8 else sizeOf (fmtO m.fmt)
  let va := off m.cmd.b (m.stored * sz)
  match s.engChk h none .store va sz with
  | .ok =>
    let l := bytesLE sz (m.out.getD m.stored 0).toNat
    let s1 := s.storeAt m.cmd.forker (some m.cmd) (s.engAddr h none .store va) l
    s1.setCtx h ((s1.ctx h).updMx m.cmd.seq fun y =>
      { y with stored := y.stored + 1, due := Nat.max y.due (s.crewNow (crewOf h)) })
  | e => s.tailFault h m.cmd (m.stored * sz) e

/-- The command `m` of context h completes, wherever it stands; one that has not left its place yet does so as a
finished one. -/
def State.mxFinish (s : State) (h : Nat) (m : Mx) : State :=
  let x := s.ctx h
  let mine := fun (y : Mx) => y.cmd.seq == m.cmd.seq && y.again == m.again
  let done := fun (y : Mx) => if mine y then { y with finished := true } else y
  (s.setCtx h { x with
    mxTail := x.mxTail.filter fun y => !mine y, mx := x.mx.map done
    held := x.held.map fun y => { y with mx := done y.mx } }).mxComplete h m

/-- The commands of context h whose completions are due complete, at most n of them. -/
def State.finishCtx : Nat → State → Nat → State
  | 0, s, _ => s
  | n + 1, s, h =>
    match (s.ctx h).live.find? fun m => !m.storing && s.mxDone h m with
    | some m => finishCtx n (s.mxFinish h m) h
    | none => s

/-- A cycle does not pass before the completions that are due in it (R120, Table 6.2). -/
def State.finishAll (s : State) : State :=
  s.ctxs.foldl (fun x e => if e.1 < 1024 then State.finishCtx (x.ctx e.1).live.length x e.1 else x) s

/-- The commands of crew c that have something to do outside the entry port: a store, or their completion. -/
def State.mxWork (s : State) (c : Nat) : List (Nat × Mx) :=
  (List.range 16).flatMap fun i =>
    let h := 16 * c + i
    let x := s.ctx h
    (x.mxTail.filter Mx.storing ++ x.live.filter fun m => !m.storing && s.mxDone h m).map fun m => (h, m)

/-- Event MATRIX_COMMAND_COMPLETE: a command of crew c completes, or performs the next of the stores after which it does;
which context's goes first is the device's choice. -/
def execMatrixCommandComplete (c : Nat) (s : State) : Out :=
  match s.mxWork c with
  | [] => .next s
  | l =>
    let (i, s1) := s.pick l.length
    match l[i]? with
    | none => .next s1
    | some (h, m) => .next (if m.storing then s1.mxStore h m else s1.mxFinish h m)

/-! ## MXRES (R148) -/

/-- The first stopped command that `p` names, the ones above it, and those below. -/
def splitHeld (p : Held → Bool) : List Held → Option (List Held × Held × List Held)
  | [] => none
  | x :: r =>
    if x.stop.isSome && p x then some ([], x, r)
    else match splitHeld p r with
      | some (u, y, d) => some (x :: u, y, d)
      | none => none

/-- A dropped command completes at once: a selector miss signals its token and writes its TSF entry, a format fault has no
effect and writes none. -/
def State.mxDrop (s : State) (h : Nat) (x : Held) (up down : List Held) : State :=
  let c := s.ctx h
  let s1 := s.setCtx h { c with held := up ++ mergeHeld x down }.mxGone
  if x.stop = some .format then s1.setCtx h ((s1.ctx h).signal x.mx.cmd.tok.sig) else s1.mxComplete h x.mx

/-- The device or MXRES restarts the first stopped command that `p` names, or drops it (DEDUCED, assumption log 78). -/
def State.mxResume (s : State) (h : Nat) (p : Held → Bool) (drop : Bool) : State :=
  let c := s.ctx h
  match splitHeld p c.held with
  | none => s
  | some (up, x, down) =>
    if x.stop = some .privileged then s
    else if drop then s.mxDrop h x up down
    else
      let y : Held := { x with stop := none, mx := if x.stop = some .format then { x.mx with began := false } else x.mx }
      s.setCtx h { c with held := up ++ y :: down }

def execMxres (h : CoxH) (drop : Bool) (s : State) : Out :=
  coxForm s .coxOnly h [] fun t => .next ((s.mxResume t.home (fun _ => true) drop).next t)

/-! ## Known-answer tiles (R34, R144) -/

/-- The head is an MXKAT that only R114 keeps from starting (DEDUCED, assumption log 77). -/
def State.katHeld (s : State) (h : Nat) : Bool :=
  match (s.ctx h).head with
  | some (m, _) => m.cmd.opc == opMxkat && !m.began && (s.ctx h).tokReady m && !s.katAlone h
  | none => false

/-- A cycle of waiting of an MXKAT (DEDUCED, assumption log 77). -/
def State.katCycle (s : State) (h : Nat) : State :=
  let c := s.ctx h
  let w := if s.katHeld h then some (c.mxWaitFrom.getD (s.crewNow (crewOf h))) else none
  if c.mxWaitFrom = w then s else s.setCtx h { c with mxWaitFrom := w }

/-- The MXKAT at the head of context j, whose wait of 65,536 cycles is over, completes without entering, with status 7. It
takes its token and its format word as a start would (R144) (DEDUCED, assumption log 77). -/
def State.katTimeout (s : State) (j : Nat) : State :=
  match (s.ctx j).head with
  | some (m, x) =>
    if s.katOver j ∧ m.cmd.opc = opMxkat ∧ ¬ m.began ∧ (s.ctx j).tokReady m then
      let x1 := if m.tookTok then x else x.takeWait m.cmd.tok
      let x2 := if x1.fq.isEmpty then x1 else x1.popFmt
      let x3 := { x2.mxLeave { m with finished := true } with mxWaitFrom := none }
      (s.setCtx j x3).mxComplete j { m with status := 7 }
    else s
  | none => s

/-- Event MXKAT_TIMEOUT: the end of the wait of the MXKAT at the head of context j. -/
def execMxkatTimeout (j : Nat) (s : State) : Out := .next (s.katTimeout j)

/-- A cycle does not pass before the waits of MXKATs that are over in it have ended (R120, R144, Table 6.2). -/
def State.katTimeouts (s : State) : State :=
  s.ctxs.foldl (fun x e => if e.1 < 1024 ∧ s.ticks (crewOf e.1) then x.katTimeout e.1 else x) s

/-- Tile t of the pool is to run for the hardware's or the host's schedule, one at a time (DESIGN CHOICE, assumption log
20). -/
def State.runTile (s : State) (c t : Nat) : State :=
  let x := s.crew c
  if x.tile.isSome then s
  else s.setCrew c { x with tile := some { tile := t, from_ := s.crewNow c, pos := 0, sum := 0, last := 0 } }

/-- No context of the crew holds a lease, a command or rows of a replay, and the port is open. -/
def State.slotIdle (s : State) (c : Nat) : Bool :=
  (s.crew c).lease.isNone && ((s.crew c).portOpen (s.crewNow c)) &&
    (List.range 16).all fun i => (s.ctx (16 * c + i)).mxCount == 0 && !(s.ctx (16 * c + i)).redoes

/-- An idle lease slot: no tile is on its way either. -/
def State.arrayIdle (s : State) (c : Nat) : Bool := s.slotIdle c && (s.crew c).tile.isNone

/-- The tile's results have drained: a sum that is not the pool's goes to the event log and starts re-binning (R144). -/
def State.tileEnd (s : State) (c : Nat) (t : TileRun) : State :=
  let s1 := s.setCrew c { s.crew c with tile := none }
  if t.sum = s.readWord (poolSum t.tile) then s1 else ((s1.countFail c).logEvent 4 3 c [0, 0, 0, 0]).binTrigger c

/-- A cycle of a scheduled tile: its first row enters in an idle slot, each next one when the port admits it, an entry
each, as those of an MXKAT do; its results are compared once the last one has drained. One that has waited for 65,536
cycles ends without entering (R89, R109, R144) (DESIGN CHOICE, assumption log 20). -/
def State.tileCycle (s : State) (c : Nat) : State :=
  let x := s.crew c
  let now := s.crewNow c
  match x.tile with
  | none => s
  | some t =>
    if t.pos = 0 ∧ t.from_ + 65536 ≤ now then s.setCrew c { x with tile := none }
    else if 32 ≤ t.pos then (if now < t.last + 529 then s else s.tileEnd c t)
    else if (t.pos = 0 ∧ ¬ s.slotIdle c) ∨ ¬ x.portOpen now ∨ (x.lastGa ∧ now ≤ x.lastDrain) then s
    else
      let r := rowCodes 1 256 (s.rawRead (poolAddr t.tile t.pos) 256)
      s.setCrew c { x with
        tile := some { t with pos := t.pos + 1, sum := t.sum + katSum t.tile t.pos r, last := now }
        portFree := now + 1, lastGa := false, lastDrain := Nat.max x.lastDrain (now + 528) }

/-- Event KNOWN_ANSWER_SLOT: an idle lease slot arises in crew c, and the scheduler runs a tile, which one is the device's
choice, or asks the host for one (DESIGN CHOICE, assumption log 20). -/
def execKnownAnswerSlot (c : Nat) (tile : BitVec 6) (s : State) : Out :=
  if ¬ s.arrayIdle c then .next s
  else if s.assisted 5 then
    (if s.hostReqs.any fun r => r.work == .tile c then .next s else .next (s.forward 5 (.tile c)))
  else .next (s.runTile c tile.toNat)

/-! ## What a cycle's passing does (R96, R98, R144) -/

/-- A cycle of context h's crew passes. -/
def State.mxqCycle (s : State) (h : Nat) : State := (((s.replayZero h).replayOver h).missCycle h).katCycle h

/-- What is due in the arrays in this cycle, in the crews whose clocks tick: drains, rows of known-answer tiles, then
the ends of MXKATs' waits and completions (R90, R120, R144, R270, R394). -/
def State.arrayCycle (s : State) : State :=
  (s.crews.foldl (fun x e => if s.ticks e.1 then (x.drainAll e.1).tileCycle e.1 else x) s).katTimeouts.finishAll

/-- The array's part of a passing cycle, in the crews whose clocks tick (R270, R394) (DESIGN CHOICE, assumption log 34). -/
def State.mxCycle (s : State) : State :=
  let s1 := s.crews.foldl (fun x e => if s.ticks e.1 then x.leaseCycle e.1 else x) s
  s1.ctxs.foldl (fun x e => if e.1 < 1024 ∧ s.ticks (crewOf e.1) then x.mxqCycle e.1 else x) s1

end Sys2Proof.Machine
end

