-- ==== Sys2Proof/Machine/Recovery.lean ====
section
/-! DEFINITION. Machine/Recovery.lean: settling and the cut, the delivery of records and traps as events, storage errors,
the restart of a halted service core (R367 to R377, R388, R389). -/

namespace Sys2Proof.Machine

/-! ## What a stream waits for (R368) -/

/-- The sources and the destination of a VEC word. -/
def vecOps (i : Instr) : List Spec × Option Spec :=
  match i with
  | .vadd _ _ D A B | .vsub _ _ D A B | .vmul _ _ D A B => ([A, B], some D)
  | .vfma _ _ D A B C | .vshrt _ _ D A B C => ([A, B, C], some D)
  | .vmin _ _ D A B | .vmax _ _ D A B => ([A, B], some D)
  | .vabs _ _ D A | .vneg _ _ D A => ([A], some D)
  | .vexp2 _ _ D A | .vlog2 _ _ D A | .vrcp _ _ D A | .vrsq _ _ D A | .vtanh _ _ D A | .vsigm _ _ D A => ([A], some D)
  | .vand _ D A B | .vor _ D A B | .vxor _ D A B => ([A, B], some D)
  | .vmov _ D A => ([A], some D)
  | .vsel _ D A B _ => ([A, B], some D)
  | .viota _ D _ => ([], some D)
  | .vshl _ _ D A B => ([A, B], some D)
  | .vshr _ _ D A B => ([A, B], some D)
  | .vcmp _ _ _ _ A B => ([A, B], none)
  | .vcvt _ _ D A => ([A], some D)
  | .vcvta _ _ D A _ => ([A], some D)
  | .vcvts _ _ q A => ([A], some (BitVec.ofNat 9 (0x108 + q.toNat)))
  | .vqnt _ _ D A | .vdqnt _ _ D A => ([A], some D)
  | .vrsum _ _ D A | .vrmax _ _ D A => ([A], some D)
  | .vargm _ _ D A => ([A], some D)
  | .vamxr _ D _ => ([], some D)
  | .vperm _ D A B | .vrank _ D A B | .vselb _ D A B => ([A, B], some D)
  | .vrot _ D A _ => ([A], some D)
  | .vlpsh _ A => ([A], none)
  | .vlpop _ D _ | .vkpop _ D _ => ([], some D)
  | .vlcnt _ D => ([], some D)
  | .vrng _ D l => (l.toList, some D)
  | _ => ([], none)

/-- A VEC word waits on a queue. -/
def State.vecWaits (s : State) (j : Nat) (i : Instr) : Bool :=
  match i with
  | .vloop _ _ _ _ | .varm _ _ _ | .vmsk _ _ => ((s.ctx j).headCall true).isNone
  | i =>
    let (l, d) := vecOps i
    s.vecStall (VForm.both l d) j

/-- An ACC word waits on a queue or a flag. -/
def State.accWaits (s : State) (j : Nat) (i : Instr) : Bool :=
  let c := s.ctx j
  match i with
  | .amv _ _ src => src == .call && (c.headCall false).isNone
  | .ald _ t _ _ | .alds _ t _ _ | .agth _ t _ _ _ => isLoadTgt t && c.lqFull t.toNat
  | .ast _ t _ _ | .asts _ t _ _ | .asct _ t _ _ _ => isStoreTgt t && c.sqEmpty (t.toNat % 4)
  | .astx _ _ t _ _ _ => isStoreTgt t && c.sqEmpty (t.toNat % 4) && !(s.acc j).full
  | .awf _ f => !(s.acc j).flags.getLsbD f.toNat
  | .aldb _ _ f _ => c.blocks.any fun y => y.flag == f.toNat && !y.filled
  | .aloop _ _ _ => (takeStrides c.cqa).2.1.isNone
  | .aarm _ _ _ | .acall _ _ => (c.headCall false).isNone
  | _ => false

/-- A cox word waits on a queue, a token or a mailbox; `none` for a word that names none. -/
def State.coxWaits (s : State) (t : Thread) (i : Instr) : Bool :=
  let c := s.ctx t.home
  let on := fun (h : CoxH) (b : Bool) => b && ((s.cox t).pred h.bl.toNat h.pred).1
  match i with
  | .callv h _ _ _ => on h (decide (64 ≤ c.cqv.length))
  | .calla h _ _ _ => on h (decide (64 ≤ c.cqa.length))
  | .rqp h _ => on h c.rq.isEmpty
  | .fmtp h _ => on h (decide (16 ≤ c.fq.length))
  | .gmld h k _ => on h (!c.waitReady k)
  | .twait h k n => on h (decide ((c.token k.toNat).toNat < n.toNat))
  | .mbsend h _ k => on h (match s.peer t.home k.toNat with | none => true | some p => decide (16 ≤ (s.ctx p).mailbox.length))
  | .mbrecv h _ => on h c.mailbox.isEmpty
  | .mxgrp h _ | .mxldp h _ _ _ _ _ | .mxswp h _ _ _ _ | .mxevp h _ _ | .mxpin h _ _ _ | .mxmm h _ _ _ _ _ _ _
  | .mxga h _ _ _ _ _ | .mxdrg h _ _ _ _ _ | .mxkat h _ _ _ | .mxtsm h _ _ | .mxdir h _ _ _ _ =>
    on h (decide (32 ≤ c.mxCount))
  | .cpy h _ _ _ _ _ _ | .cpx h _ _ _ _ _ _ | .cpk h _ _ _ _ | .cpq h _ _ _ _ _ _ | .cpg h _ _ _ _ _ _
  | .cps h _ _ _ _ _ _ | .cpr h _ _ _ _ _ _ _ _ _ | .msg h _ _ _ _ _ | .logb h _ _ _ | .rtacq h _ _ | .nvq h _ _ _ _ =>
    on h (decide (16 ≤ c.cpq.length))
  | _ => false

def State.wordWaits (s : State) (t : Thread) (i : Instr) : Bool :=
  match t with
  | .acc j => s.accWaits j i
  | .vec j => s.vecWaits j i
  | t => s.coxWaits t i

/-- A stream is stopped, at JOIN, not running, in a WAITA, or waits at its next word, which in a lane may be an illegal one
(R59); the cox also while it is in its handler. -/
def State.streamSettled (s : State) (t : Thread) : Bool :=
  match (s.stream t).status with
  | .ready =>
    (t == .cox t.home && (s.ctx t.home).handling.isSome) ||
      (match s.fetch t with
        | (.ok, w, w2, _) =>
          s.due t w &&
            (match t with | .acc _ | .vec _ => !s.laneSkips t (laneH w) | _ => true) &&
            (match decode (Thread.map t) w w2 with
              | .ok i => s.wordWaits t i
              | .error _ => s.laneStalls t w)
        | _ => false)
  | _ => true

/-- The mxq is empty or stopped, or its head waits only on its wait token. -/
def Ctx.mxqSettled (c : Ctx) : Bool :=
  c.mx.isNone && !c.redoes && (match c.head with | none => true | some (m, _) => !m.began && !c.tokReady m)

def Ctx.cpqSettled (c : Ctx) : Bool :=
  c.cpStop || (match c.cpq with | [] => true | x :: _ => !c.waitReady x.tok)

/-- No engine thread of the job is live, other than a stopped command. -/
def State.enginesStopped (s : State) (h : Nat) : Bool :=
  let c := s.ctx h
  ((s.crew (crewOf h)).flights.all fun f => f.job != h || f.gen != c.gen) && c.mxTail.isEmpty &&
    (c.copies.all fun x => x.stopped || x.gen != c.gen) && c.grammar.load.isNone && c.blocks.all (·.filled)

/-- The job of context h has settled (R368) (DEDUCED, assumption log 40). -/
def State.settled (s : State) (h : Nat) : Bool :=
  s.streamSettled (.cox h) && s.streamSettled (.acc h) && s.streamSettled (.vec h) &&
    ((List.range 4).all fun k => s.streamSettled (.spore h k)) && (s.ctx h).mxqSettled && (s.ctx h).cpqSettled &&
    s.enginesStopped h

/-! ## The cut (R368, R370) -/

/-- A record of context h that still has no cut. -/
def Record.uncut (r : Record) (h : Nat) : Bool := r.home == h && !r.cutv && !r.noCut

/-- The record with its cut; a job that is gone has left no counts (DEDUCED, assumption log 40). -/
def Record.sample (r : Record) (c : Ctx) (set : Bool) : Record :=
  let mine := c.gen == r.gen
  { r with cut := if mine then c.cut else [], tok := if mine then c.tokWords else [], cutv := true, set := set }

/-- Every record of home h that `which` names takes its cut. -/
def State.sampleWhere (s : State) (h : Nat) (set : Bool) (which : Record → Bool) : State :=
  let c := s.ctx h
  let f := fun (r : Record) => if r.uncut h && which r then r.sample c set else r
  let s1 := if c.records.isEmpty && c.handling.isNone then s
    else s.setCtx h { c with records := c.records.map f, handling := c.handling.map f }
  { s1 with
    svcs := s1.svcs.map fun e => (e.1, { e.2 with intake := e.2.intake.map f })
    waitRecs := s1.waitRecs.map fun x => (x.1, f x.2) }

/-- A record of home h waits for its cut. -/
def State.hasUncut (s : State) (h : Nat) : Bool :=
  (s.ctx h).records.any (·.uncut h) || (s.ctx h).handling.any (·.uncut h) ||
    s.svcs.any (fun e => e.2.intake.any (·.uncut h)) || s.waitRecs.any fun x => x.2.uncut h

/-- The records of job h whose settle cycle has come take their cuts with SET = 1 (DEDUCED, assumption log 40). -/
def State.cutSettled (s : State) (h : Nat) : State :=
  if s.hasUncut h && s.settled h then s.sampleWhere h true fun _ => true else s

/-- The records of job h for which none has come 65,536 cycles of its clock after their stop take them with SET = 0;
those of a job that is gone have none to wait for (R368, R394) (DEDUCED, assumption log 40). -/
def State.cutLate (s : State) (h : Nat) : State :=
  if s.hasUncut h then s.sampleWhere h false fun r => decide (r.at_ + 65536 ≤ s.clockOf h) || r.gen != (s.ctx h).gen else s

/-- A cycle does not pass before the cuts that are due in it have been sampled. -/
def State.cutCycle (s : State) : State := s.ctxs.foldl (fun x e => (x.cutSettled e.1).cutLate e.1) s

/-- Event CUT_SAMPLE: the settle cycle of job j. -/
def execCutSample (j : Nat) (s : State) : Out := .next (s.cutSettled j)

/-- Event CUT_TIMEOUT: 65,536 cycles after a stop of job j, in which no settle cycle has come. -/
def execCutTimeout (j : Nat) (s : State) : Out := .next ((s.cutSettled j).cutLate j)

/-! ## Deliveries as events (R373, R377) -/

/-- Event HANDLER_DELIVERY: the first undelivered user record of job j is delivered at an issue boundary of its cox,
which uses the cox's turn of this cycle. -/
def execHandlerDelivery (j : Nat) (s : State) : Out :=
  if s.mayRun (.cox j) then
    match s.deliverable j with
    | some r => .next (((s.startTurn (.cox j)).land (.cox j)).deliver j r)
    | none => .next s
  else .next s

/-- Event SERVICE_TRAP: service core n takes its trap at an issue boundary, which uses its turn of this cycle. -/
def execServiceTrap (n : Nat) (s : State) : Out :=
  if s.mayRun (.svc n) && s.trapReady n then .next (((s.startTurn (.svc n)).land (.svc n)).trap n) else .next s

/-- A write of SCRSn restarts a core that is halted in its handler, at handler address v; it takes its trap at once, in a
cycle in which it issues no word (R377). -/
def State.restartSvc (s : State) (n : Nat) (v : Word) : State :=
  if (s.cox (.svc n)).run.status = .crashed then
    let s1 := s.setSvc n { s.svc n with svec := v &&& ~~~ 7, sin := false }
    ((s1.setStatus (.svc n) .ready).startTurn (.svc n)).trap n
  else s

/-- Event SERVICE_CORE_RESTART: a service core writes v into SCRSn. -/
def execServiceCoreRestart (n : Nat) (v : Word) (s : State) : Out := .next (s.restartSvc n v)

/-! ## Storage errors (R388, R389, Table 16.10) -/

/-- The bound entry of a crew that covers slot k. -/
def Crew.coverer (c : Crew) (k : Nat) : Option Nat :=
  (List.range 16).find? fun j => eBound (c.entry j) && decide (j ≤ k ∧ k < j + eSlots (c.entry j))

/-- An error in a plane slot or its directory entry: the rows in flight that have met it drain with IEV, and the eviction of
the plane is requested as a forced eviction is: it takes the next entry cycle (R134) (DESIGN CHOICE, assumption log 82). -/
def State.planeError (s : State) (c k : Nat) : State :=
  let x := s.crew c
  match (if k = 16 then some 16 else x.coverer k) with
  | some j =>
    let r : FevReq := { at_ := s.crewNow c, why := .error j }
    s.setCrew c { x with
      flights := x.flights.map fun f => if f.slot = some j then { f with iev := true } else f
      fevs := if x.fevs.any fun q => q.why == .error j then x.fevs else x.fevs ++ [r] }
  | none => s

/-- The streams of home j that have registers: a service core's own, or those of a job. -/
def State.regStreams (s : State) (j : Nat) : List Thread :=
  if 1024 ≤ j then [.svc (j - 1024)] else
  [.cox j, .acc j, .vec j] ++
    ((List.range 4).map (Thread.spore j)).filter fun t => (s.stream t).status != .off

/-- An error in a register of home j. In a job's its record goes to the supervisor, and the job is killed; which
stream's register it was is the device's choice. A service core takes it as a fault of its own (R377) (DESIGN CHOICE,
assumption log 82). -/
def State.regError (s : State) (j : Nat) : State :=
  if 1024 ≤ j then
    (if j < 1032 ∧ (s.stream (.svc (j - 1024))).status ≠ .off then s.svcFault (j - 1024) { cls := 18, sub := 4 } 0 0 false else s)
  else if ¬ s.running j then s
  else
    let c : Cause := { cls := 18, sub := 4 }
    let (k, s1) := s.pick (s.regStreams j).length
    let t := (s.regStreams j).getD k (.cox j)
    let r := s1.mkRecord j (unitOf t) c (s1.stream t).pc 0 0
    ((s1.setStatus t .stopped).postRecord c r).killJob j 5 c

/-- Entry i of the mailbox is poisoned (R388). -/
def Ctx.mailError (c : Ctx) (i : Nat) : Ctx :=
  { c with mailbox := c.mailbox.zipIdx.map fun m => if m.2 = i then { m.1 with bad := true } else m.1 }

/-- The entries that queue q of a job holds; q counts as W4 to W9 do, and 12 is the mailbox (Table 8.9). -/
def Ctx.queueLength (c : Ctx) (q : Nat) : Nat :=
  if q = 0 then c.cqv.length else if q = 1 then c.cqa.length else if q < 6 then (c.lq.get (q - 2) []).length
  else if q < 8 then (c.sq.get (q - 6) []).length else if q = 8 then c.rq.length else if q = 9 then c.fq.length
  else if q = 10 then c.mxq.length + c.mx.toList.length else if q = 11 then c.cpq.length else c.mailbox.length

/-- Event UNCORRECTABLE_ERROR: an uncorrectable storage error strikes (DESIGN CHOICE, assumption log 43). -/
def execUncorrectableError (u : ErrAt) (s : State) : Out :=
  let add := fun (n : Nat) => Host.Outcome.next (if s.poison.contains n then s else { s with poison := s.poison ++ [n] })
  match u with
  | .piece n =>
    if n < 2 ^ 36 then
      let s1 := s.landPiece n
      .next { s1 with poison := if s1.poison.contains n then s1.poison else s1.poison ++ [n] }
    else .next s
  | .scratch g n => if g < 256 ∧ n < 2 ^ 17 then add (spadPiece g (16 * n)) else .next s
  | .tile g r e => if g < 256 ∧ r < 256 ∧ e < 256 then add (tilePiece g r e) else .next s
  | .queue j q i =>
    if ¬ (q ≤ 12 ∧ i < (s.ctx j).queueLength q) then .next s
    else if q = 12 then .next (s.setCtx j ((s.ctx j).mailError i))
    else add (queuePiece j q (((s.ctx j).pops.get q 0).toNat + i))
  | .regs j => .next (s.regError j)
  | .plane c k => .next (s.planeError c k)

/-- Event CORRECTED_ERROR: a correction in a unit (a crew, or 0xFF) is counted. -/
def execCorrectedError (u : Nat) (s : State) : Out :=
  .next { s with corrected := s.corrected.set u (s.corrected.get u 0 + 1) }

/-- Event CORRECTION_REPORT: a unit's count is reported, once per millisecond at most. `corrAt` holds the cycle from which the
next report may be made. -/
def execCorrectionReport (u : Nat) (s : State) : Out :=
  let n := s.corrected.get u 0
  if n = 0 ∨ s.now < s.corrAt.get u 0 then .next s
  else
    let s1 := { s with corrected := s.corrected.set u 0, corrAt := s.corrAt.set u (s.now + s.ms) }
    .next (s1.logEvent 1 0 u [BitVec.ofNat 64 n, 0, 0, 0])

end Sys2Proof.Machine
end

