-- ==== Sys2Proof/Machine/HostMode.lean ====
section
/-! DEFINITION. Machine/HostMode.lean: the return of host-assisted functions to hardware mode, and the registers of the
host agent (R7, R32 to R36, R412, R413, Tables 1.7 and 20.3). -/

namespace Sys2Proof.Machine

/-- The fill that request `id` has forwarded is made by the hardware. -/
def Copy.toFilling (id : Nat) (x : Copy) : Copy :=
  if x.phase = .host id then { x with phase := .filling } else x

/-- One outstanding request starts again in hardware mode (R35, step 2): a walk at the die's walker, a tile of the known
answers, a free one, in the next idle slot (DESIGN CHOICE, assumption log 20). -/
def State.restartReq (s : State) (r : HostReq) : State :=
  match r.work with
  | .walk d _ _ =>
    s.setDie d { s.die d with walks := (s.die d).walks.map fun w => if w.host = some r.id then { w with host := none } else w }
  | .packet p q => s.setQueue p q { s.queue p q with parse := .idle, got := [] }
  | .fill h _ => s.setCtx h { s.ctx h with copies := (s.ctx h).copies.map (Copy.toFilling r.id) }
  | .nvme _ _ => s
  | .alloc =>
    { s with clQueue := s.clQueue.map fun x => if x.host = some r.id then { x with host := none, fwd := false } else x }
  | .miss x => if s.jobAlive x then s.postRecord { cls := x.cls, sub := x.sub } x else s
  | .tile c => let (k, s1) := s.pick 64; s1.runTile c k
  | .trigger c => if (s.crew c).binState = 0 then s.binStart c false else s
  | .log words => s.storeLog (words.getD 1 0).toNat words
  | .record _ => s

/-- Selector misses that wait for the drain of the rows before them are the handlers' again. -/
def State.missesBack (s : State) : State :=
  { s with ctxs := s.ctxs.map fun e => (e.1, { e.2 with held := e.2.held.map fun x => { x with host := false } }) }

/-- Coolant requests that wait for their turn and have not been forwarded yet are the allocator's again. -/
def State.requestsBack (s : State) : State :=
  { s with clQueue := s.clQueue.map fun x => if x.host.isNone ∧ x.ok.isNone then { x with fwd := false } else x }

/-- The functions among `fns` return to hardware mode, as one step; a record of kind 10 is written (R35)
(DESIGN CHOICE, assumption log 19). -/
def State.fallback (s : State) (fns : List Nat) : State :=
  if fns.isEmpty then s
  else
    let hams := fns.foldl (fun w i => withField (withField w i 1 0) (8 + i) 1 1) s.hams
    let was := fns.foldl (fun (w : BitVec 7) i => w &&& ~~~ BitVec.ofNat 7 (2 ^ i)) s.hamsWas
    let mine := fun r : HostReq => fns.contains r.fn.toNat
    let s0 := { s with hams := hams, hamsWas := was, hostReqs := s.hostReqs.filter fun r => !mine r }
    let s1 := if fns.contains 3 then s0.requestsBack else s0
    let s2 := if fns.contains 4 then s1.missesBack else s1
    ((s.hostReqs.filter mine).foldl State.restartReq s2).logEvent 10 0 0xFF [0, 0, 0, 0]

/-- The host-assisted functions. -/
def State.assistedFns (s : State) : List Nat := (List.range 7).filter fun i => fieldOf s.hams i 1 == 1

/-- HLUP falls: every host-assisted function returns to hardware mode (R35, R413). -/
def State.linkLost (s : State) : State :=
  if s.hlup then { s with hagt := withField s.hagt 63 1 0, hamsWas := 0 }.fallback s.assistedFns else s

/-- A write of HAMS: a function is given to the host only while HLUP = 1; REV bits are cleared by ones. A request that
starts in the cycle of the write takes the mode before it (R32 to R34). -/
def State.writeHams (s : State) (v : Word) : State :=
  let mode := if s.hlup then fieldOf v 0 7 else 0
  let rev := withField 0 8 7 (fieldOf (s.hams &&& ~~~ v) 8 7)
  let was := if s.hamsAt = s.now + 1 then s.hamsWas else BitVec.ofNat 7 (fieldOf s.hams 0 7)
  { s with hams := rev ||| BitVec.ofNat 64 mode, hamsAt := s.now + 1, hamsWas := was }

/-- Whether Ethernet port n, of the two of die n / 2, is up. -/
def State.setPort (s : State) (n : Nat) (up : Bool) : State :=
  let x := s.die (n / 2)
  let bit := BitVec.ofNat 2 (2 ^ (n % 2))
  s.setDie (n / 2) { x with ports := if up then x.ports ||| bit else x.ports &&& ~~~ bit }

/-- A write of HAGT: PATH names a link; HLUP rises when it names one that is up, and falls when it names none. Whether an
Ethernet port is up is not the package's: a free value, which the port keeps (R413; DESIGN CHOICE, assumption log 25). -/
def State.writeHagt (s : State) (v : Word) : State :=
  let path := fieldOf v 48 2
  let w := mergeBits s.hagt 0x0003_E3FF_FFFF_FFFF v
  let (k, s0) := if path = 2 then s.pick 2 else (0, s)
  let s1 := if path = 2 then s0.setPort (fieldOf v 45 3) (k == 1) else s0
  let up := (path = 1 ∧ s.linkUp) ∨ (path = 2 ∧ k = 1)
  if up then { s1 with hagt := withField w 63 1 1 } else { s1 with hagt := w }.linkLost

/-- Event HAMS_WRITE: service core n writes `v` into HAMS. -/
def execHamsWrite (_n : Nat) (v : Word) (s : State) : Out := .next (s.writeHams v)

/-- Event HAGT_WRITE: a service core writes `v` into HAGT. -/
def execHagtWrite (v : Word) (s : State) : Out := .next (s.writeHagt v)

/-- Event HOST_TIMEOUT: a request of function `fn` has had no completion for 100 ms (R35). -/
def execHostTimeout (fn : BitVec 3) (s : State) : Out :=
  if s.hostReqs.any fun r => r.fn == fn && decide (fn.toNat < 7 ∧ r.at_ + 100 * s.ms ≤ s.now) then
    .next (s.fallback [fn.toNat])
  else .next s

/-- Event HOST_LINK_DOWN: the link that PATH names goes down (R35, R413). -/
def execHostLinkDown (s : State) : Out :=
  .next (if fieldOf s.hagt 48 2 = 1 then { s with linkUp := false }.linkLost
    else if fieldOf s.hagt 48 2 = 2 then (s.setPort (fieldOf s.hagt 45 3) false).linkLost
    else s.linkLost)

/-- Event PCIE_LINK_CHANGE: the PCIe link goes up or down; an agent on it is lost with it (R412, R413). An NVQ that has been
submitted waits for its completion still (DESIGN CHOICE, assumption log 111). -/
def execPcieLinkChange (up : Bool) (s : State) : Out :=
  let s1 := { s with linkUp := up }
  .next (if ¬ up ∧ fieldOf s.hagt 48 2 = 1 then s1.linkLost else s1)

end Sys2Proof.Machine
end

