-- ==== Sys2Proof/Machine/SysRegs.lean ====
section
/-! DEFINITION. Machine/SysRegs.lean: the system registers, their numbers and access codes, and what RDSYS and WRSYS do with
each (R12, R13, R381, Table 16.6). -/

namespace Sys2Proof.Machine

/-- A system register of Table 16.6; p numbers a partition, q a queue, z a zone, c a crew. -/
inductive SysReg where
  | act | mxst | cstk | cpst | lhz | epc | hst
  | slt (w : Nat)
  | fotb | hams | hagt
  | pd0 (p : Nat)
  | pd1 (p : Nat)
  | pd2 (p : Nat)
  | pd3 (p : Nat)
  | wpr (i : Nat)
  | wpra (i : Nat)
  | kst (i : Nat)
  | svec | sepc | fact | fqs
  | scrs (n : Nat)
  | fev (c : Nat)
  | fdst (n : Nat)
  | bin (c : Nat)
  | evl0 | evl1
  | dwin (i : Nat)
  | nvqr (p j : Nat)
  | clst | clpk
  | clq (p : Nat)
  | cata (z : Nat)
  | catb (z : Nat)
  | rtd0 (p : Nat)
  | rtd1 (p : Nat)
  | wqd0 (p q : Nat)
  | wqd1 (p q : Nat)
deriving DecidableEq, Repr

/-- The register that a number below 0x100 names. -/
def sysRegLow (n : Nat) : Option SysReg :=
  match n with
  | 0x40 => some .act
  | 0x41 => some .mxst
  | 0x42 => some .cstk
  | 0x43 => some .cpst
  | 0x44 => some .lhz
  | 0x45 => some .epc
  | 0x46 => some .hst
  | 0x50 => some (.slt 0)
  | 0x51 => some (.slt 1)
  | 0x52 => some (.slt 2)
  | 0x53 => some (.slt 3)
  | 0x54 => some .fotb
  | 0x55 => some .hams
  | 0x56 => some .hagt
  | _ => none

/-- PD0 to PD3 of partition p. -/
def sysRegPd (p k : Nat) : SysReg :=
  match k with
  | 0 => .pd0 p
  | 1 => .pd1 p
  | 2 => .pd2 p
  | _ => .pd3 p

/-- A service core's own registers and the restart registers, 0x280 to 0x2BF. -/
def sysRegSvc (n : Nat) : Option SysReg :=
  if n < 0x288 then some (.kst (n - 0x280))
  else if n = 0x2A0 then some .svec
  else if n = 0x2A1 then some .sepc
  else if n = 0x2A2 then some .fact
  else if n = 0x2A3 then some .fqs
  else if 0x2B0 ≤ n ∧ n < 0x2B8 then some (.scrs (n - 0x2B0))
  else none

/-- The register that a number names (Table 16.6). -/
def SysReg.of (n : Nat) : Option SysReg :=
  if n < 0x100 then sysRegLow n
  else if n < 0x200 then some (sysRegPd ((n - 0x100) / 4) (n % 4))
  else if n < 0x240 then some (.wpr (n - 0x200))
  else if n < 0x280 then some (.wpra (n - 0x240))
  else if n < 0x2C0 then sysRegSvc n
  else if n < 0x300 then some (.fev (n - 0x2C0))
  else if n < 0x341 then some (.fdst (n - 0x300))
  else if 0x380 ≤ n ∧ n < 0x3C0 then some (.bin (n - 0x380))
  else if n = 0x3C0 then some .evl0
  else if n = 0x3C1 then some .evl1
  else if 0x400 ≤ n ∧ n < 0x480 then some (.dwin (n - 0x400))
  else if 0x480 ≤ n ∧ n < 0x580 then some (.nvqr ((n - 0x480) / 4) (n % 4))
  else if n = 0x5BE then some .clst
  else if n = 0x5BF then some .clpk
  else if 0x5C0 ≤ n ∧ n < 0x600 then some (.clq (n - 0x5C0))
  else if 0x600 ≤ n ∧ n < 0x700 then some (if n % 2 = 0 then .cata ((n - 0x600) / 2) else .catb ((n - 0x600) / 2))
  else if 0x700 ≤ n ∧ n < 0x780 then some (if n % 2 = 0 then .rtd0 ((n - 0x700) / 2) else .rtd1 ((n - 0x700) / 2))
  else if 0x800 ≤ n ∧ n < 0x1000 then
    some (if n % 2 = 0 then .wqd0 ((n - 0x800) / 32) (n / 2 % 16) else .wqd1 ((n - 0x800) / 32) (n / 2 % 16))
  else none

/-- A register of a job context. -/
def SysReg.ofJob (r : SysReg) : Bool :=
  match r with
  | .act | .mxst | .cstk | .cpst | .lhz | .epc | .hst => true
  | _ => false

/-- The class of the fault of an access of register `n` by a thread: 0 for none, 1 or 3 (R381). -/
def sysGate (t : Thread) (n : Nat) : Nat :=
  match SysReg.of n with
  | none => 1
  | some r =>
    if t.isSvc then (if r.ofJob && r != .cpst then 1 else 0)
    else if r.ofJob then 0 else 3

/-- The service core that a thread is; 0 for a job's. -/
def Thread.svcNo : Thread → Nat
  | .svc n => n
  | _ => 0

/-! ## Reads -/

/-- SLTw of a core (Table 8.7). -/
def CoreSt.slt (c : CoreSt) (w : Nat) : Word :=
  BitVec.ofNat 64 ((List.range 16).foldl (fun a i =>
    let e := c.slots.get (16 * w + i) 0
    a + (if e = 0 then 0 else (8 + (e - 1) % 4) * 2 ^ (4 * i))) 0)

/-- LHZ counts events of the coherence mechanism, which nothing else shows: how many there were since the last read is a
free value. Each count stops at 2^32 − 1 (R278). -/
def State.readLhz (s : State) (h : Nat) : Word × State :=
  let (a, s1) := s.pick (2 ^ 32)
  let (b, s2) := s1.pick (2 ^ 32)
  let old := (s.ctx h).lhz
  let stop := fun n => Nat.min (2 ^ 32 - 1) n
  let w := BitVec.ofNat 64 (stop (fieldOf old 32 32 + a) * 2 ^ 32 + stop (fieldOf old 0 32 + b))
  (w, s2.setCtx h { s2.ctx h with lhz := w })

/-- FQS of service core n (Table 16.4). -/
def Service.fqs (x : Service) : Word := BitVec.ofNat 64 (x.intake.length % 32 * 2 ^ 8 + (if x.sin then 1 else 0))

/-- What RDSYS of a register reads for thread t; a write-only field reads as zero. The slot tables belong to the cores,
and a service core reads one of them, the spec does not say which: a free choice (DESIGN CHOICE, assumption log 46). -/
def State.sysRead (s : State) (t : Thread) (r : SysReg) : Word × State :=
  let c := s.ctx t.home
  let v := s.svc (Thread.svcNo t)
  match r with
  | .act => (c.act, s)
  | .mxst => (c.mxst, s)
  | .cstk => (c.cstk, s)
  | .cpst => (c.cpst, s)
  | .lhz => s.readLhz t.home
  | .epc => (c.epc, s)
  | .hst => (c.hst, s)
  | .slt w => let (g, s1) := s.pick 256; ((s.core g).slt w, s1)
  | .fotb => (s.fotb, s)
  | .hams => (withField s.hams 63 1 (if s.hlup then 1 else 0), s)
  | .hagt => (s.hagt, s)
  | .pd0 p => ((s.part p).pd0, s)
  | .pd1 p => ((s.part p).pd1, s)
  | .pd2 _ => (0, s)
  | .pd3 _ => (0, s)
  | .wpr i => ((s.slice i).wpr, s)
  | .wpra i => ((s.slice i).wpra, s)
  | .kst _ => (0, s)
  | .svec => (v.svec, s)
  | .sepc => (v.sepc, s)
  | .fact => (0, s)
  | .fqs => (v.fqs, s)
  | .scrs _ => (0, s)
  | .fev k => ((s.crew k).fev, s)
  | .fdst n => (((s.fdst.get n 0).setWidth 64), s)
  | .bin k => ((s.crew k).bin, s)
  | .evl0 => (s.evl0, s)
  | .evl1 => (s.evl1, s)
  | .dwin i => (s.dwin.get i 0, s)
  | .nvqr p j => ((s.part p).nvq.get j 0, s)
  | .clst => (v.clst, s)
  | .clpk => (BitVec.ofNat 64 s.freeQuanta, s)
  | .clq p => (BitVec.ofNat 64 (s.held p % 512 * 2 ^ 16 + s.quota p), s)
  | .cata z => ((s.zone z).cata, s)
  | .catb z => ((s.zone z).catb, s)
  | .rtd0 p => ((s.part p).rtd0, s)
  | .rtd1 p => ((s.part p).rtd1, s)
  | .wqd0 p q => ((s.queue p q).d0, s)
  | .wqd1 p q => ((s.queue p q).d1, s)

/-! ## Writes -/

/-- VEC is at JOIN, or stalled at a word that pops cqv while cqv is empty, be it one that is illegal (R59, R152). -/
def State.vecAtCall (s : State) (j : Nat) : Bool :=
  let t := Thread.vec j
  (s.vec j).run.status == .joined ||
    ((s.vec j).run.status == .ready && (s.ctx j).cqv.isEmpty &&
      (match s.fetch t with
        | (.ok, w, w2, _) =>
          s.due t w && !s.laneSkips t (laneH w) &&
            (match decode (Thread.map t) w w2 with
              | .ok (.vloop _ _ _ _) | .ok (.varm _ _ _) | .ok (.vmsk _ _) => true
              | .ok i => (vecOps i).1.any Spec.isCqv
              | .error _ => (vecNames w).1.any Spec.isCqv)
        | _ => false))

/-- A write of ACT, or `none` while it has to wait for VEC. A change of W16 empties the compaction buffer and clears LPOV
(R152). -/
def State.writeAct (s : State) (j : Nat) (v : Word) : Option State :=
  let c := s.ctx j
  if v &&& 1 = c.act then some s
  else if s.vecAtCall j then some (s.setCtx j { c with act := v &&& 1, comp := [], lpov := 0 })
  else none

/-- The bit that the mask clears when a 1 is written (W1C). -/
def clearByOnes (w mask v : Word) : Word := w &&& ~~~ (mask &&& v)

/-- Register j of a partition's NVMe pairs. -/
def State.writeNvqr (s : State) (p j : Nat) (v : Word) : State :=
  s.setPart p { s.part p with nvq := (s.part p).nvq.set j (v &&& 0x8FFF_FFFF_0000_0000) }

/-- What WRSYS of `v` into a register by thread t does, or `none` while the write has to wait. A write of a read-only
register has no effect (R12). -/
def State.sysWrite (s : State) (t : Thread) (r : SysReg) (v : Word) : Option State :=
  let h := t.home
  let c := s.ctx h
  let n := Thread.svcNo t
  let x := s.svc n
  match r with
  | .act => s.writeAct h v
  | .mxst => some (s.setCtx h { c with mxst := clearByOnes c.mxst 0x100 v })
  | .cstk => some (s.setCtx h { c with cstk := mergeBits c.cstk 0x0000_FFFF_FFFF_FFC0 v })
  | .cpst => some (s.setCtx h { c with cpst := clearByOnes c.cpst 0x100 v })
  | .lhz | .hst | .slt _ | .fqs | .clst | .clpk | .wqd1 _ _ => some s
  | .epc => some (s.setCtx h { c with epc := v &&& ~~~ 7 })
  | .fotb =>
    let s1 := { s with fotb := v &&& 0xFF_FFFF_F000 }
    some (s1.rekey s (s.ownedFrames ++ s1.ownedFrames).eraseDups)
  | .hams => some (s.writeHams v)
  | .hagt => some (s.writeHagt v)
  | .pd0 p => some (s.writePd0 p v)
  | .pd1 p => some (s.writePd1 p v)
  | .pd2 p => some (s.writePd2 n p v)
  | .pd3 p => s.writePd3 p v
  | .wpr i => some (s.writeWpr i v)
  | .wpra i => some (s.setSlice i { s.slice i with wpra := v &&& 0xFF_FFFF_FFF8 })
  | .kst i => some (s.setSvc n { x with kst := x.kst.set i v })
  | .svec => some (s.setSvc n { x with svec := v &&& ~~~ 7 })
  | .sepc => some (s.setSvc n { x with sepc := v &&& ~~~ 7 })
  | .fact => some (s.setSvc n { x with fact := v &&& 3 })
  | .scrs k => some (s.restartSvc k v)
  | .fev k => let (done, s1) := s.fevWrite n k v; if done then some s1 else none
  | .fdst k => some { s with fdst := s.fdst.set k (v.setWidth 3) }
  | .bin k => some (s.binCmd k (fieldOf v 8 4))
  | .evl0 => some { s with evl0 := v &&& 0xFF_FFFF_F000 }
  | .evl1 => some { s with evl1 := mergeBits s.evl1 0xF v }
  | .dwin i => some { s with dwin := s.dwin.set i (v &&& 0xFFFF_3F3F_C000_0000) }
  | .nvqr p j => some (s.writeNvqr p j v)
  | .clq p => some (s.setPart p { s.part p with quota := v.setWidth 9 })
  | .cata z => if s.catOpen then some (s.writeCata z v) else none
  | .catb z => if s.catOpen then some (s.writeCatb z v) else none
  | .rtd0 p => some (s.setPart p { s.part p with rtd0 := v &&& ~~~ 0xFFF })
  | .rtd1 p => some (s.setPart p { s.part p with rtd1 := v &&& 0x1FFFF })
  | .wqd0 p q => if fieldOf v 0 3 = 2 ∧ s.nodePassed p q then none else some (s.writeWqd0 p q v)

/-- The state while a write waits: a forced eviction has been requested (R134, R364). -/
def State.sysWait (s : State) (t : Thread) (r : SysReg) (v : Word) : State :=
  match r with
  | .fev k => (s.fevWrite (Thread.svcNo t) k v).2
  | _ => s

/-! ## The words -/

/-- A word whose operands decide a fault of class 1 or 3 before its predicate is looked at (R60, R61); `gate` gives the
class, 0 for none. -/
def gatedForm (s : State) (h : CoxH) (regs : List SReg) (gate : Thread → Nat) (body : Thread → Out) : Out :=
  let t := s.cur
  if ¬ Form.any.legal t regs ∨ gate t = 1 then .next (s.fault t illegal 0)
  else if gate t = 3 then .next (s.fault t privileged 0)
  else if ((s.cox t).pred h.bl.toNat h.pred).1 then body t
  else .next (s.next t)

/-- RDSYS reads a system register. -/
def execRdsys (h : CoxH) (d : SReg) (n : BitVec 12) (s : State) : Out :=
  gatedForm s h [d] (fun t => sysGate t n.toNat) fun t =>
    match SysReg.of n.toNat with
    | none => .next (s.next t)
    | some r =>
      let (v, s1) := s.sysRead t r
      .next ((s1.setReg t d v).next t)

/-- WRSYS writes a system register, once every earlier operation of its stream has performed. -/
def execWrsys (h : CoxH) (a : SReg) (n : BitVec 12) (s : State) : Out :=
  gatedForm s h [a] (fun t => sysGate t n.toNat) fun t =>
    if ¬ s.remoteDone t then .next s
    else
      match SysReg.of n.toNat with
      | none => .next (s.next t)
      | some r =>
        match s.sysWrite t r (s.reg t a) with
        | none => .next (s.sysWait t r (s.reg t a))
        | some s1 => .next (s1.next t)

/-- Event ACT_WRITE: a write of `v` into ACT of job j performs. -/
def execActWrite (j : Nat) (v : Word) (s : State) : Out :=
  match s.writeAct j v with
  | some s1 => .next s1
  | none => .next s

end Sys2Proof.Machine
end

