-- ==== Sys2Proof/Machine/CoxSystem.lean ====
section
/-! DEFINITION. Machine/CoxSystem.lean: the system and spore words of the cox, and the coolant words of the service cores
(R263 to R268, R378 to R386). -/

namespace Sys2Proof.Machine

/-! ## TWAIT (R244, R245) -/

/-- The head of the job's mxq, which waits on token k, can start now. -/
def State.mxTakes (s : State) (h k : Nat) : Bool :=
  match (s.crew (crewOf h)).lease, (s.ctx h).head with
  | some l, some (m, _) =>
    l.job == h && !m.began && !m.tookTok && m.cmd.tok.wait.toNat == k && !(s.ctx h).redoes && !l.over && s.startReady h m
  | _, _ => false

/-- Event COPY_COMMAND_START: the head command of context j starts, on the engine's turn: its token, its checks. A fault
of a list's head, a table or an NVMe entry, and a poisoned entry of the queue, come before the start and stop the cpq. It
comes behind the head of the mxq that takes the same token in this cycle (R245). -/
def execCopyCommandStart (j : Nat) (s : State) : Out :=
  if s.copyTurn (coreOf j) ≠ some j ∨ ¬ (s.ctx j).canStart then .next s
  else
    match (s.ctx j).cpq with
    | [] => .next s
    | cmd :: r =>
      if cmd.tok.wait ≠ 0 ∧ s.mxTakes j cmd.tok.wait.toNat then .next s
      else if s.headPoisoned j 11 then .next (s.copyRecord j cmd 0 poisonCause 0)
      else match s.startCopy j (Copy.start cmd (s.partOf j) (s.ctx j).gen) with
      | .chk (.bad c va) => .next (s.copyRecord j cmd 0 c va)
      | .chk (.forward va) => .next (s.forwardWalkFor j (s.partOf j) va)
      | .chk .ok => .next s
      | .run x s1 =>
        let c := (({ s1.ctx j with cpq := r }.takeWait cmd.tok).unfetch).bumpPop 11
        .next ((s1.setCtx j { c with copies := c.copies ++ [x] }).copyDone j)

/-- The head of the job's cpq, which waits on token k, can start now. -/
def State.cpTakes (s : State) (h k : Nat) : Bool :=
  let c := s.ctx h
  match c.cpq with
  | [] => false
  | x :: _ =>
    x.tok.wait.toNat == k && s.copyTurn (coreOf h) == some h && c.canStart &&
      (match s.startCopy h (Copy.start x (s.partOf h) c.gen) with | .run _ _ => true | _ => false)

/-- TWAIT takes n of token k once it holds them, after the engine commands that take of it in this cycle, and joins the engine
threads that have signalled it (DEDUCED, assumption log 102). -/
def execTwait (h : CoxH) (k : BitVec 4) (n : BitVec 16) (s : State) : Out :=
  coxForm s .any h [] fun t =>
    let c := s.ctx t.home
    if n = 0 then .next (s.next t)
    else if (c.token k.toNat).toNat < n.toNat ∨ (t.home < 1024 ∧ k ≠ 0 ∧ (s.mxTakes t.home k.toNat ∨ s.cpTakes t.home k.toNat))
    then .next s
    else .next ((s.setCtx t.home (((c.setToken k.toNat (c.token k.toNat - n)).unfetch).joinToken k.toNat)).next t)

/-! ## TRAP and ERET (R379, R380) -/

/-- TRAP raises class 10 with its code; the stream stops after the word. -/
def execTrap (h : CoxH) (code : BitVec 16) (s : State) : Out :=
  coxForm s .any h [] fun t =>
    .next ((s.fault t { cls := 10, sub := 0 } (code.setWidth 64)).issueTo t ((s.stream t).pc + 8))

/-- Retry of the head record by a service core: a pending counter add is made again, the record's stopped unit goes on at
its faulting word, row or piece; a record whose unit is stopped and that is not restartable kills the job. -/
def State.factRetry (s : State) (r : Record) : State :=
  if r.addPending then s.counterAdd r.part.toNat r.core r.ctx r.addr
  else if r.unit = .service then s.restartUnit r
  else if ¬ s.jobAlive r ∨ r.unit = .none then s
  else if r.rst then s.restartUnit r
  else s.killJob r.home 3 { cls := r.cls, sub := r.sub }

/-- Kill: the record's job is killed. -/
def State.factKill (s : State) (r : Record) : State :=
  if r.addPending ∨ r.unit = .service ∨ r.unit = .none ∨ ¬ s.jobAlive r then s
  else s.killJob r.home 3 { cls := r.cls, sub := r.sub }

/-- FACT.ACT on the head record. -/
def State.factAct (s : State) (act : Nat) (r : Record) : State :=
  if act = 1 then s.factRetry r else if act = 2 then s.factKill r else s

/-- ERET on service core n: the action, FACT cleared, the record removed, SIN ← 0, the core at SEPC. A record that waited at
its source can enter the intake. -/
def State.eretSvc (s : State) (n : Nat) : State :=
  let x := s.svc n
  let s1 := s.setSvc n { x with fact := 0, sin := false, intake := x.intake.tail }
  let s2 := (s1.issueTo (.svc n) x.sepc).fillIntake n
  match x.intake with
  | [] => s2
  | r :: _ => s2.factAct (fieldOf x.fact 0 2) r

/-- ERET of a job's handler; a record that is not restartable kills the job. -/
def State.eretJob (s : State) (t : Thread) (r : Record) : State :=
  let h := t.home
  if r.rst then
    let s1 := s.handlerReturn h r
    if t = .cox h then s1 else s1.next t
  else s.killJob h 4 { cls := r.cls, sub := r.sub }

/-- An ERET outside a handler is an illegal instruction. -/
def State.eretGate (s : State) (t : Thread) : Nat :=
  match t with
  | .svc n => if (s.svc n).sin then 0 else 1
  | t => if (s.ctx t.home).handling.isSome then 0 else 1

/-- DEDUCED, assumption log 47. -/
def execEret (h : CoxH) (s : State) : Out :=
  gatedForm s h [] s.eretGate fun t =>
    match t with
    | .svc n => .next (s.eretSvc n)
    | t =>
      match (s.ctx t.home).handling with
      | some r => .next (s.eretJob t r)
      | none => .next (s.next t)

/-! ## FLTRD, HALT, KILLJ (R382 to R384) -/

/-- The current record where a thread runs. -/
def State.currentRecord (s : State) (t : Thread) : Option Record :=
  match t with
  | .svc n => (s.svc n).intake.head?
  | t => (s.ctx t.home).handling

/-- FLTRD reads word w of the current record; words 4 to 13 wait for the cut. -/
def execFltrd (h : CoxH) (d : SReg) (w : BitVec 4) (s : State) : Out :=
  coxForm s .any h [d] fun t =>
    match s.currentRecord t with
    | none => .next ((s.setReg t d 0).next t)
    | some r =>
      if 4 ≤ w.toNat ∧ w.toNat ≤ 13 ∧ ¬ (r.cutv || r.noCut) then .next s
      else .next ((s.setReg t d (r.word (s.pendOf r) w.toNat)).next t)

/-- HALT stops a service core once every earlier operation has performed. -/
def execHalt (h : CoxH) (s : State) : Out :=
  coxForm s .svcOnly h [] fun t =>
    if ¬ s.remoteDone t then .next s else .next ((s.next t).setStatus t .halted)

/-- KILLJ kills the own job, or on a service core the job that the register names. -/
def execKillj (h : CoxH) (a : SReg) (s : State) : Out :=
  coxForm s .any h [a] fun t =>
    let v := s.reg t a
    match t with
    | .svc _ => .next ((s.killJob (fieldOf v 0 10) 3 noCause).next t)
    | t => if v ≠ 0 then .next (s.fault t privileged 0) else .next (s.killJob t.home 2 noCause)

/-! ## Spores (R220, R385, R386) -/

/-- Spores allocated to the job: SPORES of its record. -/
def Ctx.sporeCount (c : Ctx) : Nat := match c.job with | some j => j.nest.spores | none => 0

def SporeState.busy (x : SporeState) : Bool := x == .filling || x == .running

/-- SPARM waits for the spore it names, and for one that it would unbind. -/
def Ctx.sparmWaits (c : Ctx) (k g : Nat) : Bool :=
  (List.range 4).any fun i =>
    let sp := c.spore i
    sp.state.busy && (i == k || (g != 0 && sp.tag.toNat == g))

/-- The spores of the context after a SPARM of spore k with tag g. -/
def Ctx.sparm (c : Ctx) (k g : Nat) : Tab Spore :=
  let one := fun (i : Nat) =>
    let sp := c.spore i
    if i = k then
      (if g = 0 then { state := SporeState.idle, tag := 0 } else { state := SporeState.armed, tag := BitVec.ofNat 16 g })
    else if g ≠ 0 ∧ sp.state = .armed ∧ sp.tag.toNat = g then { state := SporeState.idle, tag := 0 }
    else sp
  (List.range 4).map fun i => (i, one i)

/-- SPARM arms a spore of the job under a tag. Its fault for a spore that the job has not been given is tested when the word's
predicate holds (DESIGN CHOICE, assumption log 96). -/
def execSparm (h : CoxH) (a : SReg) (s : State) : Out :=
  coxForm s .job h [a] fun t =>
    let c := s.ctx t.home
    let v := s.reg t a
    let k := fieldOf v 16 2
    let g := fieldOf v 0 16
    if c.sporeCount ≤ k then .next (s.fault t illegal 0)
    else if c.sparmWaits k g then .next s
    else .next ((s.setCtx t.home { c with spores := c.sparm k g }).next t)

/-- SPEND ends a spore's run: ARMED again under its tag, its registers discarded; the first message that waits for it is
accepted. The word has issued through the cox port in this cycle (R222). -/
def execSpend (h : CoxH) (s : State) : Out :=
  coxForm s .sporeOnly h [] fun t =>
    match t with
    | .spore j k =>
      if ¬ s.remoteDone t then .next s
      else
        let s1 := s.setCox t { Cox.reset with run := { Stream.reset with ran := (s.stream t).ran } }
        .next ((s1.setSpore j (k % 4) { (s1.ctx j).spore (k % 4) with state := .armed }).msgAccept j (k % 4))
    | t => .next (s.fault t illegal 0)

/-! ## Coolant (R263 to R268) -/

/-- A request of service core n reaches the allocator (R34). -/
def State.clRequest (s : State) (n : Nat) (k : Tok) (opnd : Word) (target : Byte) (rel : Bool) : ClReq :=
  { svc := n, at_ := s.now, tok := k, opnd := opnd, target := target, rel := rel, fwd := s.assisted 3, host := none,
    ok := none, done := false }

/-- CLREQ forks a request that joins the allocator's queue (DEDUCED, assumption log 49). -/
def execClreq (h : CoxH) (k : Tok) (a b : SReg) (s : State) : Out :=
  coxForm s .svcOnly h [a, b] fun t =>
    let c := s.ctx t.home
    if ¬ c.waitReady k then .next s
    else
      let r := s.clRequest (Thread.svcNo t) k (s.reg t a) ((s.reg t b).setWidth 8) false
      let s1 := s.setCtx t.home (c.takeWait k)
      .next ({ s1 with clQueue := joinQueue r s1.clQueue }.next t)

/-- The CLREL of service core n and operand v, in the allocator's queue. -/
def ClReq.isRel (n : Nat) (v : Word) (x : ClReq) : Bool := x.svc == n && x.rel && x.opnd == v

/-- The CLREL of service core n has performed, and its word passes. -/
def State.clrelPass (s : State) (n : Nat) (v : Word) (t : Thread) : State :=
  if s.clQueue.any fun x => ClReq.isRel n v x && x.done then
    { s with clQueue := s.clQueue.filter fun x => !ClReq.isRel n v x }.next t
  else s

/-- CLREL gives a zone back; it does not fork, and its word waits in the allocator's queue until it has performed there
(DEDUCED, assumption log 50). -/
def execClrel (h : CoxH) (a : SReg) (s : State) : Out :=
  coxForm s .svcOnly h [a] fun t =>
    let n := Thread.svcNo t
    let v := s.reg t a
    match s.clQueue.findIdx? (ClReq.isRel n v) with
    | none => .next { s with clQueue := joinQueue (s.clRequest n { wait := 0, sig := 0 } v 0 true) s.clQueue }
    | some i => .next ((s.clTurn i).clrelPass n v t)

/-- Sensor i of a sample (R267). -/
def sensorOf (x : Sample) (i : Nat) : Word :=
  match i with
  | 0 => x.inletTemp.signExtend 64
  | 1 => x.outletTemp.signExtend 64
  | 2 => x.flow.setWidth 64
  | 3 => x.pressure.setWidth 64
  | 4 => x.wetInner.setWidth 64
  | 5 => x.wetOuter.setWidth 64
  | 6 => x.inletValve.setWidth 64
  | _ => x.purgeValve.setWidth 64

/-- CLRD reads the latest sample of a sensor. -/
def execClrd (h : CoxH) (d a : SReg) (i : BitVec 3) (s : State) : Out :=
  coxForm s .svcOnly h [d, a] fun t =>
    .next ((s.setReg t d (sensorOf (s.zone (fieldOf (s.reg t a) 0 7)).sample i.toNat)).next t)

end Sys2Proof.Machine
end

