-- ==== Sys2Proof/Machine/Boot.lean ====
section
/-! DEFINITION. Machine/Boot.lean: completions of the host agent, reset, the boot from flash, the dies' tests and reduced
service (R34, R268, R413, R416 to R422). -/

namespace Sys2Proof.Machine

/-! ## Completions of the host agent (Table 1.8, R413) -/

/-- The host's answer to the walk of `page`: a translation, which the frame check still has to pass, or a fault cause,
which makes the access fail with cause 7 (Table 15.7). `v` gives the page as a page-table entry does, its size code in
bits [1:0] (PRESUMED, assumption log 15). -/
def State.hostTrans (s : State) (p page : Nat) (ok : Bool) (v : Word) : Except Cause Trans :=
  let a := page * 4096
  if ¬ ok then .error (xlateCause 7)
  else
    match pteTrans p a (fieldOf v 0 2) v with
    | .error c => .error c
    | .ok t =>
      let f := t.fragment a
      match s.frameCheck p (f.pa + (a - f.va)) with
      | .ok ra => .ok { f with pa := ra - (a - f.va) }
      | .error c => .error c

/-- The walk that request `id` has forwarded ends with the host's answer. Its partition makes no translation while EN is 0
(R347); the accesses are made again then. -/
def State.walkAnswer (s : State) (id d p page : Nat) (ok : Bool) (v : Word) : State :=
  let x := s.die d
  match x.walks.find? fun w => w.host == some id with
  | none => s
  | some w =>
    let s1 := s.setDie d { x with walks := x.walks.filter fun y => y.host != some id }
    if fieldOf (s.part p).pd0 63 1 = 0 then s1
    else
      match s1.hostTrans p page ok v with
      | .ok t => s1.walkEnds w (some t) none
      | .error c => s1.walkEnds w none (some c.sub)

/-- The host has moved, or has failed to move, the data of the fill that request `id` has forwarded; the bytes arrive piece by
piece as the hardware's do (DESIGN CHOICE, assumption log 18). -/
def Copy.hostFill (id : Nat) (ok : Bool) (x : Copy) : Copy :=
  if x.phase = .host id then { x with phase := .filling, st := if ok then x.st else 4 } else x

/-- The controller has read `v`[63:16] bytes (at most 2 MiB) with the NVMe status `v`[15:0]
(PRESUMED, assumption log 15). -/
def Copy.hostNvme (id : Nat) (v : Word) (x : Copy) : Copy :=
  if x.phase = .host id then
    let n := Nat.min (2 ^ 21) (fieldOf v 16 48)
    { x with phase := .moving, total := n, tail := [n, fieldOf v 0 16, natLE ((x.buf.drop 24).take 8)] }
  else x

/-- The selector miss that a record is about. -/
def Held.missOf (r : Record) (y : Held) : Bool := y.stop == some .miss && y.mx.cmd.seq % 2 ^ 16 == fieldOf r.w3 48 16

/-- A completion is applied to what its request asked (PRESUMED, assumption log 15). -/
def State.applyCompletion (s : State) (r : HostReq) (ok : Bool) (v : Word) : State :=
  match r.work with
  | .walk d p page => s.walkAnswer r.id d p page ok v
  | .packet p q => s.setQueue p q { s.queue p q with parse := .decoded }
  | .fill h _ => s.setCtx h { s.ctx h with copies := (s.ctx h).copies.map (Copy.hostFill r.id ok) }
  | .nvme h _ => s.setCtx h { s.ctx h with copies := (s.ctx h).copies.map (Copy.hostNvme r.id v) }
  | .alloc => s.clDecided r.id ok
  | .miss x => if s.jobAlive x then s.mxResume x.home (Held.missOf x) false else s
  | .tile c => if ok then s.runTile c (fieldOf v 0 6) else s
  | .trigger _ | .log _ | .record _ => s

/-- Event HOST_COMPLETION: the completion of request `id` arrives; one that names no outstanding request is discarded, and one
that comes when its 100 ms have passed finds the host unreachable (R35). -/
def execHostCompletion (id : Nat) (ok : Bool) (v : Word) (s : State) : Out :=
  match s.hostReqs.find? fun r => r.id == id with
  | none => .next s
  | some r =>
    if r.fn.toNat < 7 ∧ r.at_ + 100 * s.ms ≤ s.now then .next (s.fallback [r.fn.toNat])
    else .next ({ s with hostReqs := s.hostReqs.filter fun x => x.id != id }.applyCompletion r ok v)

/-! ## Reset (R416 step 1) -/

/-- The bytes of the on-package flash, which a reset does not change (DEDUCED, assumption log 14). -/
def flashOf (m : Memory) : Memory := m.filter fun c => decide (0x4040000000 ≤ c.1 ∧ c.1 < 0x4050000000)

/-- Event RESET: every register takes its reset value, and SC0 starts in the boot ROM. The flash, the state of the PCIe link
and what lies outside the package stay; Novfin's memory key is another (DESIGN CHOICE, assumption log 8; DEDUCED, assumption
log 14). -/
def execReset (s : State) : Out :=
  .next { State.reset with
    sched := s.sched, free := s.free, mem := flashOf s.mem, linkUp := s.linkUp, remote := s.remote,
    remoteFot := s.remoteFot, reach := s.reach, boots := s.boots + 1 }

/-! ## Image slots (R417, Table 20.5) -/

def slotBase (slot : Nat) : Nat := 0x4040000000 + slot % 2 * 0x8000000

def State.slotHeader (s : State) (slot : Nat) : List Byte := s.rawRead (slotBase slot) 128

/-- The 8-byte field at byte `i` of a header. -/
def headerField (l : List Byte) (i : Nat) : Nat := natLE ((l.drop i).take 8)

/-- Offset and length of image k: 0 stage 1, 1 stage 2, 2 Novfin, 3 the configuration record. -/
def imageOff (l : List Byte) (k : Nat) : Nat := headerField l (16 + 16 * k)
def imageLen (l : List Byte) (k : Nat) : Nat := headerField l (24 + 16 * k)

/-- Where an image's signatures stand: at the next 64-byte boundary after it. -/
def sigOff (l : List Byte) (k : Nat) : Nat := (imageOff l k + imageLen l k + 63) / 64 * 64

def rsaBytes : Nat := 384
def slhBytes : Nat := 16224

/-- A header is well formed. -/
def headerOk (l : List Byte) : Bool :=
  headerField l 0 == 0x475A0009 && ((l.drop 80).take 48).all (fun b => b == 0) &&
    (List.range 4).all fun k =>
      imageOff l k % 4096 == 0 && decide (sigOff l k + rsaBytes + slhBytes ≤ 0x8000000)

/-- Image k of a slot. -/
def State.image (s : State) (slot k : Nat) : List Byte :=
  let l := s.slotHeader slot
  s.rawRead (slotBase slot + imageOff l k) (imageLen l k)

/-- The signatures of image k verify, RSA-3072 and SLH-DSA each; each covers the header and the image
(PRESUMED, assumption log 10). -/
def State.imageOk (s : State) (slot k : Nat) : Bool :=
  let l := s.slotHeader slot
  let a := slotBase slot + sigOff l k
  let img := l ++ s.image slot k
  Config.rsaVerifies img (s.rawRead a rsaBytes) && Config.slhVerifies img (s.rawRead (a + rsaBytes) slhBytes)

/-! ## Boot (R416) -/

def State.candidate (s : State) (slot : Nat) : Bool := headerOk (s.slotHeader slot) && s.imageOk slot 0

def State.slotVersion (s : State) (slot : Nat) : Nat := headerField (s.slotHeader slot) 8

/-- The candidate with the larger VER, slot A on equal VER. -/
def State.bootSlot (s : State) : Option Nat :=
  if s.candidate 0 then
    if s.candidate 1 && decide (s.slotVersion 0 < s.slotVersion 1) then some 1 else some 0
  else if s.candidate 1 then some 1 else none

/-- A verification has failed: the boot stops, SC0 halts, and the boot status word tells the stage and the reason, in a
form that the spec does not give: a free value that is not zero (DESIGN CHOICE, assumption log 12). -/
def State.bootStops (s : State) : State :=
  let (k, s1) := s.pick (2 ^ 64 - 1)
  let s2 := s1.setStatus (.svc 0) .off
  { s2 with boot := { s2.boot with stage := 6, status := BitVec.ofNat 64 (k + 1) } }

/-- The chain after it is extended with the hash of an image (PRESUMED, assumption log 10). -/
def extendChain (c : BitVec 384) (img : List Byte) : BitVec 384 :=
  Config.sha384 (bytesLE 48 c.toNat ++ bytesLE 48 (Config.sha384 img).toNat)

/-- Service core n enters stage k (DEDUCED, assumption log 7; DESIGN CHOICE, assumption log 9). -/
def State.enterStage (s : State) (n k : Nat) : State :=
  s.setStream (.svc n) ((s.stream (.svc n)).restart (Config.stageEntry k))

def State.runStage (s : State) (k : Nat) : State := s.enterStage 0 k

/-- Image k (1 stage 2, 2 Novfin) has verified: it is measured (PRESUMED, assumption log 10). -/
def State.measure (s : State) (k next : Nat) : State :=
  { s with boot := { s.boot with stage := next, chain := extendChain s.boot.chain (s.image s.boot.slot k) } }

/-- The boot ROM picks a slot, measures its stage 1 and runs it (DEDUCED, assumption logs 7 and 11). -/
def State.bootRom (s : State) : State :=
  match s.bootSlot with
  | none => s.bootStops
  | some i =>
    let s1 := { s with boot := { s.boot with slot := i } }
    (s1.measure 0 2).runStage 1

/-! ### The configuration record (R418) -/

/-- What Novfin writes of the configuration record `l`: the device's own values, HAMS.MODE, FDST0 to FDST64, the zones' MIN,
MAX, OWNER, OWNV and limits (DESIGN CHOICE, assumption log 103). -/
def State.configure (s : State) (l : List Byte) : State :=
  let v := fun (n : Nat) => Config.recordWord n l
  let s1 := { s with
    boot := { s.boot with
      dev := (v 0).toNat % 2 ^ 15, domain := (v 1).toNat, katRate := (v 2).toNat, idKeys := Config.recordKeys l }
    fdst := (List.range 65).foldl (fun t i => t.set i ((v (4 + i)).setWidth 3)) s.fdst }
  let s2 := s1.writeHams (v 3)
  (List.range 128).foldl
    (fun x z => (x.writeCata z (v (69 + z) &&& 0x00FF_FF00_3F80_0000)).writeCatb z (v (197 + z))) s2

/-! ### Attestation (R419)

No event of the opcode table asks for a report: a report is a value that Novfin forms of the state (DESIGN CHOICE, assumption
log 123). -/

/-- What an attestation report holds: the measurement chain, the hash of the configuration record, DEV, the requester's nonce
of 32 bytes, and the key and seed status of each partition. -/
structure Report where
  chain : BitVec 384
  record : BitVec 384
  dev : Nat
  nonce : BitVec 256
  parts : List (Bool × Bool)
deriving DecidableEq, Repr

/-- A report with its two signatures. -/
structure SignedReport where
  report : Report
  rsa : List Byte
  slh : List Byte
deriving DecidableEq, Repr

def Report.bytes (r : Report) : List Byte := Config.reportBytes r.chain r.record r.dev r.nonce r.parts

/-- The report of the state for a requester's nonce. -/
def State.report (s : State) (nonce : BitVec 256) : Report :=
  { chain := s.boot.chain, record := Config.sha384 (s.image s.boot.slot 3), dev := s.boot.dev, nonce := nonce
    parts := (List.range 64).map fun p => ((s.part p).keyv, (s.part p).seedv) }

/-- The report, signed with the device's two identity keys. -/
def State.attest (s : State) (nonce : BitVec 256) : SignedReport :=
  let r := s.report nonce
  { report := r, rsa := Config.idRsaSign r.bytes, slh := Config.idSlhSign r.bytes }

/-- A verifier with the identity public keys `keys` accepts a report only when both signatures verify. -/
def SignedReport.accepted (x : SignedReport) (keys : List Byte) : Bool :=
  Config.idRsaVerifies keys x.report.bytes x.rsa && Config.idSlhVerifies keys x.report.bytes x.slh

/-! ## Tests of the dies (R420 to R422) -/

/-- Die d, which has passed test, joins the service under Novfin: its two service cores run Novfin, and its zones are refilled
(R18, R420, R422) (DEDUCED, assumption log 13). -/
def State.joinService (s : State) (d : Nat) : State :=
  let start := fun (x : State) (n : Nat) => if (x.stream (.svc n)).status = .off then x.enterStage n 3 else x
  let s1 := start (start s (2 * d)) (2 * d + 1)
  (List.range 32).foldl (fun x i => x.refill (32 * d + i)) s1

/-- Novfin runs: it writes the configuration record's values, and the dies that have passed join the service. -/
def State.novfin (s : State) : State :=
  let s1 := { s with boot := { s.boot with stage := 5 } }.configure (s.image s.boot.slot 3)
  ((List.range 4).filter fun d => s.boot.passed.getLsbD d).foldl State.joinService (s1.runStage 3)

/-- Event BOOT_STAGE: the running stage verifies the next image, measures it and runs it; Novfin runs once the
configuration record has verified as well (DEDUCED, assumption log 7). -/
def execBootStage (s : State) : Out :=
  let b := s.boot
  match b.stage with
  | 1 => .next s.bootRom
  | 2 => if s.imageOk b.slot 1 then .next ((s.measure 1 3).runStage 2) else .next s.bootStops
  | 3 => if s.imageOk b.slot 2 then .next (s.measure 2 4) else .next s.bootStops
  | 4 => if s.imageOk b.slot 3 then .next s.novfin else .next s.bootStops
  | _ => .next s

/-- Stage 2 has started, and die d has no result yet (DEDUCED, assumption log 13). -/
def State.untested (s : State) (d : Nat) : Bool :=
  decide (d < 4 ∧ 3 ≤ s.boot.stage ∧ s.boot.stage ≤ 5) && !s.boot.passed.getLsbD d && !s.boot.failed.getLsbD d

/-- Event DIE_PASS: die d passes its test and joins the reduced service (DEDUCED, assumption log 13). -/
def execDiePass (d : Nat) (s : State) : Out :=
  if s.untested d then
    let s1 := { s with boot := { s.boot with passed := s.boot.passed ||| BitVec.ofNat 4 (2 ^ d) } }
    .next (if s.boot.stage = 5 then s1.joinService d else s1)
  else .next s

/-- Event DIE_TEST_FAIL: die d fails, and its sixteen crews are retired (DEDUCED, assumption log 13). -/
def execDieTestFail (d : Nat) (s : State) : Out :=
  if s.untested d then
    let s1 := { s with boot := { s.boot with failed := s.boot.failed ||| BitVec.ofNat 4 (2 ^ d) } }
    .next ((List.range 16).foldl (fun x i => x.binRetire (16 * d + i)) s1)
  else .next s

/-- Event FULL_SERVICE: all four dies have passed: full speed, and no format restriction, from the same instant. -/
def execFullService (s : State) : Out :=
  if s.boot.passed = 15 then .next { s with boot := { s.boot with full := true } } else .next s

/-! ## What the passing of a cycle does -/

/-- The piece is the mark of an entry that has left its queue (R388). -/
def State.markGone (s : State) (pc : Nat) : Bool :=
  match queueMark pc with
  | none => false
  | some (j, q, n) => decide ((s.ctx j).queueLength q ≤ (n + 2 ^ 16 - ((s.ctx j).pops.get q 0).toNat) % 2 ^ 16)

/-- The marks of poisoned entries that have left their queues are gone with them. -/
def State.dropMarks (s : State) : State :=
  if s.poison.any s.markGone then { s with poison := s.poison.filter fun pc => !s.markGone pc } else s

/-- What is due in a cycle comes about before it passes: evictions enter, rows drain, matrix and copy commands complete, draw
buffers take the cycle's blocks, GOs come, contexts return to the walker, cuts are sampled; then the array's part of the passing, the streams' and the
watches' (DESIGN CHOICE, assumption log 1). -/
def State.passCycle (s : State) : State :=
  s.fevAll.arrayCycle.copiesDone.drawCycle.goCycle.freeLeft.cutCycle.mxCycle.cycle.dropMarks

end Sys2Proof.Machine
end

