-- ==== Sys2Proof/Machine/CoxAlu.lean ====
section
/-! DEFINITION. Machine/CoxAlu.lean: the integer and bit operations of the cox (R233 to R238). -/

namespace Sys2Proof.Machine

def execAdd (h : CoxH) (d a b : SReg) (s : State) : Out := coxOp2 s h d a b (· + ·)
def execAddImm (h : CoxH) (d a : SReg) (imm : BitVec 24) (s : State) : Out := coxOp1 s h d a (· + simm24 imm)
def execSub (h : CoxH) (d a b : SReg) (s : State) : Out := coxOp2 s h d a b (· - ·)
def execMul (h : CoxH) (d a b : SReg) (s : State) : Out := coxOp2 s h d a b (· * ·)
def execMulImm (h : CoxH) (d a : SReg) (imm : BitVec 24) (s : State) : Out := coxOp1 s h d a (· * simm24 imm)

/-- The high half of the signed product (Table 9.2). -/
def mulHigh (a b : Word) : Word := BitVec.ofInt 64 (a.toInt * b.toInt / 2 ^ 64)

def execMulh (h : CoxH) (d a b : SReg) (s : State) : Out := coxOp2 s h d a b mulHigh
def execDiv (h : CoxH) (d a b : SReg) (s : State) : Out := coxOp2 s h d a b fun x y => (divRem x y).1
def execRem (h : CoxH) (d a b : SReg) (s : State) : Out := coxOp2 s h d a b fun x y => (divRem x y).2

def signedMin (a b : Word) : Word := if a.sle b then a else b
def signedMax (a b : Word) : Word := if a.sle b then b else a

def execMin (h : CoxH) (d a b : SReg) (s : State) : Out := coxOp2 s h d a b signedMin
def execMax (h : CoxH) (d a b : SReg) (s : State) : Out := coxOp2 s h d a b signedMax
def execAnd (h : CoxH) (d a b : SReg) (s : State) : Out := coxOp2 s h d a b (· &&& ·)
def execAndImm (h : CoxH) (d a : SReg) (imm : BitVec 24) (s : State) : Out := coxOp1 s h d a (· &&& simm24 imm)
def execOr (h : CoxH) (d a b : SReg) (s : State) : Out := coxOp2 s h d a b (· ||| ·)
def execOrImm (h : CoxH) (d a : SReg) (imm : BitVec 24) (s : State) : Out := coxOp1 s h d a (· ||| simm24 imm)
def execXor (h : CoxH) (d a b : SReg) (s : State) : Out := coxOp2 s h d a b (· ^^^ ·)
def execXorImm (h : CoxH) (d a : SReg) (imm : BitVec 24) (s : State) : Out := coxOp1 s h d a (· ^^^ simm24 imm)

/-- A shift count is b[5:0] (R233). -/
def count6 (b : Word) : Nat := b.toNat % 64

def execShl (h : CoxH) (d a b : SReg) (s : State) : Out := coxOp2 s h d a b fun x y => x <<< count6 y
def execShlImm (h : CoxH) (d a : SReg) (c : BitVec 6) (s : State) : Out := coxOp1 s h d a (· <<< c.toNat)
def execShr (h : CoxH) (d a b : SReg) (s : State) : Out := coxOp2 s h d a b fun x y => x >>> count6 y
def execShrImm (h : CoxH) (d a : SReg) (c : BitVec 6) (s : State) : Out := coxOp1 s h d a (· >>> c.toNat)
def execSar (h : CoxH) (d a b : SReg) (s : State) : Out := coxOp2 s h d a b fun x y => x.sshiftRight (count6 y)
def execSarImm (h : CoxH) (d a : SReg) (c : BitVec 6) (s : State) : Out := coxOp1 s h d a (·.sshiftRight c.toNat)
def execClz (h : CoxH) (d a : SReg) (s : State) : Out :=
  coxOp1 s h d a fun x => BitVec.ofNat 64 (leadingZeros x 64)
def execPopc (h : CoxH) (d a : SReg) (s : State) : Out := coxOp1 s h d a fun x => BitVec.ofNat 64 (setBits x 64)

/-- CMP writes a predicate, or under a boost level the predicate's shadow (R235, R238). -/
def execCmp (h : CoxH) (cc : CoxCC) (p : BitVec 3) (a b : SReg) (s : State) : Out :=
  coxForm s .any h [a, b] fun t =>
    let c := s.cox t
    let bl := h.bl.toNat
    let x := c.src bl a
    let y := c.src bl b
    let poison := [(c.pred bl h.pred).2, x.2, y.2].findSome? id
    .next ((s.setCox t (c.putP bl p.toNat (CoxCC.holds cc x.1 y.1) poison)).next t)

/-- SEL reads both registers and the named predicate (R235). -/
def execSel (h : CoxH) (d a b : SReg) (neg : Bool) (p : BitVec 3) (s : State) : Out :=
  coxForm s .any h [d, a, b] fun t =>
    let c := s.cox t
    let bl := h.bl.toNat
    let x := c.src bl a
    let y := c.src bl b
    let k := c.srcP bl p.toNat
    let poison := [(c.pred bl h.pred).2, x.2, y.2, k.2].findSome? id
    .next ((s.setCox t (c.put bl d (if k.1 != neg then x.1 else y.1) poison)).next t)

/-- a[P + Λ - 1 : P], zero-extended (R236). -/
def bitField (a : Word) (pos len : Nat) : Word := BitVec.ofNat 64 (fieldOf a pos len)

def execBfx (h : CoxH) (d a : SReg) (pos len1 : BitVec 6) (s : State) : Out :=
  coxOp1 s h d a fun x => bitField x pos.toNat (len1.toNat + 1)

def execBfi (h : CoxH) (d a b : SReg) (pos len1 : BitVec 6) (s : State) : Out :=
  coxOp2 s h d a b fun x y => withField y pos.toNat (len1.toNat + 1) x.toNat

def execLdi (h : CoxH) (d : SReg) (imm : BitVec 30) (s : State) : Out :=
  coxResult s h d [] fun _ => imm.signExtend 64

/-- LDIH reads d: bits [63:30] are replaced (R237). -/
def execLdih (h : CoxH) (d : SReg) (imm : BitVec 30) (s : State) : Out :=
  coxOp1 s h d d fun x => withField x 30 34 imm.toNat

end Sys2Proof.Machine
end

