-- ==== Sys2Proof/Machine/Dispatch.lean ====
section
/-! DEFINITION. Machine/Dispatch.lean: one arm per constructor of Instr. -/

namespace Sys2Proof.Machine

def exec (i : Instr) (s : State) : Host.Outcome State Fault Refusal :=
  match i with
  | .add h d a b => Sys2Proof.Machine.execAdd h d a b s
  | .addImm h d a imm => Sys2Proof.Machine.execAddImm h d a imm s
  | .sub h d a b => Sys2Proof.Machine.execSub h d a b s
  | .mul h d a b => Sys2Proof.Machine.execMul h d a b s
  | .mulImm h d a imm => Sys2Proof.Machine.execMulImm h d a imm s
  | .mulh h d a b => Sys2Proof.Machine.execMulh h d a b s
  | .div h d a b => Sys2Proof.Machine.execDiv h d a b s
  | .rem h d a b => Sys2Proof.Machine.execRem h d a b s
  | .min h d a b => Sys2Proof.Machine.execMin h d a b s
  | .max h d a b => Sys2Proof.Machine.execMax h d a b s
  | .and h d a b => Sys2Proof.Machine.execAnd h d a b s
  | .andImm h d a imm => Sys2Proof.Machine.execAndImm h d a imm s
  | .or h d a b => Sys2Proof.Machine.execOr h d a b s
  | .orImm h d a imm => Sys2Proof.Machine.execOrImm h d a imm s
  | .xor h d a b => Sys2Proof.Machine.execXor h d a b s
  | .xorImm h d a imm => Sys2Proof.Machine.execXorImm h d a imm s
  | .shl h d a b => Sys2Proof.Machine.execShl h d a b s
  | .shlImm h d a c => Sys2Proof.Machine.execShlImm h d a c s
  | .shr h d a b => Sys2Proof.Machine.execShr h d a b s
  | .shrImm h d a c => Sys2Proof.Machine.execShrImm h d a c s
  | .sar h d a b => Sys2Proof.Machine.execSar h d a b s
  | .sarImm h d a c => Sys2Proof.Machine.execSarImm h d a c s
  | .clz h d a => Sys2Proof.Machine.execClz h d a s
  | .popc h d a => Sys2Proof.Machine.execPopc h d a s
  | .cmp h cc p a b => Sys2Proof.Machine.execCmp h cc p a b s
  | .sel h d a b neg p => Sys2Proof.Machine.execSel h d a b neg p s
  | .bfx h d a pos len1 => Sys2Proof.Machine.execBfx h d a pos len1 s
  | .bfi h d a b pos len1 => Sys2Proof.Machine.execBfi h d a b pos len1 s
  | .ldi h d imm => Sys2Proof.Machine.execLdi h d imm s
  | .ldih h d imm => Sys2Proof.Machine.execLdih h d imm s
  | .bra idle neg p taken commit disp => Sys2Proof.Machine.execBra idle neg p taken commit disp s
  | .jmp h disp => Sys2Proof.Machine.execJmp h disp s
  | .call h disp => Sys2Proof.Machine.execCall h disp s
  | .ret h => Sys2Proof.Machine.execRet h s
  | .go h a b => Sys2Proof.Machine.execGo h a b s
  | .join h => Sys2Proof.Machine.execJoin h s
  | .node h => Sys2Proof.Machine.execNode h s
  | .ld h d a imm => Sys2Proof.Machine.execLd h d a imm s
  | .ldI8 h d a imm => Sys2Proof.Machine.execLdI8 h d a imm s
  | .ldN8 h d a imm => Sys2Proof.Machine.execLdN8 h d a imm s
  | .ldI16 h d a imm => Sys2Proof.Machine.execLdI16 h d a imm s
  | .ldI32 h d a imm => Sys2Proof.Machine.execLdI32 h d a imm s
  | .ldN32 h d a imm => Sys2Proof.Machine.execLdN32 h d a imm s
  | .ldAcq h d a imm => Sys2Proof.Machine.execLdAcq h d a imm s
  | .ldDom h d a imm => Sys2Proof.Machine.execLdDom h d a imm s
  | .ldAcqDom h d a imm => Sys2Proof.Machine.execLdAcqDom h d a imm s
  | .st h d a imm => Sys2Proof.Machine.execSt h d a imm s
  | .stI8 h d a imm => Sys2Proof.Machine.execStI8 h d a imm s
  | .stI16 h d a imm => Sys2Proof.Machine.execStI16 h d a imm s
  | .stI32 h d a imm => Sys2Proof.Machine.execStI32 h d a imm s
  | .stRel h d a imm => Sys2Proof.Machine.execStRel h d a imm s
  | .stDom h d a imm => Sys2Proof.Machine.execStDom h d a imm s
  | .stRelDom h d a imm => Sys2Proof.Machine.execStRelDom h d a imm s
  | .amoAdd h o d a b => Sys2Proof.Machine.execAmoAdd h o d a b s
  | .amoAnd h o d a b => Sys2Proof.Machine.execAmoAnd h o d a b s
  | .amoOr h o d a b => Sys2Proof.Machine.execAmoOr h o d a b s
  | .amoXor h o d a b => Sys2Proof.Machine.execAmoXor h o d a b s
  | .amoMin h o d a b => Sys2Proof.Machine.execAmoMin h o d a b s
  | .amoMax h o d a b => Sys2Proof.Machine.execAmoMax h o d a b s
  | .amoSwap h o d a b => Sys2Proof.Machine.execAmoSwap h o d a b s
  | .cas h o d a b e => Sys2Proof.Machine.execCas h o d a b e s
  | .waita h a b => Sys2Proof.Machine.execWaita h a b s
  | .fence h => Sys2Proof.Machine.execFence h s
  | .msg h t a b c ssp => Sys2Proof.Machine.execMsg h t a b c ssp s
  | .twait h t n => Sys2Proof.Machine.execTwait h t n s
  | .tsig h t n => Sys2Proof.Machine.execTsig h t n s
  | .wqpush h a b => Sys2Proof.Machine.execWqpush h a b s
  | .callv h ty a g => Sys2Proof.Machine.execCallv h ty a g s
  | .calla h ty a g => Sys2Proof.Machine.execCalla h ty a g s
  | .fmtp h a => Sys2Proof.Machine.execFmtp h a s
  | .rqp h d => Sys2Proof.Machine.execRqp h d s
  | .mbsend h a k => Sys2Proof.Machine.execMbsend h a k s
  | .mbrecv h d => Sys2Proof.Machine.execMbrecv h d s
  | .mxgrp h n1 => Sys2Proof.Machine.execMxgrp h n1 s
  | .mxldp h t a b c hi => Sys2Proof.Machine.execMxldp h t a b c hi s
  | .mxswp h t a b grad => Sys2Proof.Machine.execMxswp h t a b grad s
  | .mxevp h t a => Sys2Proof.Machine.execMxevp h t a s
  | .mxpin h t a unpin => Sys2Proof.Machine.execMxpin h t a unpin s
  | .mxmm h t a b c uni acc h1 => Sys2Proof.Machine.execMxmm h t a b c uni acc h1 s
  | .mxga h t a b c uni => Sys2Proof.Machine.execMxga h t a b c uni s
  | .mxdrg h t a b c clr => Sys2Proof.Machine.execMxdrg h t a b c clr s
  | .mxres h drop => Sys2Proof.Machine.execMxres h drop s
  | .mxkat h t a b => Sys2Proof.Machine.execMxkat h t a b s
  | .mxtsm h t a => Sys2Proof.Machine.execMxtsm h t a s
  | .mxdir h t a b idx => Sys2Proof.Machine.execMxdir h t a b idx s
  | .cpy h t a b c dsp ssp => Sys2Proof.Machine.execCpy h t a b c dsp ssp s
  | .cpx h t a b c dsp ssp => Sys2Proof.Machine.execCpx h t a b c dsp ssp s
  | .cpk h t a b c => Sys2Proof.Machine.execCpk h t a b c s
  | .cpq h t a b c dsp ssp => Sys2Proof.Machine.execCpq h t a b c dsp ssp s
  | .cpg h t a b c dsp ssp => Sys2Proof.Machine.execCpg h t a b c dsp ssp s
  | .cps h t a b c dsp ssp => Sys2Proof.Machine.execCps h t a b c dsp ssp s
  | .cpr h t a b c ssp fadd badd iadd fmax => Sys2Proof.Machine.execCpr h t a b c ssp fadd badd iadd fmax s
  | .rtacq h t a => Sys2Proof.Machine.execRtacq h t a s
  | .rtrel h d a => Sys2Proof.Machine.execRtrel h d a s
  | .rtqry h d a w => Sys2Proof.Machine.execRtqry h d a w s
  | .nvq h t a b c => Sys2Proof.Machine.execNvq h t a b c s
  | .gmld h t a => Sys2Proof.Machine.execGmld h t a s
  | .gmstep h a => Sys2Proof.Machine.execGmstep h a s
  | .gmmask h d a g => Sys2Proof.Machine.execGmmask h d a g s
  | .gmsave h d slot => Sys2Proof.Machine.execGmsave h d slot s
  | .gmrest h d slot => Sys2Proof.Machine.execGmrest h d slot s
  | .rdtsf h d ix => Sys2Proof.Machine.execRdtsf h d ix s
  | .logb h t a b => Sys2Proof.Machine.execLogb h t a b s
  | .sparm h a => Sys2Proof.Machine.execSparm h a s
  | .spend h => Sys2Proof.Machine.execSpend h s
  | .clreq h t a b => Sys2Proof.Machine.execClreq h t a b s
  | .clrel h a => Sys2Proof.Machine.execClrel h a s
  | .clrd h d a ix => Sys2Proof.Machine.execClrd h d a ix s
  | .trap h code => Sys2Proof.Machine.execTrap h code s
  | .eret h => Sys2Proof.Machine.execEret h s
  | .rdsys h d n => Sys2Proof.Machine.execRdsys h d n s
  | .wrsys h a n => Sys2Proof.Machine.execWrsys h a n s
  | .fltrd h d w => Sys2Proof.Machine.execFltrd h d w s
  | .halt h => Sys2Proof.Machine.execHalt h s
  | .killj h a => Sys2Proof.Machine.execKillj h a s
  | .amv h t src => Sys2Proof.Machine.execAmv h t src s
  | .aadd h t b src => Sys2Proof.Machine.execAadd h t b src s
  | .amul h t b src => Sys2Proof.Machine.execAmul h t b src s
  | .ald h t b m => Sys2Proof.Machine.execAld h t b m s
  | .alds h t b m => Sys2Proof.Machine.execAlds h t b m s
  | .ast h t b m => Sys2Proof.Machine.execAst h t b m s
  | .asts h t b m => Sys2Proof.Machine.execAsts h t b m s
  | .agth h t b ix m => Sys2Proof.Machine.execAgth h t b ix m s
  | .asct h t b ix m => Sys2Proof.Machine.execAsct h t b ix m s
  | .apf h b m => Sys2Proof.Machine.execApf h b m s
  | .astx h w t b ix m => Sys2Proof.Machine.execAstx h w t b ix m s
  | .aldb h b f lines1 => Sys2Proof.Machine.execAldb h b f lines1 s
  | .awf h f => Sys2Proof.Machine.execAwf h f s
  | .aloop h lvl count => Sys2Proof.Machine.execAloop h lvl count s
  | .aarm h n lens => Sys2Proof.Machine.execAarm h n lens s
  | .acall h b => Sys2Proof.Machine.execAcall h b s
  | .accJoin h => Sys2Proof.Machine.execAccJoin h s
  | .vadd h ty D A B => Sys2Proof.Machine.execVadd h ty D A B s
  | .vsub h ty D A B => Sys2Proof.Machine.execVsub h ty D A B s
  | .vmul h ty D A B => Sys2Proof.Machine.execVmul h ty D A B s
  | .vfma h ty D A B C => Sys2Proof.Machine.execVfma h ty D A B C s
  | .vmin h ty D A B => Sys2Proof.Machine.execVmin h ty D A B s
  | .vmax h ty D A B => Sys2Proof.Machine.execVmax h ty D A B s
  | .vabs h ty D A => Sys2Proof.Machine.execVabs h ty D A s
  | .vneg h ty D A => Sys2Proof.Machine.execVneg h ty D A s
  | .vexp2 h ty D A => Sys2Proof.Machine.execVexp2 h ty D A s
  | .vlog2 h ty D A => Sys2Proof.Machine.execVlog2 h ty D A s
  | .vrcp h ty D A => Sys2Proof.Machine.execVrcp h ty D A s
  | .vrsq h ty D A => Sys2Proof.Machine.execVrsq h ty D A s
  | .vtanh h ty D A => Sys2Proof.Machine.execVtanh h ty D A s
  | .vsigm h ty D A => Sys2Proof.Machine.execVsigm h ty D A s
  | .vand h D A B => Sys2Proof.Machine.execVand h D A B s
  | .vor h D A B => Sys2Proof.Machine.execVor h D A B s
  | .vxor h D A B => Sys2Proof.Machine.execVxor h D A B s
  | .vmov h D A => Sys2Proof.Machine.execVmov h D A s
  | .vsel h D A B k => Sys2Proof.Machine.execVsel h D A B k s
  | .viota h D k => Sys2Proof.Machine.execViota h D k s
  | .vshl h ty D A B => Sys2Proof.Machine.execVshl h ty D A B s
  | .vshr h ty D A B => Sys2Proof.Machine.execVshr h ty D A B s
  | .vcmp h cc ty k A B => Sys2Proof.Machine.execVcmp h cc ty k A B s
  | .vcvt h f D A => Sys2Proof.Machine.execVcvt h f D A s
  | .vcvta h f D A m => Sys2Proof.Machine.execVcvta h f D A m s
  | .vcvts h f q A => Sys2Proof.Machine.execVcvts h f q A s
  | .vqnt h f D A => Sys2Proof.Machine.execVqnt h f D A s
  | .vdqnt h f D A => Sys2Proof.Machine.execVdqnt h f D A s
  | .vrsum h ty D A => Sys2Proof.Machine.execVrsum h ty D A s
  | .vrmax h ty D A => Sys2Proof.Machine.execVrmax h ty D A s
  | .vargm h ty D A => Sys2Proof.Machine.execVargm h ty D A s
  | .vamxr h D sel => Sys2Proof.Machine.execVamxr h D sel s
  | .vperm h D A B => Sys2Proof.Machine.execVperm h D A B s
  | .vrot h D A n => Sys2Proof.Machine.execVrot h D A n s
  | .vlpsh h A => Sys2Proof.Machine.execVlpsh h A s
  | .vlpop h D k => Sys2Proof.Machine.execVlpop h D k s
  | .vlcnt h D => Sys2Proof.Machine.execVlcnt h D s
  | .vrng h D load => Sys2Proof.Machine.execVrng h D load s
  | .vshrt h ty D A B C => Sys2Proof.Machine.execVshrt h ty D A B C s
  | .vmsk h k => Sys2Proof.Machine.execVmsk h k s
  | .vkand h kd ka kb => Sys2Proof.Machine.execVkand h kd ka kb s
  | .vkor h kd ka kb => Sys2Proof.Machine.execVkor h kd ka kb s
  | .vknot h kd ka => Sys2Proof.Machine.execVknot h kd ka s
  | .vkpop h D k => Sys2Proof.Machine.execVkpop h D k s
  | .vrank h D A B => Sys2Proof.Machine.execVrank h D A B s
  | .vselb h D A B => Sys2Proof.Machine.execVselb h D A B s
  | .vloop h lvl count1 step => Sys2Proof.Machine.execVloop h lvl count1 step s
  | .varm h n lens => Sys2Proof.Machine.execVarm h n lens s
  | .vecJoin h => Sys2Proof.Machine.execVecJoin h s
  | .watchWake t => Sys2Proof.Machine.execWatchWake t s
  | .spuriousWake t => Sys2Proof.Machine.execSpuriousWake t s
  | .grammarDescriptorLoad j => Sys2Proof.Machine.execGrammarDescriptorLoad j s
  | .loadBlockFill j f => Sys2Proof.Machine.execLoadBlockFill j f s
  | .noteCallDiscard j vec => Sys2Proof.Machine.execNoteCallDiscard j vec s
  | .hamsWrite n v => Sys2Proof.Machine.execHamsWrite n v s
  | .actWrite j v => Sys2Proof.Machine.execActWrite j v s
  | .wqEnable p q v => Sys2Proof.Machine.execWqEnable p q v s
  | .wqSuspend p q v => Sys2Proof.Machine.execWqSuspend p q v s
  | .wqResume p q v => Sys2Proof.Machine.execWqResume p q v s
  | .wqDisable p q v => Sys2Proof.Machine.execWqDisable p q v s
  | .zoneEvacuate z => Sys2Proof.Machine.execZoneEvacuate z s
  | .zoneRefill z => Sys2Proof.Machine.execZoneRefill z s
  | .zoneClearFault z => Sys2Proof.Machine.execZoneClearFault z s
  | .pd0Write p v => Sys2Proof.Machine.execPd0Write p v s
  | .keyLoad n p => Sys2Proof.Machine.execKeyLoad n p s
  | .seedLoad n p => Sys2Proof.Machine.execSeedLoad n p s
  | .keyErase n p => Sys2Proof.Machine.execKeyErase n p s
  | .invalidatePage p v => Sys2Proof.Machine.execInvalidatePage p v s
  | .invalidateAll p => Sys2Proof.Machine.execInvalidateAll p s
  | .wayLend sl v => Sys2Proof.Machine.execWayLend sl v s
  | .wayReturn sl v => Sys2Proof.Machine.execWayReturn sl v s
  | .wprOwnerSet sl v => Sys2Proof.Machine.execWprOwnerSet sl v s
  | .lendComplete sl => Sys2Proof.Machine.execLendComplete sl s
  | .returnComplete sl => Sys2Proof.Machine.execReturnComplete sl s
  | .forcedEviction c v => Sys2Proof.Machine.execForcedEviction c v s
  | .binStep c => Sys2Proof.Machine.execBinStep c s
  | .binRetest c => Sys2Proof.Machine.execBinRetest c s
  | .binRetire c => Sys2Proof.Machine.execBinRetire c s
  | .serviceCoreRestart n v => Sys2Proof.Machine.execServiceCoreRestart n v s
  | .hagtWrite v => Sys2Proof.Machine.execHagtWrite v s
  | .launchPacket p q => Sys2Proof.Machine.execLaunchPacket p q s
  | .fencePacket p q => Sys2Proof.Machine.execFencePacket p q s
  | .fenceRecheck p q => Sys2Proof.Machine.execFenceRecheck p q s
  | .signalPacket p q => Sys2Proof.Machine.execSignalPacket p q s
  | .nodePacket p q => Sys2Proof.Machine.execNodePacket p q s
  | .logbPacket p q => Sys2Proof.Machine.execLogbPacket p q s
  | .iterationPlace die => Sys2Proof.Machine.execIterationPlace die s
  | .walkerGo j => Sys2Proof.Machine.execWalkerGo j s
  | .iterationReplace die => Sys2Proof.Machine.execIterationReplace die s
  | .jobRetire j => Sys2Proof.Machine.execJobRetire j s
  | .retireCounterAdd j => Sys2Proof.Machine.execRetireCounterAdd j s
  | .budgetWarning j => Sys2Proof.Machine.execBudgetWarning j s
  | .budgetExhausted j => Sys2Proof.Machine.execBudgetExhausted j s
  | .messageArrival core => Sys2Proof.Machine.execMessageArrival core s
  | .sporeStart j k => Sys2Proof.Machine.execSporeStart j k s
  | .matrixCommandStart c => Sys2Proof.Machine.execMatrixCommandStart c s
  | .leaseGrant c => Sys2Proof.Machine.execLeaseGrant c s
  | .groupWaitLimit c => Sys2Proof.Machine.execGroupWaitLimit c s
  | .tileLineArrival j => Sys2Proof.Machine.execTileLineArrival j s
  | .shadowFull c => Sys2Proof.Machine.execShadowFull c s
  | .rowEntry c => Sys2Proof.Machine.execRowEntry c s
  | .rowDrain c err => Sys2Proof.Machine.execRowDrain c err s
  | .matrixCommandComplete c => Sys2Proof.Machine.execMatrixCommandComplete c s
  | .tsfVisible j => Sys2Proof.Machine.execTsfVisible j s
  | .mxkatTimeout j => Sys2Proof.Machine.execMxkatTimeout j s
  | .knownAnswerSlot c tile => Sys2Proof.Machine.execKnownAnswerSlot c tile s
  | .copyCommandStart j => Sys2Proof.Machine.execCopyCommandStart j s
  | .copyChunk home => Sys2Proof.Machine.execCopyChunk home s
  | .copyComplete home => Sys2Proof.Machine.execCopyComplete home s
  | .residencyFillComplete home => Sys2Proof.Machine.execResidencyFillComplete home s
  | .randomBlock j => Sys2Proof.Machine.execRandomBlock j s
  | .remoteStoreAck ix => Sys2Proof.Machine.execRemoteStoreAck ix s
  | .remoteAccess part pa op => Sys2Proof.Machine.execRemoteAccess part pa op s
  | .flitRetry link => Sys2Proof.Machine.execFlitRetry link s
  | .pageWalkComplete c p va => Sys2Proof.Machine.execPageWalkComplete c p va s
  | .allocatorServe ix => Sys2Proof.Machine.execAllocatorServe ix s
  | .sensorSample z x => Sys2Proof.Machine.execSensorSample z x s
  | .settleTimeout z => Sys2Proof.Machine.execSettleTimeout z s
  | .flowFaultTimeout z => Sys2Proof.Machine.execFlowFaultTimeout z s
  | .evacuationKillTimeout c => Sys2Proof.Machine.execEvacuationKillTimeout c s
  | .evacuationStepEnd z => Sys2Proof.Machine.execEvacuationStepEnd z s
  | .dryConfirmTimeout z => Sys2Proof.Machine.execDryConfirmTimeout z s
  | .refillReserve z => Sys2Proof.Machine.execRefillReserve z s
  | .refillPrimeEnd z => Sys2Proof.Machine.execRefillPrimeEnd z s
  | .hostTimeout fn => Sys2Proof.Machine.execHostTimeout fn s
  | .hostLinkDown => Sys2Proof.Machine.execHostLinkDown s
  | .hostCompletion id ok v => Sys2Proof.Machine.execHostCompletion id ok v s
  | .handlerDelivery j => Sys2Proof.Machine.execHandlerDelivery j s
  | .cutSample j => Sys2Proof.Machine.execCutSample j s
  | .cutTimeout j => Sys2Proof.Machine.execCutTimeout j s
  | .serviceTrap n => Sys2Proof.Machine.execServiceTrap n s
  | .uncorrectableError u => Sys2Proof.Machine.execUncorrectableError u s
  | .correctedError unit => Sys2Proof.Machine.execCorrectedError unit s
  | .correctionReport unit => Sys2Proof.Machine.execCorrectionReport unit s
  | .binSettle c => Sys2Proof.Machine.execBinSettle c s
  | .knownAnswerBattery c clean => Sys2Proof.Machine.execKnownAnswerBattery c clean s
  | .reset => Sys2Proof.Machine.execReset s
  | .bootStage => Sys2Proof.Machine.execBootStage s
  | .diePass d => Sys2Proof.Machine.execDiePass d s
  | .fullService => Sys2Proof.Machine.execFullService s
  | .pcieLinkChange up => Sys2Proof.Machine.execPcieLinkChange up s
  | .requestArrival p q packet => Sys2Proof.Machine.execRequestArrival p q packet s
  | .requestReply p counter threshold => Sys2Proof.Machine.execRequestReply p counter threshold s
  | .refillPurgeValveClosed z => Sys2Proof.Machine.execRefillPurgeValveClosed z s
  | .mailboxWordAvailable j => Sys2Proof.Machine.execMailboxWordAvailable j s
  | .dieTestFail d => Sys2Proof.Machine.execDieTestFail d s

end Sys2Proof.Machine
end

