-- ==== Sys2Proof/Machine/Step.lean ====
section
/-! DEFINITION. Machine/Step.lean: one step is one turn: a thread's local cycle, an event, or a cycle's passing. -/

namespace Sys2Proof.Machine

/-- The turn of a thread: the word it reaches, if any, is run by exec (DESIGN CHOICE, assumption log 1). -/
def threadStep (s : State) (t : Thread) : Host.Outcome State Fault Refusal :=
  match s.reach_ t with
  | .done s' => .next s'
  | .word i s' => exec i s'

/-- The current thread goes on: in the next cycle, when it has had its turn in this one. -/
def State.goOn (s : State) : State := if s.turned s.cur then s.passCycle else s

/-- An event takes place. A term in an event's place that is none, or that names a unit which the package has not, passes its
turn (R1). -/
def eventStep (s : State) (i : Instr) : Host.Outcome State Fault Refusal :=
  if i.map.isNone && i.wellFormed then exec i s else .next s

/-- The next turn of the schedule; with none planned, the current thread goes on (DESIGN CHOICE, assumption log 1). -/
def step (s : State) : Host.Outcome State Fault Refusal :=
  match s.sched with
  | [] => threadStep { s with slow := false }.goOn s.cur
  | .thread t :: r => threadStep { s with sched := r, slow := false } t
  | .slow t :: r => threadStep { s with sched := r, slow := true } t
  | .event i :: r => eventStep { s with sched := r, slow := false } i
  | .slowEvent i :: r => eventStep { s with sched := r, slow := true } i
  | .cycle :: r => .next { s with sched := r, slow := false }.passCycle

/-- The thread that the next step gives a turn to, when it is a thread's. -/
def State.turnOf (s : State) : Thread :=
  match s.sched with
  | .thread t :: _ | .slow t :: _ => t
  | _ => s.cur

/-- The state with the words of an instruction stored where the next step fetches, its IDLE count elapsed, and its stream's
turn of this cycle still to come (DESIGN CHOICE, assumption log 6; DEDUCED, assumption log 7). -/
def State.withFetchWord (s : State) (_nbits w : Nat) : State :=
  let t := s.turnOf
  let a := s.addr t.home .fetch (s.stream t).pc
  let s1 := s.rawWrite a (bytesLE 16 w)
  let r := s1.stream t
  s1.setStream t { r with since := 1024, occ := 0, hold := 0, ran := Nat.min r.ran (s1.clockOf t.home) }

end Sys2Proof.Machine
end

