-- ==== Sys2Proof/Safety.lean ====
section
/-! DEFINITION. Safety.lean: the terms in which claims speak of a run: when a word issues with its own effect, what
stays as it was, and what a good state is. -/

namespace Sys2Proof

/-- The cox words that the wrapper of R60 checks: where the form is legal, its header, the registers that it names. BRA,
ERET, RDSYS and WRSYS have checks of their own; the other words belong to other streams. -/
def Instr.coxHead : Instr → Option (Machine.Form × CoxH × List SReg)
  | .add h d a b | .sub h d a b | .mul h d a b | .mulh h d a b | .div h d a b | .rem h d a b | .min h d a b
  | .max h d a b | .and h d a b | .or h d a b | .xor h d a b | .shl h d a b | .shr h d a b | .sar h d a b =>
      some (.any, h, [d, a, b])
  | .addImm h d a _ | .mulImm h d a _ | .andImm h d a _ | .orImm h d a _ | .xorImm h d a _ | .shlImm h d a _
  | .shrImm h d a _ | .sarImm h d a _ | .ld h d a _ | .ldI8 h d a _ | .ldN8 h d a _ | .ldI16 h d a _
  | .ldI32 h d a _ | .ldN32 h d a _ | .ldAcq h d a _ | .ldDom h d a _ | .ldAcqDom h d a _ | .st h d a _
  | .stI8 h d a _ | .stI16 h d a _ | .stI32 h d a _ | .stRel h d a _ | .stDom h d a _ | .stRelDom h d a _
  | .rtqry h d a _ => some (.any, h, [d, a])
  | .clz h d a | .popc h d a | .rtrel h d a => some (.any, h, [d, a])
  | .cmp h _ _ a b => some (.any, h, [a, b])
  | .sel h d a b _ _ | .bfi h d a b _ _ => some (.any, h, [d, a, b])
  | .bfx h d a _ _ => some (.any, h, [d, a])
  | .ldi h d _ | .fltrd h d _ => some (.any, h, [d])
  | .ldih h d _ => some (.any, h, [d, d])
  | .jmp h _ | .trap h _ => some (.any, h, [])
  | .call h _ => some (.noSpore, h, [])
  | .ret h => some (.noSpore, h, [])
  | .go h a b => some (.coxOnly, h, [a, b])
  | .join h | .node h => some (.coxOnly, h, [])
  | .amoAdd h _ d a b | .amoAnd h _ d a b | .amoOr h _ d a b | .amoXor h _ d a b | .amoMin h _ d a b
  | .amoMax h _ d a b | .amoSwap h _ d a b => some (.any, h, [d, a, b])
  | .cas h _ d a b e => some (.any, h, [d, a, b, e])
  | .waita h a b | .wqpush h a b => some (.any, h, [a, b])
  | .fence h => some (.any, h, [])
  | .msg h _ a b c _ => some (.any, h, [a, b, c])
  | .twait h _ _ | .tsig h _ _ => some (.any, h, [])
  | .callv h _ a _ | .calla h _ a _ => some (.coxOnly, h, [a])
  | .fmtp h a => some (.coxOnly, h, [a])
  | .rqp h d | .mbrecv h d => some (.coxOnly, h, [d])
  | .mbsend h a _ => some (.coxOnly, h, [a])
  | .mxgrp h _ => some (.coxOnly, h, [0, 0, 0])
  | .mxldp h _ a b c _ | .mxga h _ a b c _ | .mxdrg h _ a b c _ => some (.coxOnly, h, [a, b, c])
  | .mxswp h _ a b _ | .mxdir h _ a b _ => some (.coxOnly, h, [a, b, 0])
  | .mxevp h _ a | .mxtsm h _ a => some (.coxOnly, h, [a, 0, 0])
  | .mxpin h _ a _ => some (.coxOnly, h, [a, 0, 0])
  | .mxmm h _ a b c _ _ _ => some (.coxOnly, h, [a, b, c])
  | .mxkat h _ a b => some (.coxOnly, h, [a, b, 0])
  | .mxres h _ => some (.coxOnly, h, [])
  | .cpy h _ a b c _ _ | .cpx h _ a b c _ _ | .cpq h _ a b c _ _ | .cpg h _ a b c _ _ | .cps h _ a b c _ _ =>
      some (.coxOnly, h, [a, b, c])
  | .cpk h _ a b c => some (.coxOnly, h, [a, b, c])
  | .cpr h _ a b c _ _ _ _ _ => some (.coxOnly, h, [a, b, c])
  | .rtacq h _ a => some (.any, h, [a, 0, 0])
  | .nvq h _ a b c => some (.any, h, [a, b, c])
  | .logb h _ a b => some (.any, h, [a, b, 0])
  | .gmld h _ a => some (.job, h, [a])
  | .gmstep h a | .sparm h a => some (.job, h, [a])
  | .gmmask h d a _ => some (.job, h, [d, a])
  | .gmsave h d _ | .gmrest h d _ | .rdtsf h d _ => some (.job, h, [d])
  | .spend h => some (.sporeOnly, h, [])
  | .clreq h _ a b => some (.svcOnly, h, [a, b])
  | .clrel h a => some (.svcOnly, h, [a])
  | .clrd h d a _ => some (.svcOnly, h, [d, a])
  | .halt h => some (.svcOnly, h, [])
  | .killj h a => some (.any, h, [a])
  | _ => none

end Sys2Proof

namespace Sys2Proof

/-! ## The members of some groups of words -/

/-- The loads: header, kind, registers, displacement (Table 12.1). -/
def Instr.loadForm : Instr → Option (CoxH × Machine.LoadKind × SReg × SReg × BitVec 24)
  | .ld h d a i => some (h, ⟨8, false, false, false, true⟩, d, a, i)
  | .ldI8 h d a i => some (h, ⟨1, true, false, false, true⟩, d, a, i)
  | .ldN8 h d a i => some (h, ⟨1, false, false, false, true⟩, d, a, i)
  | .ldI16 h d a i => some (h, ⟨2, true, false, false, true⟩, d, a, i)
  | .ldI32 h d a i => some (h, ⟨4, true, false, false, true⟩, d, a, i)
  | .ldN32 h d a i => some (h, ⟨4, false, false, false, true⟩, d, a, i)
  | .ldAcq h d a i => some (h, ⟨8, false, false, false, false⟩, d, a, i)
  | .ldDom h d a i => some (h, ⟨8, false, true, false, false⟩, d, a, i)
  | .ldAcqDom h d a i => some (h, ⟨8, false, true, true, false⟩, d, a, i)
  | _ => none

/-- The stores. -/
def Instr.storeForm : Instr → Option (CoxH × Machine.StoreKind × SReg × SReg × BitVec 24)
  | .st h d a i => some (h, ⟨8, false, false⟩, d, a, i)
  | .stI8 h d a i => some (h, ⟨1, false, false⟩, d, a, i)
  | .stI16 h d a i => some (h, ⟨2, false, false⟩, d, a, i)
  | .stI32 h d a i => some (h, ⟨4, false, false⟩, d, a, i)
  | .stRel h d a i => some (h, ⟨8, false, true⟩, d, a, i)
  | .stDom h d a i => some (h, ⟨8, true, false⟩, d, a, i)
  | .stRelDom h d a i => some (h, ⟨8, true, true⟩, d, a, i)
  | _ => none

/-- The atomics: header, ordering, the registers named, destination, address, and the new word as a function of the values
of b, of e (the expected value of CAS) and of the old word (Table 12.1). -/
def Instr.amoForm : Instr → Option (CoxH × AmoOrd × List SReg × SReg × SReg × SReg × SReg × (Word → Word → Word → Word))
  | .amoAdd h o d a b => some (h, o, [d, a, b], d, a, b, b, fun v _ x => x + v)
  | .amoAnd h o d a b => some (h, o, [d, a, b], d, a, b, b, fun v _ x => x &&& v)
  | .amoOr h o d a b => some (h, o, [d, a, b], d, a, b, b, fun v _ x => x ||| v)
  | .amoXor h o d a b => some (h, o, [d, a, b], d, a, b, b, fun v _ x => x ^^^ v)
  | .amoMin h o d a b => some (h, o, [d, a, b], d, a, b, b, fun v _ x => if x.toInt ≤ v.toInt then x else v)
  | .amoMax h o d a b => some (h, o, [d, a, b], d, a, b, b, fun v _ x => if x.toInt ≤ v.toInt then v else x)
  | .amoSwap h o d a b => some (h, o, [d, a, b], d, a, b, b, fun v _ _ => v)
  | .cas h o d a b e => some (h, o, [d, a, b, e], d, a, b, e, fun v w x => if x = w then v else x)
  | _ => none

/-- The matrix commands: header, code, token, registers and modifier bits, lowest first (Table 6.1). -/
def Instr.mxForm : Instr → Option (CoxH × BitVec 9 × Tok × SReg × SReg × SReg × BitVec 10)
  | .mxgrp h n => some (h, 0x090, ⟨0, 0⟩, 0, 0, 0, n.setWidth 10)
  | .mxldp h k a b c hi => some (h, 0x091, k, a, b, c, Machine.modBits [hi])
  | .mxswp h k a b g => some (h, 0x092, k, a, b, 0, Machine.modBits [g])
  | .mxevp h k a => some (h, 0x093, k, a, 0, 0, 0)
  | .mxpin h k a u => some (h, 0x094, k, a, 0, 0, Machine.modBits [u])
  | .mxmm h k a b c u x y => some (h, 0x095, k, a, b, c, Machine.modBits [u, x, y])
  | .mxga h k a b c u => some (h, 0x096, k, a, b, c, Machine.modBits [u])
  | .mxdrg h k a b c z => some (h, 0x097, k, a, b, c, Machine.modBits [z])
  | .mxkat h k a b => some (h, 0x099, k, a, b, 0, 0)
  | .mxtsm h k a => some (h, 0x09A, k, a, 0, 0, 0)
  | .mxdir h k a b x => some (h, 0x09B, k, a, b, 0, Machine.modBits [x])
  | _ => none

/-- The copy commands, with the form that says where each is legal (Table 12.4, R259, R329, R331). -/
def Instr.cpForm : Instr → Option (Machine.Form × CoxH × BitVec 9 × Tok × SReg × SReg × SReg × BitVec 10)
  | .msg h k a b c x => some (.any, h, 0x082, k, a, b, c, Machine.modBits [false, x])
  | .cpy h k a b c x y => some (.coxOnly, h, 0x0A0, k, a, b, c, Machine.modBits [x, y])
  | .cpx h k a b c x y => some (.coxOnly, h, 0x0A1, k, a, b, c, Machine.modBits [x, y])
  | .cpk h k a b c => some (.coxOnly, h, 0x0A2, k, a, b, c, 0)
  | .cpq h k a b c x y => some (.coxOnly, h, 0x0A3, k, a, b, c, Machine.modBits [x, y])
  | .cpg h k a b c x y => some (.coxOnly, h, 0x0A4, k, a, b, c, Machine.modBits [x, y])
  | .cps h k a b c x y => some (.coxOnly, h, 0x0A5, k, a, b, c, Machine.modBits [x, y])
  | .cpr h k a b c x f g i m => some (.coxOnly, h, 0x0A6, k, a, b, c, Machine.modBits [false, x, f, g, i, m])
  | .rtacq h k a => some (.any, h, 0x0A8, k, a, 0, 0, 0)
  | .nvq h k a b c => some (.any, h, 0x0AB, k, a, b, c, 0)
  | .logb h k a b => some (.any, h, 0x0B6, k, a, b, 0, 0)
  | _ => none

/-- The words that compute a scalar from registers: header, destination, sources, and the value as a function of the first
two sources (R233 to R238, Table 9.2). -/
def Instr.aluForm : Instr → Option (CoxH × SReg × List SReg × (Word → Word → Word))
  | .add h d a b => some (h, d, [a, b], fun x y => x + y)
  | .addImm h d a i => some (h, d, [a], fun x _ => x + i.signExtend 64)
  | .sub h d a b => some (h, d, [a, b], fun x y => x - y)
  | .mul h d a b => some (h, d, [a, b], fun x y => x * y)
  | .mulImm h d a i => some (h, d, [a], fun x _ => x * i.signExtend 64)
  | .mulh h d a b => some (h, d, [a, b], fun x y => BitVec.ofInt 64 (x.toInt * y.toInt / 2 ^ 64))
  | .div h d a b => some (h, d, [a, b], fun x y => if y = 0 then BitVec.allOnes 64 else BitVec.ofInt 64 (x.toInt.tdiv y.toInt))
  | .rem h d a b => some (h, d, [a, b], fun x y => BitVec.ofInt 64 (x.toInt - x.toInt.tdiv y.toInt * y.toInt))
  | .min h d a b => some (h, d, [a, b], fun x y => if x.toInt ≤ y.toInt then x else y)
  | .max h d a b => some (h, d, [a, b], fun x y => if x.toInt ≤ y.toInt then y else x)
  | .and h d a b => some (h, d, [a, b], fun x y => x &&& y)
  | .andImm h d a i => some (h, d, [a], fun x _ => x &&& i.signExtend 64)
  | .or h d a b => some (h, d, [a, b], fun x y => x ||| y)
  | .orImm h d a i => some (h, d, [a], fun x _ => x ||| i.signExtend 64)
  | .xor h d a b => some (h, d, [a, b], fun x y => x ^^^ y)
  | .xorImm h d a i => some (h, d, [a], fun x _ => x ^^^ i.signExtend 64)
  | .shl h d a b => some (h, d, [a, b], fun x y => BitVec.ofNat 64 (x.toNat * 2 ^ (y.toNat % 64)))
  | .shlImm h d a c => some (h, d, [a], fun x _ => BitVec.ofNat 64 (x.toNat * 2 ^ c.toNat))
  | .shr h d a b => some (h, d, [a, b], fun x y => BitVec.ofNat 64 (x.toNat / 2 ^ (y.toNat % 64)))
  | .shrImm h d a c => some (h, d, [a], fun x _ => BitVec.ofNat 64 (x.toNat / 2 ^ c.toNat))
  | .sar h d a b => some (h, d, [a, b], fun x y => BitVec.ofInt 64 (x.toInt / 2 ^ (y.toNat % 64)))
  | .sarImm h d a c => some (h, d, [a], fun x _ => BitVec.ofInt 64 (x.toInt / 2 ^ c.toNat))
  | .clz h d a => some (h, d, [a], fun x _ => BitVec.ofNat 64 (Machine.leadingZeros x 64))
  | .popc h d a => some (h, d, [a], fun x _ => BitVec.ofNat 64 (Machine.setBits x 64))
  | .bfx h d a p l => some (h, d, [a], fun x _ => BitVec.ofNat 64 (x.toNat / 2 ^ p.toNat % 2 ^ (l.toNat + 1)))
  | .bfi h d a b p l => some (h, d, [a, b], fun x y => Machine.withField y p.toNat (l.toNat + 1) x.toNat)
  | .ldi h d i => some (h, d, [], fun _ _ => i.signExtend 64)
  | .ldih h d i => some (h, d, [d], fun x _ => BitVec.ofNat 64 (i.toNat * 2 ^ 30 + x.toNat % 2 ^ 30))
  | _ => none

/-- The access and vector words: whether the word is the vector stream's, and its header. -/
def Instr.laneHead : Instr → Option (Bool × LaneH)
  | .amv h _ _ | .aadd h _ _ _ | .amul h _ _ _ | .ald h _ _ _ | .alds h _ _ _ | .ast h _ _ _ | .asts h _ _ _
  | .agth h _ _ _ _ | .asct h _ _ _ _ | .apf h _ _ | .astx h _ _ _ _ _ | .aldb h _ _ _ | .awf h _ | .aloop h _ _
  | .aarm h _ _ | .acall h _ | .accJoin h => some (false, h)
  | .vadd h _ _ _ _ | .vsub h _ _ _ _ | .vmul h _ _ _ _ | .vfma h _ _ _ _ _ | .vmin h _ _ _ _ | .vmax h _ _ _ _
  | .vabs h _ _ _ | .vneg h _ _ _ | .vexp2 h _ _ _ | .vlog2 h _ _ _ | .vrcp h _ _ _ | .vrsq h _ _ _ | .vtanh h _ _ _
  | .vsigm h _ _ _ | .vand h _ _ _ | .vor h _ _ _ | .vxor h _ _ _ | .vmov h _ _ | .vsel h _ _ _ _ | .viota h _ _
  | .vshl h _ _ _ _ | .vshr h _ _ _ _ | .vcmp h _ _ _ _ _ | .vcvt h _ _ _ | .vcvta h _ _ _ _ | .vcvts h _ _ _
  | .vqnt h _ _ _ | .vdqnt h _ _ _ | .vrsum h _ _ _ | .vrmax h _ _ _ | .vargm h _ _ _ | .vamxr h _ _ | .vperm h _ _ _
  | .vrot h _ _ _ | .vlpsh h _ | .vlpop h _ _ | .vlcnt h _ | .vrng h _ _ | .vshrt h _ _ _ _ _ | .vmsk h _
  | .vkand h _ _ _ | .vkor h _ _ _ | .vknot h _ _ | .vkpop h _ _ | .vrank h _ _ _ | .vselb h _ _ _ | .vloop h _ _ _
  | .varm h _ _ | .vecJoin h => some (true, h)
  | _ => none

/-- The vector words that compute each container from the same containers of their sources: header, operands, and the
value as a function of the source values in order (R158 to R162, R164, Tables 7.2 and 7.3). -/
def Instr.lanesForm : Instr → Option (LaneH × Machine.VForm × (List Nat → Nat))
  | .vadd h ty D A B => some (h, .typed (Machine.arTy ty).w16 [A, B] (some D),
      fun l => Machine.laneAdd (Machine.arTy ty) (l.getD 0 0) (l.getD 1 0))
  | .vsub h ty D A B => some (h, .typed (Machine.arTy ty).w16 [A, B] (some D),
      fun l => Machine.laneSub (Machine.arTy ty) (l.getD 0 0) (l.getD 1 0))
  | .vmul h ty D A B => some (h, .typed (Machine.arTy ty).w16 [A, B] (some D),
      fun l => Machine.laneMul (Machine.arTy ty) (l.getD 0 0) (l.getD 1 0))
  | .vfma h ty D A B C => some (h, .typed (Machine.LaneTy.float (Machine.flTy ty)).w16 [A, B, C] (some D),
      fun l => Machine.laneFma (Machine.flTy ty) (l.getD 0 0) (l.getD 1 0) (l.getD 2 0))
  | .vmin h ty D A B => some (h, .typed (Machine.mmTy ty).w16 [A, B] (some D),
      fun l => Machine.laneMinMax false (Machine.mmTy ty) (l.getD 0 0) (l.getD 1 0))
  | .vmax h ty D A B => some (h, .typed (Machine.mmTy ty).w16 [A, B] (some D),
      fun l => Machine.laneMinMax true (Machine.mmTy ty) (l.getD 0 0) (l.getD 1 0))
  | .vabs h ty D A => some (h, .typed (Machine.arTy ty).w16 [A] (some D),
      fun l => Machine.laneAbs (Machine.arTy ty) (l.getD 0 0))
  | .vneg h ty D A => some (h, .typed (Machine.arTy ty).w16 [A] (some D),
      fun l => Machine.laneNeg (Machine.arTy ty) (l.getD 0 0))
  | .vexp2 h ty D A => some (h, .typed (Machine.LaneTy.float (Machine.flTy ty)).w16 [A] (some D),
      fun l => Machine.Fun.exp2.apply (Machine.flTy ty) (l.getD 0 0))
  | .vlog2 h ty D A => some (h, .typed (Machine.LaneTy.float (Machine.flTy ty)).w16 [A] (some D),
      fun l => Machine.Fun.log2.apply (Machine.flTy ty) (l.getD 0 0))
  | .vrcp h ty D A => some (h, .typed (Machine.LaneTy.float (Machine.flTy ty)).w16 [A] (some D),
      fun l => Machine.Fun.rcp.apply (Machine.flTy ty) (l.getD 0 0))
  | .vrsq h ty D A => some (h, .typed (Machine.LaneTy.float (Machine.flTy ty)).w16 [A] (some D),
      fun l => Machine.Fun.rsq.apply (Machine.flTy ty) (l.getD 0 0))
  | .vtanh h ty D A => some (h, .typed (Machine.LaneTy.float (Machine.flTy ty)).w16 [A] (some D),
      fun l => Machine.Fun.tanh.apply (Machine.flTy ty) (l.getD 0 0))
  | .vsigm h ty D A => some (h, .typed (Machine.LaneTy.float (Machine.flTy ty)).w16 [A] (some D),
      fun l => Machine.Fun.sigm.apply (Machine.flTy ty) (l.getD 0 0))
  | .vshl h ty D A B => some (h, .typed (Machine.shlTy ty).w16 [A, B] (some D),
      fun l => Machine.laneShl (match ty with | .i32 => 32 | .i16 => 16) (l.getD 0 0) (l.getD 1 0))
  | .vshr h ty D A B => some (h, .typed (Machine.shrTy ty).w16 [A, B] (some D),
      fun l => Machine.laneShr (Machine.shrTy ty) (l.getD 0 0) (l.getD 1 0))
  | _ => none

/-- The vector words whose result row is a function of their whole source rows: header, operands, the width of element 0
for rq, and the row, which may depend on ACT.W16 (R163, R170 to R174, R187) (DEDUCED, assumption log 65). -/
def Instr.rowForm : Instr → Option (LaneH × Machine.VForm × (Bool → Nat) × (Bool → List Row → Row))
  | .vand h D A B => some (h, .both [A, B] (some D), Machine.widthOf, fun _ l => l.getD 0 0 &&& l.getD 1 0)
  | .vor h D A B => some (h, .both [A, B] (some D), Machine.widthOf, fun _ l => l.getD 0 0 ||| l.getD 1 0)
  | .vxor h D A B => some (h, .both [A, B] (some D), Machine.widthOf, fun _ l => l.getD 0 0 ^^^ l.getD 1 0)
  | .vmov h D A => some (h, .both [A] (some D), Machine.widthOf, fun _ l => l.getD 0 0)
  | .vqnt h f D A => some (h, (Machine.VForm.both [A] (some D)).across, fun _ => 8,
      fun w l => Machine.quantRow (Machine.qFmt f) w (l.getD 0 0))
  | .vdqnt h f D A => some (h, (Machine.VForm.typed false [A] (some D)).across, fun _ => 32,
      fun _ l => Machine.dequantRow (Machine.qFmt f) (l.getD 0 0))
  | .vrsum h ty D A => some (h, (Machine.VForm.typed (Machine.rdTy ty).w16 [A] (some D)).across, Machine.widthOf, fun w l =>
      Machine.broadcast w (Machine.laneSum (Machine.rdTy ty) (Machine.elems (Machine.widthOf w) (Machine.lanesOf w) (l.getD 0 0))))
  | .vrmax h ty D A => some (h, (Machine.VForm.typed (Machine.rdTy ty).w16 [A] (some D)).across, Machine.widthOf, fun w l =>
      Machine.broadcast w (Machine.canonical (Machine.rdTy ty)
        (Machine.topRanked (Machine.rdTy ty) (Machine.elems (Machine.widthOf w) (Machine.lanesOf w) (l.getD 0 0))).2))
  | .vargm h ty D A => some (h, (Machine.VForm.typed (Machine.rkTy ty).w16 [A] (some D)).across, Machine.widthOf, fun w l =>
      Machine.broadcast w
        (Machine.topRanked (Machine.rkTy ty) (Machine.elems (Machine.widthOf w) (Machine.lanesOf w) (l.getD 0 0))).1)
  | .vperm h D A B => some (h, (Machine.VForm.both [A, B] (some D)).across, Machine.widthOf, fun w l =>
      Machine.rowOf (Machine.widthOf w) ((List.range (Machine.lanesOf w)).map fun i =>
        if Machine.elem (Machine.widthOf w) (l.getD 1 0) i < Machine.lanesOf w then
          Machine.elem (Machine.widthOf w) (l.getD 0 0) (Machine.elem (Machine.widthOf w) (l.getD 1 0) i)
        else 0))
  | .vrank h D A B => some (h, (Machine.VForm.both [A, B] (some D)).across, Machine.widthOf, fun w l =>
      Machine.rowOf (Machine.widthOf w) ((List.range (Machine.lanesOf w)).map fun i =>
        ((Machine.bitPositions (l.getD 0 0)).filter fun p =>
          decide (p < Machine.elem (Machine.widthOf w) (l.getD 1 0) i)).length))
  | .vselb h D A B => some (h, (Machine.VForm.both [A, B] (some D)).across, Machine.widthOf, fun w l =>
      Machine.rowOf (Machine.widthOf w) ((List.range (Machine.lanesOf w)).map fun i =>
        ((Machine.bitPositions (l.getD 0 0))[Machine.elem (Machine.widthOf w) (l.getD 1 0) i]?).getD
          (2 ^ Machine.widthOf w - 1)))
  | _ => none

/-- The operands of every vector word but VMSK, VLOOP, VARM and JOIN, and the lane widths in which it is legal (Tables 7.2 and
7.3). -/
def Instr.vecOperands (i : Instr) : Option Machine.VForm :=
  match i with
  | .vsel _ D A B _ => some (.both [A, B] (some D))
  | .viota _ D _ | .vkpop _ D _ | .vlpop _ D _ | .vlcnt _ D | .vamxr _ D _ => some (.both [] (some D))
  | .vcmp _ _ ty _ A B => some (.typed (Machine.mmTy ty).w16 [A, B] none)
  | .vcvt _ f D A => some ((Machine.cvtOf f).form A D)
  | .vcvta _ f D A _ => some ((Machine.cvtaOf f).form A D)
  | .vcvts _ f q A => some ((Machine.cvtsOf f).form A (BitVec.ofNat 9 (0x108 + q.toNat)))
  | .vrot _ D A _ => some (Machine.VForm.both [A] (some D)).across
  | .vlpsh _ A => some (.both [A] none)
  | .vrng _ D l => some (.both l.toList (some D))
  | .vshrt _ ty D A B C => some (Machine.VForm.typed (Machine.rkTy ty).w16 [A, B, C] (some D)).across
  | .vkand _ _ _ _ | .vkor _ _ _ _ | .vknot _ _ _ => some (.both [] none)
  | i =>
    match i.lanesForm, i.rowForm with
    | some x, _ => some x.2.1
    | none, some x => some x.2.1
    | none, none => none

end Sys2Proof

namespace Sys2Proof.Machine

/-! ## Checks that a lane word has wherever it stands (R59, R60) -/

/-- The class 1 checks that a vector word has beside its operands': a mask destination other than k0, VROT's lane count. -/
def State.vecFields (s : State) (j : Nat) (i : Instr) : Bool :=
  match i with
  | .vcmp _ _ _ k _ _ | .vkand _ k _ _ | .vkor _ k _ _ | .vknot _ k _ | .vlpop _ _ k | .vmsk _ k => k != 0
  | .vrot _ _ _ n => decide (n.toNat < lanesOf (s.w16 j))
  | _ => true

/-- What a skipped lane word is checked for: its class 1 checks (lane width, run, mask destination, loop and arm bounds, JOIN
inside a level) and its class 2 checks (directions and targets of queues). -/
def State.skipChecks (s : State) (j : Nat) (i : Instr) : Bool × Bool :=
  match i with
  | .ald _ t _ _ | .alds _ t _ _ | .agth _ t _ _ _ => (true, decide (t.toNat < 4))
  | .ast _ t _ _ | .asts _ t _ _ | .asct _ t _ _ _ | .astx _ _ t _ _ _ => (true, decide (t = 4 ∨ t = 5))
  | .aloop _ lvl n => (loopLegal (s.acc j).frames lvl.toNat n.toNat (s.acc j).run.pc, true)
  | .vloop _ lvl n1 _ => (loopLegal (s.vec j).frames lvl.toNat (n1.toNat + 1) (s.vec j).run.pc, true)
  | .aarm _ n lens => (armLegal (s.acc j).frames n.toNat lens (s.acc j).run.pc, true)
  | .varm _ n lens => (armLegal (s.vec j).frames n.toNat lens (s.vec j).run.pc, true)
  | .accJoin _ => ((s.acc j).frames.isEmpty, true)
  | .vecJoin _ => ((s.vec j).frames.isEmpty, true)
  | i =>
    match i.vecOperands with
    | some f => (s.vecOk1 f j && s.vecFields j i, f.ok2)
    | none => (s.vecFields j i, true)

/-! ## Rows that the access stream moves (R279, R307, R308, R310) -/

/-- A word that moves one row: its header and target, the side on which the bytes lie, the stream after its post-increment,
its checks, the places and the addresses of its pieces, and whether it loads. -/
structure RowMove where
  h : LaneH
  t : BitVec 5
  side : Side
  after : Acc
  chk : Chk
  pieces : List (Nat × Nat)
  vas : List Word
  load : Bool

/-- The row words of job j: ALD and AST at a device address, ALDS and ASTS at a scratchpad offset, AGTH and ASCT by their
index table. -/
def State.rowMove (s : State) (j : Nat) (i : Instr) : Option RowMove :=
  let x := s.acc j
  match i with
  | .ald h t b m =>
    let p := x.address b m
    some ⟨h, t, .dev, p.2, s.chkRow j .load p.1, s.places j .load (piecesOf p.1 1024), rowAddrs p.1, true⟩
  | .alds h t b m =>
    let p := x.address b m
    some ⟨h, t, .spad, p.2, s.chkSpad j p.1 true, spadPieces p.1, rowAddrs p.1, true⟩
  | .agth h t b i m =>
    let p := x.gaddress b m
    let k := s.indexMove j .load p.1 (x.a i)
    some ⟨h, t, .dev, p.2, k.1, k.2.1, k.2.2, true⟩
  | .ast h t b m =>
    let p := x.address b m
    some ⟨h, t, .dev, p.2, s.chkRow j .store p.1, s.places j .store (piecesOf p.1 1024), rowAddrs p.1, false⟩
  | .asts h t b m =>
    let p := x.address b m
    some ⟨h, t, .spad, p.2, s.chkSpad j p.1 false, spadPieces p.1, rowAddrs p.1, false⟩
  | .asct h t b i m =>
    let p := x.gaddress b m
    let k := s.indexMove j .store p.1 (x.a i)
    some ⟨h, t, .dev, p.2, k.1, k.2.1, k.2.2, false⟩
  | _ => none

/-! ## A thread's turn (assumption logs 1 and 41) -/

/-- The schedule gives thread `t` its turn, in the state s0: the next planned turn is the thread's, or nothing is planned and
the thread is the current one, whose turn in this cycle is still to come. -/
def GivesTurn (s s0 : State) (t : Thread) : Prop :=
  (∃ r, s.sched = .thread t :: r ∧ s0 = { s with sched := r, slow := false, cur := t }) ∨
  (∃ r, s.sched = .slow t :: r ∧ s0 = { s with sched := r, slow := true, cur := t }) ∨
  (s.sched = [] ∧ s.cur = t ∧ s.turned t = false ∧ s0 = { s with slow := false })

/-- The thread has a local cycle, and no stream has issued at its cox issue port in it (R205, R222). -/
structure HasCycle (s : State) (t : Thread) : Prop where
  may : s.mayRun t = true
  port : ∀ j, (t = .cox j ∨ ∃ k, t = .spore j k) → s.portUsed j = false

/-- The thread, whose local cycle has begun, comes to the word `w` with `w2` after it, which is due; `u` is the state after
its fetch. -/
structure ComesTo (s : State) (t : Thread) (w w2 : Word) (u : State) : Prop where
  record : ∀ j, t = .cox j → s.deliverable j = none
  trap : ∀ n, t = .svc n → s.trapReady n = false
  ready : (s.stream t).status = .ready
  fetch : s.fetch t = (.ok, w, w2, u)
  due : u.due t w = true

/-! ## When a word has its own effect (R60, R61) -/

/-- The outcome is a next state. -/
def Goes (o : Out) : Prop := ∃ u, o = .next u

/-- Thread `t` has reached a cox word that is legal for it and whose predicate holds. -/
structure Issues (s : State) (t : Thread) (f : Form) (h : CoxH) (regs : List SReg) : Prop where
  cur : s.cur = t
  legal : f.legal t regs = true
  mode : f.priv = true → t.isSvc = true
  pred : ((s.cox t).pred h.bl.toNat h.pred).1 = true

/-- Thread `t` has reached a cox word that is legal for it and whose predicate does not hold. -/
structure Suppressed (s : State) (t : Thread) (f : Form) (h : CoxH) (regs : List SReg) : Prop where
  cur : s.cur = t
  legal : f.legal t regs = true
  mode : f.priv = true → t.isSvc = true
  pred : ((s.cox t).pred h.bl.toNat h.pred).1 = false

/-- The access stream of job j has reached a word that its iteration flags let issue (R213). -/
structure AccReaches (s : State) (j : Nat) (h : LaneH) : Prop where
  cur : s.cur = .acc j
  flag : flagOf h (s.acc j).frames = .issue

/-- The access stream of job j issues a word that pops no call: nothing that it names keeps it waiting. -/
structure AccIssues (s : State) (j : Nat) (h : LaneH) (p : Bool) : Prop where
  reaches : AccReaches s j h
  pred : (s.acc j).pred h.pred = p

/-- The vector stream of job j has reached a word that its iteration flags let issue. -/
structure VecReaches (s : State) (j : Nat) (h : LaneH) : Prop where
  cur : s.cur = .vec j
  flag : flagOf h (s.vec j).frames = .issue

/-- The vector stream issues a word of form `f`: the checks of R60 pass, no queue that it names keeps it waiting, no
window replays its rows, and no element that it reads is poisoned. -/
structure VecIssues (s : State) (j : Nat) (h : LaneH) (f : VForm) : Prop where
  reaches : VecReaches s j h
  ok1 : s.vecOk1 f j = true
  ok2 : f.ok2 = true
  head : s.vecHead f j = true
  queues : s.vecStall f j = false
  replay : s.replayStall f j = false
  clean : s.vecPoison f j ((s.vec j).pred h.pred) = false

/-! ## Results of cox words (R216, R217) -/

/-- The value that a word of header `h` reads for register `r`: a valid shadow of its boost level, else the register. -/
def State.srcOf (s : State) (t : Thread) (h : CoxH) (r : SReg) : Word := ((s.cox t).src h.bl.toNat r).1

/-- The poison that the sources and the predicate of a word pass on (DEDUCED, assumption log 44). -/
def State.poisonOf (s : State) (t : Thread) (h : CoxH) (srcs : List SReg) : Option Poison :=
  (((s.cox t).pred h.bl.toNat h.pred).2 :: srcs.map fun r => ((s.cox t).src h.bl.toNat r).2).findSome? id

/-- Value `v` goes to register `d`, or to its shadow under a boost level, and the next word follows. -/
def State.putResult (s : State) (t : Thread) (h : CoxH) (d : SReg) (srcs : List SReg) (v : Word) : State :=
  (s.setCox t ((s.cox t).put h.bl.toNat d v (s.poisonOf t h srcs))).next t

/-! ## What stays as it was -/

/-- Every byte of device memory and of other devices reads as before. -/
def SameMemory (s u : State) : Prop := ∀ a n, u.rawRead a n = s.rawRead a n

/-- The LLC slices hold lines of DRAM, and every clean one stands in DRAM under the key in force for it, so that it reads as
before when it leaves its way (R357, R359). -/
def State.Steady (s : State) : Prop :=
  ∀ i k l, (s.slice i).ways.get k none = some l → l.num < 2 ^ 31 ∧ (l.dirty = true ∨ l.key = s.lineKey (128 * l.num))

/-- A word that loads but stores nothing leaves every byte as it was, in a steady state: the line that it brings into an LLC
slice may send another one out. -/
def KeepsMemory (s u : State) : Prop := s.Steady → SameMemory s u

/-- Every scratchpad byte and every accumulator row of every core reads as before. -/
def SameLocal (s u : State) : Prop :=
  ∀ g, (u.core g).spad = (s.core g).spad ∧ (u.core g).tile = (s.core g).tile

/-- Every register of thread `t` but those in `l` reads as before. -/
def SameRegs (s u : State) (t : Thread) (l : List SReg) : Prop := ∀ r, r ∉ l → u.reg t r = s.reg t r

/-- The registers, predicates, shadows and return stack of every other cox stream are as before. -/
def SameOthers (s u : State) (t : Thread) : Prop := ∀ t', Thread.key t' ≠ Thread.key t → u.cox t' = s.cox t'

/-- The streams, their registers and masks of every access and vector stream are as before. -/
def SameLanes (s u : State) : Prop := (∀ j, u.acc j = s.acc j) ∧ ∀ j, u.vec j = s.vec j

/-- What belongs to homes, service cores, partitions, crews and the package outside memory is as before. -/
def SameSystem (s u : State) : Prop :=
  (∀ h, u.ctx h = s.ctx h) ∧ (∀ n, u.svc n = s.svc n) ∧ (∀ p, u.part p = s.part p) ∧
    (∀ c, u.crew c = s.crew c) ∧ u.evl1 = s.evl1 ∧ u.hams = s.hams ∧ u.fotb = s.fotb

/-! ## Packets (R200 to R204, R424) -/

/-- The event of the packet kinds of Table 8.5; LAUNCH_PACKET also takes up a packet of an unknown kind. -/
def packetEvent (kind p q : Nat) : Instr :=
  if kind = 2 then .fencePacket p q else if kind = 3 then .signalPacket p q else if kind = 4 then .nodePacket p q
  else if kind = 5 then .logbPacket p q else .launchPacket p q

/-- The address of the packet at the head of a queue whose ring is held in the pages `l`. -/
def Queue.headAddr (x : Queue) (l : List Nat) : Nat := ringAddr l x.logn x.head

/-- The parser has its turn at the packet `w` of kind `kind` at the head of queue q of partition p, which no one has begun. -/
structure PacketReady (s : State) (p q kind : Nat) (w : List Word) (l : List Nat) : Prop where
  runs : (s.queue p q).state = 1 ∨ (s.queue p q).state = 2
  words : s.headWords (s.queue p q) = w
  head : s.headKind (s.queue p q) = kind
  written : kind ≠ 0
  fresh : (s.queue p q).parse = .idle
  unread : (s.queue p q).got = []
  next : s.parserNext (s.queue p q).die = some (16 * p + q)
  once : (s.die (s.queue p q).die).parsed ≠ s.now + 1
  ring : (s.queue p q).ring = some l

/-- The packet is read in one turn, in hardware mode, and passes the checks of R201. -/
structure PacketGood (s : State) (p q kind : Nat) (w : List Word) (l : List Nat) : Prop where
  ready : PacketReady s p q kind w l
  plain : s.slow = false
  hardware : s.assisted 1 = false
  there : s.placeFault p true ((s.queue p q).headAddr l) = none
  clean : s.poisoned ((s.queue p q).headAddr l) (if kind ≤ 5 then 256 else 16) = false
  checks : packetCheck w = 0

/-- The packet at the head of queue q of partition p is done: HEAD advances, the header is zero, the queue stays as it is. -/
def Consumed (s u : State) (p q : Nat) (l : List Nat) : Prop :=
  (u.queue p q).head = ((s.queue p q).head + 1) % 2 ^ 16 ∧ (u.queue p q).tail = (s.queue p q).tail ∧
    (u.queue p q).parse = .idle ∧ (u.queue p q).state = (s.queue p q).state ∧
    (s.memWf = true → s.fotFrames ((s.queue p q).headAddr l) 8 = [] → u.readWord ((s.queue p q).headAddr l) = 0)

/-- The queue has stopped in ERROR at its head packet with a cause. -/
def StopsInError (s u : State) (p q cause : Nat) : Prop :=
  (u.queue p q).state = 4 ∧ fieldOf (u.queue p q).d1 60 4 = cause ∧ (u.queue p q).head = (s.queue p q).head ∧
    (u.queue p q).parse = .idle

/-! ## Copy commands (R318, R319) -/

/-- No command of home h is over that has not completed: each completes in the step in which its writes have performed. -/
def State.NoneOver (s : State) (h : Nat) : Prop := ∀ x ∈ (s.ctx h).copies, x.phase = .done → s.acked x.cmd = false

/-- Between the contexts `c` and `u`, whose tokens counted `tok` before, the command of `x` has signalled its token and
written CPST (Table 12.3). -/
def CopyEnded (c : Ctx) (tok : Nat → BitVec 16) (x : Copy) (u : Ctx) : Prop :=
  fieldOf u.cpst 0 4 = x.st.toNat ∧ fieldOf u.cpst 8 1 = (if x.st ≠ 0 then 1 else fieldOf c.cpst 8 1) ∧
    fieldOf u.cpst 40 8 = x.cmd.opc.toNat % 2 ^ 8 ∧ fieldOf u.cpst 48 16 = x.cmd.seq % 2 ^ 16 ∧
    ∀ k, u.token k = if x.cmd.tok.sig ≠ 0 ∧ k = x.cmd.tok.sig.toNat then BitVec.ofNat 16 (Min.min 65535 ((tok k).toNat + 1))
      else tok k

/-- Behind a step from `s` to `u` the command of home h stands as `y`; if it is over and its writes have performed, it has
completed in that step. -/
def CopyBecomes (s u : State) (h : Nat) (y : Copy) : Prop :=
  (y.phase ≠ .done ∨ u.acked y.cmd = false →
    (u.ctx h).copies = setCopy (s.ctx h).copies y ∧ (u.ctx h).cpst = (s.ctx h).cpst ∧ (u.ctx h).tokens = (s.ctx h).tokens) ∧
  (y.phase = .done → u.acked y.cmd = true →
    (u.ctx h).copies = dropCopyOf (setCopy (s.ctx h).copies y) y ∧
      (y.gen = (s.ctx h).gen → CopyEnded (s.ctx h) (s.ctx h).token y (u.ctx h)))

/-- Command x of home h is the one that the next COPY_CHUNK of the home goes on with, and no other carries its name. -/
structure ChunkOf (s : State) (h : Nat) (x : Copy) : Prop where
  only : s.chunkCands h = [x]
  home : x.cmd.forker.home = h
  calm : s.NoneOver h
  own : (s.ctx h).copies.filter (fun y => y.cmd.seq == x.cmd.seq && y.gen == x.gen) = [x]

/-- The state in which a turn of home h accesses memory: the engine of a core serves the context. -/
def State.chunkState (s : State) (h : Nat) : State :=
  if h < 1024 then State.served { s with free := s.free + 1 } h else { s with free := s.free + 1 }

/-- The command in its turn: a chunk that begins there counts from what has been moved. -/
def Copy.inTurn (x : Copy) : Copy := if x.inChunk then x else { x with mark := x.moved }

/-- The next step of a chunk of home h leaves command `y`. -/
def ChunkTo (s : State) (h : Nat) (y : Copy) (also : State → Prop) : Prop :=
  ∃ u, exec (.copyChunk h) s = .next u ∧ CopyBecomes s u h y ∧ also u

/-- The next step of a chunk stops command x of a job's cpq, and with it the cpq (R321). -/
def ChunkStops (s : State) (h : Nat) (x : Copy) : Prop :=
  ∃ u, exec (.copyChunk h) s = .next u ∧ (u.ctx h).cpStop = true ∧ { x.inTurn with stopped := true } ∈ (u.ctx h).copies

/-- The turn of command x reads the piece of its source at byte p, `n` bytes at most, behind its buffer; a job's command
stops before a piece that fails its check (R318, R321). -/
def ReadsPiece (s : State) (h : Nat) (x : Copy) (p n : Nat) : Prop :=
  let (l, r) := x.srcAt p
  let k := Nat.min r n
  let s1 := s.chunkState h
  (s1.locChk h .load l k = .ok →
    ChunkTo s h { x.inTurn with buf := x.buf ++ (s1.locRead h l k).1 } (KeepsMemory s)) ∧
  (∀ e va, h < 1024 → x.isFill = false → s1.locChk h .load l k = .bad e va → ChunkStops s h x)

/-- Between `s` and `u` a command of home h has written the bytes `b` at a place, and no other byte of device memory: a
remote piece is posted (R318). -/
def PieceWritten (s u : State) (h : Nat) (x : Copy) (l : Loc) (b : List Byte) : Prop :=
  match l with
  | .spad off => SameMemory s u ∧ (h < 1024 → s.memWf = true → u.spadRead h off b.length = b)
  | .dev q va =>
    let ra := (s.chunkState h).engAddr h q .store va
    (ra < 2 ^ 40 → u.posted = s.posted ∧ (s.memWf = true → s.fotFrames ra b.length = [] → u.rawRead ra b.length = b ∧
      (s.Steady → ∀ a, a < ra ∨ ra + b.length ≤ a → u.rawRead a 1 = s.rawRead a 1))) ∧
    (2 ^ 40 ≤ ra → SameMemory s u ∧ ∃ p, u.posted = s.posted ++ [p] ∧ p.who = x.cmd.forker ∧
      p.eng = some x.cmd.number ∧ p.addr = ra ∧ p.bytes = b)
  | _ => SameMemory s u ∧ SameLocal s u

/-- The place at an offset from the base address of a source or a destination. -/
def placeAt (spad : Bool) (base : Word) (o : Nat) : Loc :=
  if spad then .spad (base.toNat + o) else .dev none (base + BitVec.ofNat 64 o)

/-! ## The entry port of an array (R89, R98) -/

/-- The command `m` at the head of the lease holder of crew c passes the entry port now; no replay goes before it. -/
structure PortServes (s : State) (c : Nat) (l : Lease) (m : Mx) : Prop where
  lease : (s.crew c).lease = some l
  home : crewOf l.job = c
  entry : s.entryOpen c = true
  lasts : l.over = false
  first : (s.ctx l.job).redo = none
  head : (s.ctx l.job).mx = some m
  fresh : m.finished = false

/-- A directory command of context h has entered with a status: it has left the head and completes 511 cycles later. -/
def EntersWith (s u : State) (h : Nat) (m : Mx) (st : BitVec 4) : Prop :=
  { m with status := st, due := s.crewNow (crewOf h) + 511, pos := 1 } ∈ (u.ctx h).mxTail ∧ (u.ctx h).mx = none ∧
    (u.crew (crewOf h)).portFree = s.crewNow (crewOf h) + 1

/-- The directory of crew c is as before. -/
def SameDirectory (s u : State) (c : Nat) : Prop :=
  (∀ i, (u.crew c).entry i = (s.crew c).entry i) ∧ ∀ i, (u.crew c).plane i = (s.crew c).plane i

end Sys2Proof.Machine
end

