-- ==== Sys2Proof/Certificates/Slice0/Obligations.lean ====
section
/-! DEFINITION. Certificates/Slice0/Obligations.lean: the statements for the provers. -/

open Sys2Proof Sys2Proof.Machine

/-! ## Encodings and the step -/

/-- Every well-formed cox word is read back by the decoder from the word that the encoder writes (R46 to R60). Every
well-formed ACC or VEC word is read back by the decoder; VARM and AARM with their arm-length word (R55). -/
def Obligations.WordsRoundTrip : Prop :=
  (∀ (i : Instr) (next : Word), i.wellFormed = true → i.map = some .cox →
    decode .cox ((encode i).getD 0 0) next = .ok i) ∧
  (∀ (m : OpMap) (i : Instr) (next : Word), m ≠ .cox → i.wellFormed = true → i.map = some m →
    (i.words = 2 → next = (encode i).getD 1 0) → decode m ((encode i).getD 0 0) next = .ok i)

/-- A word that a stream accepts is the encoding of what it is read as: no bit is passed over, no reserved field may
hold anything but zero (R48), and the instruction belongs to the stream's own map (R56). -/
def Obligations.AcceptedWordsAreEncodings : Prop :=
  ∀ (m : OpMap) (w next : Word) (i : Instr), decode m w next = .ok i →
    i.map = some m ∧ i.wellFormed = true ∧ (encode i).getD 0 0 = w ∧ (i.words = 2 → (encode i).getD 1 0 = next)

/-- Words written out from Tables 3.1 to 3.9: ADD s3, s1, s2; LDI s5, 7; CMP.eq p1, s5, s0; ST s2, [s4 + 8]; MXSWP with
wait token 2 and signal token 3 of s1, s2 under `grad`; CPY s1, s2, s3; AADD a1, a2, 16; VADD.f32 v1, v2, v3; JOIN of
VEC. -/
def Obligations.WordsDecode : Prop :=
  decode .cox 0x00000000C1080000 0 = .ok (.add ⟨0, 0, 0⟩ 3 1 2) ∧
  decode .cox 0x0000025140000007 0 = .ok (.ldi ⟨0, 0, 0⟩ 5 7) ∧
  decode .cox 0x0000018045000000 0 = .ok (.cmp ⟨0, 0, 0⟩ .eq 1 5 0) ∧
  decode .cox 0x0000039084000008 0 = .ok (.st ⟨0, 0, 0⟩ 2 4 8) ∧
  decode .cox 0x0000092230420001 0 = .ok (.mxswp ⟨0, 0, 0⟩ ⟨2, 3⟩ 1 2 true) ∧
  decode .cox 0x00000A0000420C00 0 = .ok (.cpy ⟨0, 0, 0⟩ ⟨0, 0⟩ 1 2 3 false false) ∧
  decode .acc 0x0000001088110010 0 = .ok (.aadd ⟨0, 0, 0, 0⟩ 1 2 (.imm 16)) ∧
  decode .vec 0x0000000008080600 0 = .ok (.vadd ⟨0, 0, 0, 0⟩ .f32 1 2 3) ∧
  decode .vec 0x0000102000000000 0 = .ok (.vecJoin ⟨0, 0, 0, 0⟩)

/-- A turn of a thread whose word is due runs exactly the instruction that the word decodes to: the step is exec of that
instruction, after the turn has been taken from the schedule, the local cycle counted, the word fetched and the loads
that had not performed yet been performed where the word has to follow them (R207, R222, R280; the schedule is the
model's own, logs 1 and 89). A planned event is run as it stands, plain or slow; a planned cycle passes; with nothing planned a thread
that has had its turn in this cycle goes on in the next. The word that a thread fetches is the one at its pc, at the
address that its translation for fetching gives, in memory unless a cache keeps the line as it was before a change of
keys (R357, log 104); inside an open loop body a word that the replay-buffer share holds is taken from there. A word
that does not decode raises class 1 in its stream, once its queue stalls have ended (R57, R59, R60, R212). -/
def Obligations.StepRunsDecoded : Prop :=
  ((∀ (s s0 u : State) (t : Thread) (w w2 : Word) (i : Instr), GivesTurn s s0 t → HasCycle s0 t →
    ComesTo (s0.startTurn t) t w w2 u → decode (Thread.map t) w w2 = .ok i →
    step s = exec i (u.landFor t i)) ∧
  (∀ (s : State) (r : List Turn) (i : Instr), s.sched = .event i :: r → i.map = none → i.wellFormed = true →
    step s = exec i { s with sched := r, slow := false }) ∧
  (∀ (s : State) (r : List Turn) (i : Instr), s.sched = .slowEvent i :: r → i.map = none → i.wellFormed = true →
    step s = exec i { s with sched := r, slow := true }) ∧
  (∀ (s : State) (r : List Turn), s.sched = .cycle :: r →
    step s = .next (State.passCycle { s with sched := r, slow := false })) ∧
  (∀ s : State, s.sched = [] → s.turned s.cur = true →
    step s = threadStep (State.passCycle { s with slow := false }) s.cur)) ∧
  ((∀ (s : State) (t : Thread),
    let ra := s.addr t.home .fetch (s.stream t).pc
    let w := (s.fetchWord t (s.stream t).pc).1
    s.buffered t = none → s.chk t.home .fetch (s.stream t).pc 8 = .ok → s.poisoned ra 8 = false →
    ¬ (Thread.map t = .acc ∧ fOpc w = 0x021) → ¬ (Thread.map t = .vec ∧ fOpc w = 0x101) →
    (∃ u, s.fetch t = (.ok, w, 0, u)) ∧ (ra < 2 ^ 40 → s.kept = [] → w = s.readWord ra)) ∧
  (∀ (s : State) (t : Thread) (w w2 : Word), s.buffered t = some (w, w2) →
    s.poisoned (s.addr t.home .fetch (s.stream t).pc) 8 = false → s.fetch t = (.ok, w, w2, s)) ∧
  (∀ (s s0 u : State) (t : Thread) (w w2 : Word) (e : DecErr), GivesTurn s s0 t → HasCycle s0 t →
    ComesTo (s0.startTurn t) t w w2 u → decode (Thread.map t) w w2 = .error e →
    (u.laneStalls t w = false → step s = .next ((u.land t).fault t ⟨1, 0⟩ 0)) ∧
    (u.laneStalls t w = true → u.laneSkips t (laneH w) = false → step s = .next u)))

/-- The machine never stops: every instruction and every event, in every state, leaves a next state, and so does every
step. -/
def Obligations.MachineNeverStops : Prop :=
  (∀ (i : Instr) (s : State), Goes (exec i s)) ∧ ∀ s : State, Goes (step s)

/-- Every step keeps the canonical form of device memory, of other devices' memory and of every scratchpad. -/
def Obligations.StepKeepsMemoryForm : Prop :=
  ∀ s u : State, s.memWf = true → step s = .next u → u.memWf = true

/-- The memory after reset has its canonical form, and no instruction leaves the machine without a current thread's
word: the step from reset answers a next state that keeps the form. What reset leaves: SC0 runs and no other service
core does, no job is resident, and the registers whose reset value the spec gives hold it (R416, Tables 8.4, 10.1, 10.2,
15.3 and 16.13). The states of the service cores' streams and the empty contexts and tokens are the model's reading of a
machine on which nothing has run (log 3). -/
def Obligations.ResetState : Prop :=
  (State.reset.memWf = true ∧ ∃ u, step State.reset = .next u ∧ u.memWf = true) ∧
  ((State.reset.stream (.svc 0)).status = .ready ∧
  (∀ n, n ≠ 0 → (State.reset.stream (.svc n)).status = .off) ∧
  (∀ h, (State.reset.ctx h).job = none) ∧
  (∀ h t, (State.reset.ctx h).token t = 0) ∧
  (∀ h, (State.reset.ctx h).act = 0 ∧ (State.reset.ctx h).cstk = 0 ∧ (State.reset.ctx h).cpst = 0) ∧
  (∀ p q, (State.reset.queue p q).d0 = 0x400 ∧ (State.reset.queue p q).d1 = 0) ∧
  (∀ p, (State.reset.part p).pd0 = 0 ∧ (State.reset.part p).pd1 = 0xFFFF) ∧
  (∀ c, (State.reset.crew c).fev = 0xFFFF ∧ (State.reset.crew c).bin = 0 ∧ (State.reset.crew c).lease = none) ∧
  (∀ c j, (State.reset.crew c).entry j = 0xFFFF_0000_0000_0000) ∧
  (∀ z, (State.reset.zone z).cata = 0x0001_FF00_0020_0000) ∧
  State.reset.hams = 0 ∧ State.reset.hagt = 0 ∧ State.reset.fotb = 0 ∧ State.reset.evl0 = 0 ∧ State.reset.evl1 = 0)

/-! ## Cox words: integer results, shadows, branches -/

/-- Every integer and bit word puts its result into its destination register, or under a boost level into the register's
shadow, and the next word follows (R216, R217, R233, R234, R236, R237). A shift by a register uses the low 6 bits. CMP
writes its condition into its predicate or the predicate's shadow; SEL writes a when the named predicate holds and b
otherwise (R235, R238). That the predicate of a boosted word, read from a poisoned shadow, poisons the result as its
sources do is the model's reading (log 44). -/
def Obligations.ScalarResults : Prop :=
  (∀ (i : Instr) (s : State) (t : Thread) (h : CoxH) (d : SReg) (l : List SReg) (f : Word → Word → Word),
    i.aluForm = some (h, d, l, f) → i.wellFormed = true → Issues s t .any h (d :: l) →
    exec i s = .next (s.putResult t h d l (f (s.srcOf t h (l.getD 0 0)) (s.srcOf t h (l.getD 1 0))))) ∧
  ((∀ (s : State) (t : Thread) (h : CoxH) (cc : CoxCC) (p : BitVec 3) (a b : SReg), Issues s t .any h [a, b] →
    let x := s.srcOf t h a
    let y := s.srcOf t h b
    let v : Bool := match cc with
      | .eq => x == y
      | .ne => !(x == y)
      | .lt => decide (x.toInt < y.toInt)
      | .le => decide (x.toInt ≤ y.toInt)
      | .gt => decide (y.toInt < x.toInt)
      | .ge => decide (y.toInt ≤ x.toInt)
      | .ltu => decide (x.toNat < y.toNat)
      | .leu => decide (x.toNat ≤ y.toNat)
      | .gtu => decide (y.toNat < x.toNat)
      | .geu => decide (y.toNat ≤ x.toNat)
    exec (.cmp h cc p a b) s =
      .next ((s.setCox t ((s.cox t).putP h.bl.toNat p.toNat v (s.poisonOf t h [a, b]))).next t)) ∧
  (∀ (s : State) (t : Thread) (h : CoxH) (d a b : SReg) (neg : Bool) (p : BitVec 3), Issues s t .any h [d, a, b] →
    let k := (s.cox t).srcP h.bl.toNat p.toNat
    let v := if k.1 = neg then s.srcOf t h b else s.srcOf t h a
    exec (.sel h d a b neg p) s =
      .next ((s.setCox t ((s.cox t).put h.bl.toNat d v ((s.poisonOf t h [a, b]).or k.2))).next t)))

/-- DIV and REM read a and b as signed 64-bit integers. By zero the quotient is −1 and the remainder a; −2^63 by −1
gives −2^63 and 0; otherwise the quotient is truncated toward zero, and the remainder has the sign of a. DIV writes the
quotient to d, REM the remainder (R234). Here without a boost; under a boost level the same values go to the shadow, as
ScalarResults says. -/
def Obligations.Division : Prop :=
  ∀ (s : State) (t : Thread) (h : CoxH) (d a b : SReg), Issues s t .any h [d, a, b] → h.bl = 0 →
    let x := s.reg t a
    let y := s.reg t b
    ∃ q r : Word,
      exec (.div h d a b) s = .next ((s.setReg t d q).next t) ∧ exec (.rem h d a b) s = .next ((s.setReg t d r).next t) ∧
      (d ≠ 0 → ((s.setReg t d q).next t).reg t d = q ∧ ((s.setReg t d r).next t).reg t d = r) ∧
      (y = 0 → q.toInt = -1 ∧ r = x) ∧
      (x.toInt = -(2 ^ 63) → y.toInt = -1 → q.toInt = -(2 ^ 63) ∧ r = 0) ∧
      (y ≠ 0 → ¬(x.toInt = -(2 ^ 63) ∧ y.toInt = -1) →
        q.toInt = x.toInt.tdiv y.toInt ∧ x.toInt = q.toInt * y.toInt + r.toInt ∧ r.toInt.natAbs < y.toInt.natAbs ∧
        (r = 0 ∨ (r.toInt < 0 ↔ x.toInt < 0)))

/-- Where a result goes: without boost the register takes it and no other register, predicate or shadow changes; under
boost level 1 or 2 the shadow of that level takes it, every register and predicate keeps its value, and a later word of
the level reads it back with its poison. A result for s0 goes nowhere (R49, R216, R217). What a result leaves as it was:
an integer or bit word changes no memory, no other stream's registers, nothing of a home, a crew, a partition or the
package, and no register of its own but its destination (R216, R233). -/
def Obligations.ResultsAndShadows : Prop :=
  (∀ (s : State) (t : Thread) (h : CoxH) (d : SReg) (l : List SReg) (v : Word), (∀ j, t ≠ .acc j ∧ t ≠ .vec j) →
    let u := s.putResult t h d l v
    (u.stream t).pc = (s.stream t).pc + 8 ∧
    (d = 0 → ∀ r, u.reg t r = s.reg t r) ∧
    (h.bl = 0 → (d ≠ 0 → u.reg t d = v) ∧ (∀ r, r ≠ d → u.reg t r = s.reg t r) ∧
      (u.cox t).sh1 = (s.cox t).sh1 ∧ (u.cox t).sh2 = (s.cox t).sh2) ∧
    (h.bl = 1 ∨ h.bl = 2 → (∀ r, u.reg t r = s.reg t r) ∧
      (d ≠ 0 → u.srcOf t h d = v ∧ ((u.cox t).src h.bl.toNat d).2 = s.poisonOf t h l) ∧
      (∀ r, r ≠ d → (u.cox t).src h.bl.toNat r = (s.cox t).src h.bl.toNat r)) ∧
    (u.cox t).preds = (s.cox t).preds) ∧
  (∀ (i : Instr) (s u : State) (t : Thread) (h : CoxH) (d : SReg) (l : List SReg) (f : Word → Word → Word),
    i.aluForm = some (h, d, l, f) → Issues s t .any h (d :: l) → exec i s = .next u →
    SameMemory s u ∧ SameLocal s u ∧ SameRegs s u t [d] ∧ SameOthers s u t ∧ SameLanes s u ∧ SameSystem s u ∧
    (u.cox t).preds = (s.cox t).preds ∧ (u.cox t).stack = (s.cox t).stack)

/-- A commit of level c: without poison every register and predicate with a valid shadow of the level takes it, the
others keep their values, and the level's shadows become invalid; a poisoned shadow is reported, the first in ascending
order, and every shadow of both levels becomes invalid (R218). That s1 to s63 come before p1 to p7 in that order is the
model's choice (log 99). -/
def Obligations.CommitMovesShadows : Prop :=
  ∀ (x y : Cox) (c : Nat) (p : Option Poison), c = 1 ∨ c = 2 → x.commit c = (y, p) →
    (p = none →
      (∀ r : SReg, r ≠ 0 → y.reg r = (match (x.level c).get r.toNat none with | some z => z.value | none => x.reg r)) ∧
      (∀ k : Nat, 0 < k → k < 8 →
        y.p k = (match (x.level c).get (64 + k) none with | some z => z.value.getLsbD 0 | none => x.p k)) ∧
      y.level c = [] ∧ y.level (3 - c) = x.level (3 - c)) ∧
    (∀ q, p = some q → y.sh1 = [] ∧ y.sh2 = [] ∧
      ∃ k z, k ∈ shadowNumbers ∧ (x.level c).get k none = some z ∧ z.poison = some q ∧
        ∀ k' ∈ shadowNumbers, k' < k → ∀ z', (x.level c).get k' none = some z' → z'.poison = none)

/-- A cox word whose predicate does not hold issues and has no other effect (R61). A cox word in a stream where its form
is not legal raises class 1, whatever its predicate (R58, R60, R221, R386). A word reserved to service cores raises
class 3 in a job (R60). That a suppressed SPARM tests no spore number either is the model's choice (log 96). -/
def Obligations.ChecksBeforeIssue : Prop :=
  (∀ (i : Instr) (s : State) (t : Thread) (f : Form) (h : CoxH) (l : List SReg),
    i.coxHead = some (f, h, l) → Suppressed s t f h l → exec i s = .next (s.next t)) ∧
  (∀ (i : Instr) (s : State) (f : Form) (h : CoxH) (l : List SReg),
    i.coxHead = some (f, h, l) → f.legal s.cur l = false → exec i s = .next (s.fault s.cur ⟨1, 0⟩ 0)) ∧
  (∀ (i : Instr) (s : State) (f : Form) (h : CoxH) (l : List SReg),
    i.coxHead = some (f, h, l) → f.legal s.cur l = true → f.priv = true → s.cur.isSvc = false →
    exec i s = .next (s.fault s.cur ⟨3, 0⟩ 0))

/-- A branch goes to pc + 8 × disp when its condition holds and to pc + 8 otherwise; against its assumption the next
word issues no earlier than 6 local cycles later and a commit's shadows are dropped; as assumed, a commit moves the
level's shadows, and a poisoned one raises its own record, not restartable (R218, R239). JMP always goes. -/
def Obligations.Branches : Prop :=
  (∀ (s : State) (t : Thread) (e : BitVec 10) (neg : Bool) (p : BitVec 3) (taken : Bool) (c : BitVec 2) (disp : BitVec 29),
    s.cur = t → (∀ j, t ≠ .acc j ∧ t ≠ .vec j) →
    let x := s.cox t
    let go := decide (x.p p.toNat ≠ neg)
    let to_ := if go then x.run.pc + 8 * disp.signExtend 64 else x.run.pc + 8
    let o := exec (.bra e neg p taken c disp) s
    (go = taken → c = 0 → o = .next ((s.setCox t x).issueTo t to_)) ∧
    (go = taken → c ≠ 0 → ∀ y, x.commit c.toNat = (y, none) → o = .next ((s.setCox t y).issueTo t to_)) ∧
    (go = taken → c ≠ 0 → ∀ y q, x.commit c.toNat = (y, some q) →
      o = .next ((s.setCox t y).faultWith t ⟨q.cls, q.sub⟩ q.addr q.pc false)) ∧
    (go ≠ taken → c = 0 → o = .next (((s.setCox t x).issueTo t to_).holdNext t)) ∧
    (go ≠ taken → c ≠ 0 → o = .next (((s.setCox t x.dropShadows).issueTo t to_).holdNext t))) ∧
  (∀ (s : State) (t : Thread) (h : CoxH) (disp : BitVec 30), Issues s t .any h [] →
    exec (.jmp h disp) s = .next (s.issueTo t ((s.stream t).pc + 8 * disp.signExtend 64)))

/-- CALL pushes the address of the next word and goes to pc + 8 × disp; with 16 entries held it first stores the oldest
8 at the spill address, which advances by 64 bytes with SPN. RET pops; with none held it first takes back the newest
block of 8. SPN = 65,535 and SPN = 0 raise class 11 instead (R240 to R242, Table 9.3). A return goes back to the word
after its call, and leaves the stack as it was before it (R241). That a service core's stack spills as a job's does is the
model's reading (log 42). -/
def Obligations.Subroutines : Prop :=
  ((∀ (s : State) (t : Thread) (h : CoxH) (disp : BitVec 30), Issues s t .noSpore h [] →
    let k := (s.ctx t.home).cstk
    let a := BitVec.ofNat 64 (64 * cstkSpp k)
    let go := fun (u : State) => State.issueTo
      (u.setCox t { u.cox t with stack := ((u.cox t).run.pc + 8) :: (u.cox t).stack }) t
      ((u.cox t).run.pc + 8 * disp.signExtend 64)
    let spilled := s.writeV t none .store a (((s.cox t).stack.reverse.take 8).flatMap fun w => bytesLE 8 w.toNat)
    let cut := spilled.setCox t { spilled.cox t with stack := (spilled.cox t).stack.take 8 }
    ((s.cox t).stack.length < 16 → exec (.call h disp) s = .next (go s)) ∧
    (16 ≤ (s.cox t).stack.length → cstkSpn k = 65535 → exec (.call h disp) s = .next (s.fault t ⟨11, 1⟩ 0)) ∧
    (16 ≤ (s.cox t).stack.length → cstkSpn k ≠ 65535 → s.chk t.home .store a 64 = .ok →
      exec (.call h disp) s =
        .next (go (cut.setCtx t.home { cut.ctx t.home with cstk := cstkOf (cstkSpn k + 1) (cstkSpp k + 1) })))) ∧
  (∀ (s : State) (t : Thread) (h : CoxH), Issues s t .noSpore h [] →
    let k := (s.ctx t.home).cstk
    let a := spillAddr (cstkSpp k + 2 ^ 42 - 1)
    (∀ w r, (s.cox t).stack = w :: r →
      exec (.ret h) s = .next ((s.setCox t { s.cox t with stack := r }).issueTo t (w &&& ~~~ 7))) ∧
    ((s.cox t).stack = [] → cstkSpn k = 0 → exec (.ret h) s = .next (s.fault t ⟨11, 2⟩ 0)) ∧
    ((s.cox t).stack = [] → cstkSpn k ≠ 0 → s.chk t.home .load a 64 = .ok →
      let b := s.readV t.home .load .l1 a 64
      let full := b.2.setCox t { b.2.cox t with stack := (wordsOf 8 b.1).reverse }
      exec (.ret h) s = .next (State.popCall
        (full.setCtx t.home { full.ctx t.home with cstk := cstkOf (cstkSpn k - 1) (cstkSpp k + 2 ^ 42 - 1) }) t)))) ∧
  (∀ (s u : State) (t : Thread) (h h' : CoxH) (disp : BitVec 30), Issues s t .noSpore h [] →
    (s.cox t).stack.length < 16 → (s.stream t).pc &&& 7 = 0 → exec (.call h disp) s = .next u →
    Issues u t .noSpore h' [] →
    ∃ v, exec (.ret h') u = .next v ∧ (v.stream t).pc = (s.stream t).pc + 8 ∧
      (v.cox t).stack = (s.cox t).stack ∧ (v.cox t).regs = (s.cox t).regs)

/-! ## Cox words: memory -/

/-- A load that passes its checks: the bytes at the translated address of a + imm, zero- or sign-extended, go to the
destination or its shadow. Memory of this package is read where it lies, unless the first cache that holds the line keeps
it as it was before a change of keys (R28, R357, log 104); a form of domain scope waits for the posted stores to the line
that are the stream's own or that it has seen, and reads at the home; another one waits for the stream's own .dom stores
to the line; LD.acq.dom receives the released signature (R217, R291, R294, R300, Table 12.1; what stands in copies is
log 36). A plain load of a slow turn goes on at once, but for one of a scratch window, and performs later (R280, logs 35
and 89). No other register, stream, scratchpad, row or home changes, but the destinations of loads that perform late. A
load whose address register or predicate is a poisoned shadow passes the poison on and makes no access, where the
predicate is the model's reading (log 44); under a boost level a load that fails its checks poisons its destination's
shadow with the record's pc, address and cause, and goes on (R216, R217). -/
def Obligations.Loads : Prop :=
  (∀ (i : Instr) (s : State) (t : Thread) (h : CoxH) (k : LoadKind) (d a : SReg) (imm : BitVec 24),
    i.loadForm = some (h, k, d, a, imm) → Issues s t .any h [d, a] → s.poisonOf t h [a] = none →
    let va := s.srcOf t h a + imm.signExtend 64
    let ra := s.addr t.home .load va
    s.chkCox t .load va k.bytes = .ok →
    let lv : Tier := if k.dom then .home else .l1
    let s0 := if s.slow then s.land t else s
    let x := s0.loadAt t.home ra k.bytes lv
    let waits := if k.dom then s.lineBusy t ra else s.domBusy t ra
    let late := k.plain && s.slow && decide (h.bl = 0) && !inWindow ra
    let n := natLE x.1
    let v : Word :=
      if k.signed ∧ 2 ^ (8 * k.bytes - 1) ≤ n then BitVec.ofInt 64 ((n : Int) - 2 ^ (8 * k.bytes)) else BitVec.ofNat 64 n
    let w := if k.acq then x.2.acquire t.home ra else x.2
    (ra < 2 ^ 40 → x.1 = (match s0.keptFor t.home (ra / 128) lv with
      | some l => (l.drop (ra % 128)).take k.bytes
      | none => s0.rawRead ra k.bytes) ∧ KeepsMemory s x.2) ∧
    (waits = true → exec i s = .next s) ∧
    (waits = false → late = false → exec i s = .next ((w.setCox t ((w.cox t).put h.bl.toNat d v none)).next t)) ∧
    (waits = false → late = true → exec i s = .next ((s.setCox t
      { s.cox t with
        late := (s.cox t).late ++ [{ dst := d, addr := ra, size := k.bytes, signed := k.signed }] }).next t)) ∧
    ∀ u, exec i s = .next u → KeepsMemory s u ∧
      SameRegs s u t (d :: if s.slow then (s.cox t).late.map (·.dst) else []) ∧ SameOthers s u t ∧ SameLocal s u ∧
      SameLanes s u ∧
      (∀ h', h' ≠ t.home → u.ctx h' = s.ctx h') ∧ (∀ q, (u.ctx t.home).token q = (s.ctx t.home).token q) ∧
      (∀ p, u.part p = s.part p)) ∧
  (∀ (i : Instr) (s : State) (t : Thread) (h : CoxH) (k : LoadKind) (d a : SReg) (imm : BitVec 24),
    i.loadForm = some (h, k, d, a, imm) → Issues s t .any h [d, a] →
    let va := s.srcOf t h a + imm.signExtend 64
    (∀ p, s.poisonOf t h [a] = some p →
      exec i s = .next ((s.setCox t ((s.cox t).put h.bl.toNat d 0 (some p))).next t)) ∧
    (∀ e ad, s.poisonOf t h [a] = none → h.bl ≠ 0 → s.chkCox t .load va k.bytes = .bad e ad →
      exec i s = .next (((s.dropFailed t.home ad).setCox t ((s.cox t).put h.bl.toNat d 0
        (some { pc := (s.stream t).pc, addr := ad, cls := e.cls, sub := e.sub }))).next t)))

/-- A store that passes its checks writes the low bytes of d at the translated address of a + imm; a release waits until
its stream's forked threads have completed and joins them; ST.dom of remote memory is posted and updates no copy, and
ST.rel.dom performs at the home, drops the stream's copies of a remote line and publishes SIG (R282, R292, R293, R300).
What a store leaves as it was: every byte outside the bytes at its translated address reads as before, and those bytes
read back as the register's low bytes, when it stores to memory of this package or at another device's home; a posted
remote store changes no byte until its home acknowledges it. Registers, other streams, scratchpads and other homes are
as before (R291, R300). A store into the frame ownership table also changes how the frames that it names read (R357):
that form is PartitionAndWayEvents'. -/
def Obligations.Stores : Prop :=
  (∀ (i : Instr) (s : State) (t : Thread) (h : CoxH) (k : StoreKind) (d a : SReg) (imm : BitVec 24),
    i.storeForm = some (h, k, d, a, imm) → Issues s t .any h [d, a] →
    let va := s.reg t a + imm.signExtend 64
    let ra := s.addr t.home .store va
    let bytes := bytesLE k.bytes (s.reg t d).toNat
    s.chkCox t .store va k.bytes = .ok →
    (k.rel = false → k.dom = false ∨ ra < 2 ^ 40 → exec i s = .next ((s.storeAt t none ra bytes).next t)) ∧
    (k.rel = false → k.dom = true → 2 ^ 40 ≤ ra →
      exec i s = .next ((s.post t none ra bytes true).next t) ∧
      (∀ g, ((s.post t none ra bytes true).core g).l1 = (s.core g).l1) ∧
      ∀ c, ((s.post t none ra bytes true).crew c).l2 = (s.crew c).l2) ∧
    (k.rel = true → s.released t k.dom = false → exec i s = .next s) ∧
    (k.rel = true → s.released t k.dom = true → k.dom = false →
      exec i s = .next (((s.joinForks t).storeAt t none ra bytes).next t)) ∧
    (k.rel = true → s.released t k.dom = true → k.dom = true →
      exec i s = .next ((((s.joinForks t).storeHome t.home ra bytes).publish t.home ra).next t))) ∧
  (∀ (i : Instr) (s : State) (t : Thread) (h : CoxH) (k : StoreKind) (d a : SReg) (imm : BitVec 24),
    s.memWf = true → i.storeForm = some (h, k, d, a, imm) → Issues s t .any h [d, a] →
    let va := s.reg t a + imm.signExtend 64
    let ra := s.addr t.home .store va
    s.chkCox t .store va k.bytes = .ok → (k.rel = true → s.released t k.dom = true) →
    ∃ u, exec i s = .next u ∧
      (s.fotFrames ra k.bytes = [] →
        (s.Steady → ∀ x, x < ra ∨ ra + k.bytes ≤ x → u.rawRead x 1 = s.rawRead x 1) ∧
        (ra < 2 ^ 40 ∨ (k.rel = true ∧ k.dom = true) →
          u.rawRead ra k.bytes = bytesLE k.bytes (s.reg t d).toNat ∧ u.posted = s.posted)) ∧
      (2 ^ 40 ≤ ra → (k.rel = false ∨ k.dom = false) → SameMemory s u ∧
        u.posted = s.posted ++ [{ who := t, eng := none, part := (s.ctx t.home).storePart none, addr := ra,
                                  bytes := bytesLE k.bytes (s.reg t d).toNat, dom := k.dom, seen := [] }]) ∧
      SameRegs s u t [] ∧ SameOthers s u t ∧ SameLocal s u ∧ SameLanes s u ∧
      (∀ h', h' ≠ t.home → u.ctx h' = s.ctx h') ∧
      (∀ q, (u.ctx t.home).token q = (s.ctx t.home).token q) ∧ (∀ p, u.part p = s.part p))

/-- An atomic that passes its checks: d takes the old word and the word becomes the operation's result, read and written
with nothing between; it waits for the posted stores to the line that are the stream's own or that it has seen; one that
changes a remote word signs its line (log 108); a release waits for its stream's threads
and joins them, an acquire at domain scope receives the signature that stands with the word, and a release at domain
scope then publishes SIG (R291 to R295, R301). What an atomic leaves as it was: every byte outside the word, and the
word reads as the operation's result; every register but d, every other stream, scratchpad, accumulator row, home and
partition (R301). -/
def Obligations.Atomics : Prop :=
  (∀ (i : Instr) (s : State) (t : Thread) (h : CoxH) (o : AmoOrd) (l : List SReg) (d a b e : SReg)
    (f : Word → Word → Word → Word),
    i.amoForm = some (h, o, l, d, a, b, e, f) → Issues s t .any h l →
    let ra := s.addr t.home .both (s.reg t a)
    s.chkCox t .both (s.reg t a) 8 = .ok →
    let old := s.readWord ra
    let new := f (s.reg t b) (s.reg t e) old
    let s1 := if AmoOrd.rel o then s.joinForks t else s
    let s2 := (if new = old then s1.llc ra false
      else (if 2 ^ 40 ≤ ra then s1.signLine t.home ra none else s1).store ra (bytesLE 8 new.toNat)).dropCopy t.home ra
    let s3 := if AmoOrd.acq o ∧ AmoOrd.dom o then s2.acquire t.home ra else s2
    let s4 := if AmoOrd.rel o ∧ AmoOrd.dom o then s3.publish t.home ra else s3
    let waits := s.lineBusy t ra || (AmoOrd.rel o && !s.released t (AmoOrd.dom o))
    (waits = false → exec i s = .next ((s4.setReg t d old).next t)) ∧
    (waits = true → exec i s = .next s)) ∧
  (∀ (i : Instr) (s u : State) (t : Thread) (h : CoxH) (o : AmoOrd) (l : List SReg) (d a b e : SReg)
    (f : Word → Word → Word → Word),
    s.memWf = true → s.Steady → i.amoForm = some (h, o, l, d, a, b, e, f) → Issues s t .any h l →
    let ra := s.addr t.home .both (s.reg t a)
    s.chkCox t .both (s.reg t a) 8 = .ok → s.lineBusy t ra = false →
    (AmoOrd.rel o = true → s.released t (AmoOrd.dom o) = true) → s.fotFrames ra 8 = [] → exec i s = .next u →
    u.readWord ra = f (s.reg t b) (s.reg t e) (s.readWord ra) ∧
    (∀ x, x < ra ∨ ra + 8 ≤ x → u.rawRead x 1 = s.rawRead x 1) ∧
    SameRegs s u t [d] ∧ SameOthers s u t ∧ SameLocal s u ∧ SameLanes s u ∧ u.posted = s.posted ∧
    (∀ h', h' ≠ t.home → u.ctx h' = s.ctx h') ∧ (∀ q, (u.ctx t.home).token q = (s.ctx t.home).token q) ∧
    (∀ p, u.part p = s.part p))

/-- An access whose address is not a multiple of its size raises class 7 with the address; an access that fails a check
of translation, permission, place or poison raises that cause; in both cases the word has no effect. Loads without
boost, stores, atomics and WAITA (R299, R352, R389). -/
def Obligations.FaultingAccesses : Prop :=
  (∀ (s : State) (t : Thread) (perm : Perm) (va : Word) (n : Nat), va.toNat % n ≠ 0 →
    s.chkCox t perm va n = .bad ⟨7, 0⟩ va) ∧
  (∀ (i : Instr) (s : State) (t : Thread) (h : CoxH) (k : LoadKind) (d a : SReg) (imm : BitVec 24) (c : Cause) (ad : Word),
    i.loadForm = some (h, k, d, a, imm) → Issues s t .any h [d, a] → h.bl = 0 →
    s.chkCox t .load (s.reg t a + imm.signExtend 64) k.bytes = .bad c ad → exec i s = .next (s.fault t c ad)) ∧
  (∀ (i : Instr) (s : State) (t : Thread) (h : CoxH) (k : StoreKind) (d a : SReg) (imm : BitVec 24) (c : Cause) (ad : Word),
    i.storeForm = some (h, k, d, a, imm) → Issues s t .any h [d, a] →
    s.chkCox t .store (s.reg t a + imm.signExtend 64) k.bytes = .bad c ad → exec i s = .next (s.fault t c ad)) ∧
  (∀ (i : Instr) (s : State) (t : Thread) (h : CoxH) (o : AmoOrd) (l : List SReg) (d a b e : SReg)
    (f : Word → Word → Word → Word) (c : Cause) (ad : Word),
    i.amoForm = some (h, o, l, d, a, b, e, f) → Issues s t .any h l →
    s.chkCox t .both (s.reg t a) 8 = .bad c ad → exec i s = .next (s.fault t c ad)) ∧
  (∀ (s : State) (t : Thread) (h : CoxH) (a b : SReg) (c : Cause) (ad : Word), Issues s t .any h [a, b] →
    s.chkCox t .watch (s.reg t a) 8 = .bad c ad → exec (.waita h a b) s = .next (s.fault t c ad))

/-- WAITA goes on when the word differs from b, and otherwise parks its stream with a watch of the word, unless its
slice holds 1,024 watches already; on another device's word it performs one domain-scope load and goes on. FENCE waits
for the stream's threads and remote stores and then joins the threads; WQPUSH reserves the slot at TAIL and writes the
packet of 256 bytes there (R200, R283, R288, R289, R302 to R304). -/
def Obligations.WaitFencePush : Prop :=
  (∀ (s : State) (t : Thread) (h : CoxH) (a b : SReg), Issues s t .any h [a, b] →
    let ra := s.addr t.home .watch (s.reg t a)
    s.chkCox t .watch (s.reg t a) 8 = .ok →
    (s.lineBusy t ra = true → exec (.waita h a b) s = .next s) ∧
    (s.lineBusy t ra = false → 2 ^ 40 ≤ ra →
      exec (.waita h a b) s = .next ((s.loadAt t.home ra 8 .home).2.next t)) ∧
    (s.lineBusy t ra = false → ra < 2 ^ 40 → s.readWord ra ≠ s.reg t b ∨ 1024 ≤ s.watchCount (homeSlice ra) →
      exec (.waita h a b) s = .next (s.next t)) ∧
    (s.lineBusy t ra = false → ra < 2 ^ 40 → s.readWord ra = s.reg t b → s.watchCount (homeSlice ra) < 1024 →
      exec (.waita h a b) s = .next
        { s.park t with
          watches := s.watches ++ [{ who := t, fence := none, addr := ra, va := s.reg t a, hit := none, touched := false }] })) ∧
  (∀ (s : State) (t : Thread) (h : CoxH), Issues s t .any h [] →
    (s.forksDone t = true → s.remoteDone t = true → exec (.fence h) s = .next ((s.joinForks t).next t)) ∧
    (s.forksDone t = false ∨ s.remoteDone t = false → exec (.fence h) s = .next s)) ∧
  (∀ (s : State) (t : Thread) (h : CoxH) (a b : SReg) (pages : List Nat), Issues s t .any h [a, b] →
    s.forksDone t = true → (s.reg t a).toNat % 256 = 0 → s.chk t.home .load (s.reg t a) 256 = .ok →
    let p := if t.isSvc then fieldOf (s.reg t b) 4 6 else s.partOf t.home
    let q := fieldOf (s.reg t b) 0 4
    let x := (s.joinForks t).readV t.home .load .l1 (s.reg t a) 256
    natLE (x.1.take 1) % 16 ≠ 0 → (s.queue p q).state ≠ 0 → (s.queue p q).ring = some pages →
    ((s.queue p q).room = false → exec (.wqpush h a b) s = .next s) ∧
    ((s.queue p q).room = true → exec (.wqpush h a b) s = .next ((x.2.pushPacket p q pages x.1).next t) ∧
      ((x.2.pushPacket p q pages x.1).queue p q).tail = ((s.queue p q).tail + 1) % 2 ^ 16))

/-! ## Cox words: streams, tokens, queues -/

/-- GO starts the access and vector streams at the addresses in a and b once the job is quiet, and resets the state that
GO resets: A-max, CVS, the tile scale factors, ACT, the compaction buffer with LPOV, the draw counter with its buffer,
MXST, CPST and the numbering of the two engine queues; JOIN ends the cox; NODE goes on when nothing asks the job to leave, and otherwise waits until the job is
quiet, stores the save image and leaves the context to the walker (R208, R209, R226, R369). Which queues a quiet job has
empty, the mailbox among them, is the model's reading (log 45). -/
def Obligations.GoJoinNode : Prop :=
  (∀ (s : State) (t : Thread) (h : CoxH) (a b : SReg), Issues s t .coxOnly h [a, b] →
    (s.quiet t.home = false → exec (.go h a b) s = .next s) ∧
    (s.quiet t.home = true → ∃ u, exec (.go h a b) s = .next u ∧
      (u.stream t).pc = (s.stream t).pc + 8 ∧
      (u.acc t.home).run = { pc := s.reg t a &&& ~~~ 7, since := 0, hold := 0, occ := 0, ran := s.clockOf t.home + 1,
                             status := .ready } ∧
      (u.vec t.home).run = { pc := s.reg t b &&& ~~~ 7, since := 0, hold := 0, occ := 0, ran := s.clockOf t.home + 1,
                             status := .ready } ∧
      (u.ctx t.home).act = 0 ∧ (u.ctx t.home).tsf = [] ∧ (u.ctx t.home).amax = [] ∧ (u.ctx t.home).cvs = 0 ∧
      (u.ctx t.home).comp = [] ∧ (u.ctx t.home).lpov = 0 ∧
      (u.ctx t.home).drawCount = 0 ∧ (u.ctx t.home).drawBuf = [] ∧ (u.ctx t.home).drawLoad = false ∧
      (u.ctx t.home).mxst = 0x0000_FFFF_0000_0000 ∧ (u.ctx t.home).mxSeq = 0 ∧
      (u.ctx t.home).cpst = 0 ∧ (u.ctx t.home).cpSeq = 0 ∧
      (∀ k, (u.ctx t.home).token k = (s.ctx t.home).token k) ∧ SameRegs s u t [] ∧ SameMemory s u)) ∧
  (∀ (s : State) (t : Thread) (h : CoxH), Issues s t .coxOnly h [] →
    exec (.join h) s = .next ((s.next t).setStatus t .joined)) ∧
  (∀ (s : State) (t : Thread) (h : CoxH), Issues s t .coxOnly h [] →
    (s.leaving t.home = false → exec (.node h) s = .next ((s.passNode t.home).next t)) ∧
    (s.leaving t.home = true → s.quiet t.home = false → exec (.node h) s = .next s) ∧
    (∀ j, s.leaving t.home = true → s.quiet t.home = true → (s.ctx t.home).job = some j →
      let a := j.nest.save + BitVec.ofNat 64 (128 * t.home)
      s.chk t.home .store a 128 = .ok →
      exec (.node h) s = .next (State.switchOut (State.join
        (s.writeV t none .store a ((saveWords j (s.cox t)).flatMap fun w => bytesLE 8 w.toNat)) t.home) t.home j a)))

/-- TWAIT waits for its count, and behind an engine command that takes of the token in this cycle, which is the model's
reading (log 102); it takes its count and joins the threads that have signalled the token; TSIG adds, stopping at 65,535;
CALLV and CALLA push a call unless 64 are there; RQP pops rq; FMTP pushes a format word unless 16 are there; MBSEND puts a
word into the mailbox of its peer, which a job's nest names as the model reads it (log 100), unless 16 are there; MBRECV
takes one that is available, and raises class 18 for one that storage has damaged (R117, R224, R244 to R248, R388). -/
def Obligations.TokensCallsMail : Prop :=
  (∀ (s : State) (t : Thread) (h : CoxH) (k : BitVec 4) (n : BitVec 16), Issues s t .any h [] →
    let engine := decide (t.home < 1024 ∧ k ≠ 0) && (s.mxTakes t.home k.toNat || s.cpTakes t.home k.toNat)
    (0 < n → (s.ctx t.home).token k.toNat < n ∨ engine = true → exec (.twait h k n) s = .next s) ∧
    (n ≤ (s.ctx t.home).token k.toNat → 0 < n → engine = false → exec (.twait h k n) s =
      .next ((s.setCtx t.home
        ((((s.ctx t.home).setToken k.toNat ((s.ctx t.home).token k.toNat - n)).unfetch).joinToken k.toNat)).next t)) ∧
    (n = 0 → exec (.twait h k n) s = .next (s.next t)) ∧
    exec (.tsig h k n) s = .next ((s.setCtx t.home ((s.ctx t.home).setToken k.toNat
      (BitVec.ofNat 16 (Nat.min 65535 (((s.ctx t.home).token k.toNat).toNat + n.toNat))))).next t)) ∧
  (∀ (s : State) (t : Thread) (h : CoxH) (ty : CallTy) (a : SReg) (g : BitVec 3), Issues s t .coxOnly h [a] →
    let c := s.ctx t.home
    let x : Call := { ty := ty, payload := s.reg t a, g := g }
    (c.cqv.length < 64 →
      exec (.callv h ty a g) s = .next ((s.setCtx t.home ({ c with cqv := c.cqv ++ [x] }.bumpPush 0)).next t)) ∧
    (64 ≤ c.cqv.length → exec (.callv h ty a g) s = .next s) ∧
    (c.cqa.length < 64 →
      exec (.calla h ty a g) s = .next ((s.setCtx t.home ({ c with cqa := c.cqa ++ [x] }.bumpPush 1)).next t)) ∧
    (64 ≤ c.cqa.length → exec (.calla h ty a g) s = .next s) ∧
    (c.fq.length < 16 → c.held = [] →
      exec (.fmtp h a) s = .next ((s.setCtx t.home ({ c with fq := c.fq ++ [s.reg t a] }.bumpPush 9)).next t)) ∧
    (16 ≤ c.fq.length → exec (.fmtp h a) s = .next s)) ∧
  (∀ (s : State) (t : Thread) (h : CoxH) (d : SReg), Issues s t .coxOnly h [d] →
    let c := s.ctx t.home
    (c.rq = [] → exec (.rqp h d) s = .next s) ∧
    (∀ w r, c.rq = w :: r → s.headPoisoned t.home 8 = false →
      exec (.rqp h d) s = .next (((s.setCtx t.home ({ c with rq := r }.bumpPop 8)).setReg t d w).next t)) ∧
    (c.rq ≠ [] → s.headPoisoned t.home 8 = true → exec (.rqp h d) s = .next (s.fault t ⟨18, 1⟩ 0)) ∧
    (c.mailbox = [] → exec (.mbrecv h d) s = .next s) ∧
    (∀ m r, c.mailbox = m :: r → m.ready = false → s.crewNow (crewOf t.home) < m.at_ + 24 →
      exec (.mbrecv h d) s = .next s) ∧
    (∀ m r, c.mailbox = m :: r → m.ready = true ∨ m.at_ + 24 ≤ s.crewNow (crewOf t.home) →
      (m.bad = true → exec (.mbrecv h d) s = .next (s.fault t ⟨18, 1⟩ 0)) ∧
      (m.bad = false →
        exec (.mbrecv h d) s = .next (((s.setCtx t.home { c with mailbox := r }).setReg t d m.value).next t)))) ∧
  (∀ (s : State) (t : Thread) (h : CoxH) (a : SReg) (k : BitVec 2), Issues s t .coxOnly h [a] →
    (s.peer t.home k.toNat = none → exec (.mbsend h a k) s = .next s) ∧
    (∀ p, s.peer t.home k.toNat = some p → 16 ≤ (s.ctx p).mailbox.length → exec (.mbsend h a k) s = .next s) ∧
    (∀ p, s.peer t.home k.toNat = some p → (s.ctx p).mailbox.length < 16 →
      let m : Mail := { value := s.reg t a, at_ := s.crewNow (crewOf p), ready := false, bad := false }
      exec (.mbsend h a k) s = .next ((s.setCtx p { s.ctx p with mailbox := (s.ctx p).mailbox ++ [m] }).next t)))

/-- A matrix command issues into the mxq with its code, tokens, modifiers and register values, behind those that are
there (or ahead of a stopped one), and waits while 32 are there; MXRES restarts or drops the stopped command (R116,
R118, R147, R148). -/
def Obligations.MatrixIssue : Prop :=
  (∀ (i : Instr) (s : State) (t : Thread) (h : CoxH) (o : BitVec 9) (k : Tok) (a b c : SReg) (m : BitVec 10),
    i.mxForm = some (h, o, k, a, b, c, m) → Issues s t .coxOnly h [a, b, c] →
    let x := s.ctx t.home
    let cmd : Cmd := { opc := o, tok := k, a := s.reg t a, b := s.reg t b, c := s.reg t c, mods := m, pc := (s.stream t).pc,
                       forker := t, seq := x.mxSeq, gen := x.gen }
    (x.mxCount < 32 → exec i s = .next ((s.setCtx t.home (x.pushMx cmd)).next t)) ∧
    (x.held = [] → (x.pushMx cmd).mxq = x.mxq ++ [cmd] ∧ (x.pushMx cmd).fq = x.fq) ∧
    (32 ≤ x.mxCount → exec i s = .next s)) ∧
  (∀ (s : State) (t : Thread) (h : CoxH) (drop : Bool) (x : Held) (up down : List Held), Issues s t .coxOnly h [] →
    (s.ctx t.home).held = up ++ x :: down → (∀ y ∈ up, y.stop = none) →
    (x.stop = some .privileged → exec (.mxres h drop) s = .next (s.next t)) ∧
    (x.stop = some .miss → exec (.mxres h false) s =
      .next ((s.setCtx t.home { s.ctx t.home with held := up ++ { x with stop := none } :: down }).next t)) ∧
    (x.stop = some .format → exec (.mxres h false) s = .next ((s.setCtx t.home
      { s.ctx t.home with held := up ++ { x with stop := none, mx := { x.mx with began := false } } :: down }).next t)) ∧
    (x.stop = some .miss ∨ x.stop = some .format →
      exec (.mxres h true) s = .next ((s.mxDrop t.home x up down).next t))) ∧
  (∀ (s : State) (t : Thread) (h : CoxH) (drop : Bool), Issues s t .coxOnly h [] →
    (∀ y ∈ (s.ctx t.home).held, y.stop = none) → exec (.mxres h drop) s = .next (s.next t))

/-- A copy command issues into the cpq of its job and waits while 16 are there; on a service core it takes its wait
token and starts at once as a thread of its own, of which at most four live (R316, R331). LOGB of a job keeps its s7
with it (R258, log 95). RTREL takes one from the references of a RESIDENT or PINNED entry and returns what is left, and
all ones for an entry that is not there or has none; RTQRY reads one word of an entry (R336). -/
def Obligations.CopyAndResidencyWords : Prop :=
  ((∀ (i : Instr) (s : State) (t : Thread) (f : Form) (h : CoxH) (o : BitVec 9) (k : Tok) (a b c : SReg) (m : BitVec 10),
    i.cpForm = some (f, h, o, k, a, b, c, m) → Issues s t f h [a, b, c] → t.isSvc = false →
    let x := s.ctx t.home
    let cmd : Cmd := { opc := o, tok := k, a := s.reg t a, b := s.reg t b,
                       c := if o = 0x0B6 then s.reg (.cox t.home) 7 else s.reg t c, mods := m, pc := (s.stream t).pc,
                       forker := t, seq := x.cpSeq, gen := x.gen }
    (x.cpq.length < 16 → exec i s =
      .next ((s.setCtx t.home ({ x with cpq := x.cpq ++ [cmd], cpSeq := x.cpSeq + 1 }.bumpPush 11)).next t)) ∧
    (16 ≤ x.cpq.length → exec i s = .next s)) ∧
  (∀ (i : Instr) (s : State) (n : Nat) (f : Form) (h : CoxH) (o : BitVec 9) (k : Tok) (a b c : SReg) (m : BitVec 10)
    (y : Copy) (u : State),
    i.cpForm = some (f, h, o, k, a, b, c, m) → Issues s (.svc n) f h [a, b, c] →
    let x := s.ctx (1024 + n)
    x.waitReady k = true → s.svcThreads n < 4 →
    let s1 := (s.setCtx (1024 + n) { x.takeWait k with cpSeq := x.cpSeq + 1 }).next (.svc n)
    s1.startCopy (1024 + n) (Copy.start (s.mkCmd (.svc n) o k a b c m) 0 x.gen) = .run y u →
    exec i s = .next (State.copyDone
      (u.setCtx (1024 + n) { u.ctx (1024 + n) with copies := (u.ctx (1024 + n)).copies ++ [y] }) (1024 + n))) ∧
  (∀ (i : Instr) (s : State) (n : Nat) (f : Form) (h : CoxH) (o : BitVec 9) (k : Tok) (a b c : SReg) (m : BitVec 10),
    i.cpForm = some (f, h, o, k, a, b, c, m) → Issues s (.svc n) f h [a, b, c] →
    (s.ctx (1024 + n)).waitReady k = false ∨ 4 ≤ s.svcThreads n → exec i s = .next s)) ∧
  ((∀ (s : State) (t : Thread) (h : CoxH) (d a : SReg), Issues s t .any h [d, a] → s.released t false = true →
    let p := (s.rtName t.home (s.reg t a)).1
    let i := (s.rtName t.home (s.reg t a)).2
    let s1 := s.joinForks t
    let w := s1.rtGet t.home p i 0
    (rtCount (s.part p) ≤ i →
      exec (.rtrel h d a) s = .next ((s1.setReg t d (BitVec.allOnes 64)).next t)) ∧
    (i < rtCount (s.part p) → s.rtChk t.home p i 0 = .ok →
      (rtRef w = 0 ∨ (rtState w ≠ 2 ∧ rtState w ≠ 3) →
        exec (.rtrel h d a) s = .next ((s1.setReg t d (BitVec.allOnes 64)).next t)) ∧
      (rtRef w ≠ 0 → rtState w = 2 ∨ rtState w = 3 →
        exec (.rtrel h d a) s = .next (((s1.rtPut t.home p i (rtWord w (rtState w) (rtRef w - 1))).setReg t d
          (BitVec.ofNat 64 (rtRef w - 1))).next t)))) ∧
  (∀ (s : State) (t : Thread) (h : CoxH) (d a : SReg) (w : BitVec 2), Issues s t .any h [d, a] →
    let p := (s.rtName t.home (s.reg t a)).1
    let i := (s.rtName t.home (s.reg t a)).2
    (rtCount (s.part p) ≤ i →
      exec (.rtqry h d a w) s = .next ((s.setReg t d (BitVec.allOnes 64)).next t)) ∧
    (i < rtCount (s.part p) → s.rtChk t.home p i w.toNat = .ok →
      exec (.rtqry h d a w) s = .next ((s.setReg t d (s.rtGet t.home p i w.toNat)).next t))))

/-- The grammar unit: GMLD forks its load with the address rounded down to 64 bytes; GMSTEP follows the transition of
the token's class; GMMASK returns one of the mask's words, or the forced token with p7 set; GMSAVE and GMREST keep and
restore state and stack; before a load has completed they raise class 6 with subcause 1 (R251 to R255). -/
def Obligations.GrammarWords : Prop :=
  (∀ (s : State) (t : Thread) (h : CoxH) (k : Tok) (a : SReg), Issues s t .job h [a] →
    let c := s.ctx t.home
    (c.grammar.load.isSome = true ∨ c.waitReady k = false → exec (.gmld h k a) s = .next s) ∧
    (c.grammar.load = none → c.waitReady k = true →
    let c1 := (c.takeWait k).unfetch
    let cmd : Cmd := { opc := 0x0B0, tok := k, a := s.reg t a &&& ~~~ 63, b := 0, c := 0, mods := 0, pc := (s.stream t).pc,
                       forker := t, seq := if c.handling.isSome then 1 else 0, gen := c.gen }
    exec (.gmld h k a) s =
      .next ((s.setCtx t.home { c1 with grammar := { c1.grammar with load := some cmd } }).next t))) ∧
  (∀ (s : State) (t : Thread) (h : CoxH) (a : SReg) (g g' : Grammar), Issues s t .job h [a] →
    (s.ctx t.home).grammar = g → g.load = none → g.loaded = true →
    let n := (s.reg t a).toNat % 2 ^ 32
    let va := g.cls + BitVec.ofNat 64 n
    let x := s.readV t.home .load .l1 va 1
    let ea := g.tt + BitVec.ofNat 64 (4 * (g.state.toNat * g.ncls + natLE x.1))
    let y := x.2.readV t.home .load .l1 ea 4
    n < 512 * g.nch → s.chk t.home .load va 1 = .ok → natLE x.1 < g.ncls → x.2.chk t.home .load ea 4 = .ok →
    g.move (natLE y.1) = .ok g' →
    exec (.gmstep h a) s = .next ((y.2.setCtx t.home { y.2.ctx t.home with grammar := g' }).next t)) ∧
  (∀ (s : State) (t : Thread) (h : CoxH) (d a : SReg) (e : BitVec 3) (g : Grammar) (m : BitVec 512) (f : Word),
    Issues s t .job h [d, a] → (s.ctx t.home).grammar = g → g.load = none → g.loaded = true →
    (s.reg t a).toNat < g.nch → g.lookup (s.reg t a).toNat = some (m, f) →
    let forced := decide (f.toNat % 2 ^ 32 = 1)
    let v : Word := if forced then BitVec.ofNat 64 (f.toNat / 2 ^ 32) else BitVec.ofNat 64 (m.toNat / 2 ^ (64 * e.toNat))
    let u := s.setCtx t.home { s.ctx t.home with grammar := g }
    exec (.gmmask h d a e) s = .next ((u.setCox t (((u.cox t).setReg d v).setP 7 forced)).next t)) ∧
  (∀ (s : State) (t : Thread) (h : CoxH) (d : SReg) (n : BitVec 4) (g : Grammar), Issues s t .job h [d] →
    (s.ctx t.home).grammar = g → g.load = none →
    let at_ := fun (x : Grammar) => BitVec.ofNat 64 (x.state.toNat + 2 ^ 16 * x.stack.length)
    let fin : Grammar → Out := fun x => .next (((s.setReg t d (at_ x)).setCtx t.home
      { (s.setReg t d (at_ x)).ctx t.home with grammar := x }).next t)
    (g.loaded = true →
      exec (.gmsave h d n) s = fin { g with snaps := g.snaps.set n.toNat (some (g.state, g.stack)) } ∧
      (∀ st stk, g.snaps.get n.toNat none = some (st, stk) →
        exec (.gmrest h d n) s = fin { g with state := st, stack := stk }) ∧
      (g.snaps.get n.toNat none = none → exec (.gmrest h d n) s = .next (s.fault t ⟨6, 7⟩ 0))) ∧
    (g.loaded = false →
      exec (.gmsave h d n) s = .next (s.fault t ⟨6, 1⟩ 0) ∧ exec (.gmrest h d n) s = .next (s.fault t ⟨6, 1⟩ 0))) ∧
  (∀ (s : State) (t : Thread) (h : CoxH) (d : SReg) (n : BitVec 4), Issues s t .job h [d] →
    let c := (s.ctx t.home).tsfUpdate (s.crewNow (crewOf t.home))
    exec (.rdtsf h d n) s = .next (((s.setCtx t.home c).setReg t d (c.tsf.get n.toNat 0)).next t))

/-! ## Exceptions and system words -/

/-- A fault of a job's word: the stream stops at the word, which has had no effect, and a record with class, subcause,
pc and address is raised: a user class waits for the job's handler, a privileged one enters the intake of the service
core that FDST names for the partition, when it has room: behind the records raised before it, but ahead of those that its
job has raised in the same cycle in units that come after its own in R370's order (R370, R376). A user fault of the handler's own cox kills the job (R60,
R367, R371, R372, R374, R376). A fault of a service core's own word enters the head of its intake; while SIN = 1 the
core halts for good (R377, R404). -/
def Obligations.TakingAFault : Prop :=
  (∀ (s : State) (t : Thread) (c : Cause) (a : Word), t.isSvc = false →
    (privClass c = false → ((s.ctx t.home).handling = none ∨ t ≠ .cox t.home) →
      let u := s.fault t c a
      (u.stream t).status = .stopped ∧ (u.stream t).pc = (s.stream t).pc ∧ SameMemory s u ∧ SameLocal s u ∧
      (∀ r, u.reg t r = s.reg t r) ∧
      ∃ r, (u.ctx t.home).records = insertRecord r (s.ctx t.home).records ∧ r.cls = c.cls ∧ r.sub = c.sub ∧
        r.pc = (s.stream t).pc ∧ r.addr = a ∧ r.home = t.home ∧ r.unit = unitOf t ∧ r.at_ = s.clockOf t.home ∧
        r.rst = restartable c ∧ r.cutv = false) ∧
    (privClass c = false → (s.ctx t.home).handling ≠ none → t = .cox t.home →
      s.fault t c a = s.killJob t.home 4 c) ∧
    (privClass c = true →
      let n := (s.fdst.get (BitVec.ofNat 6 (s.partOf t.home)).toNat 0).toNat
      let waiting := fun (z : State) => (z.waitRecs.filter fun x => x.1 == n).map (·.2)
      let old := (s.svc n).intake
      let k := if (s.svc n).sin then 1 else 0
      let goesBefore := fun (r x : Record) =>
        r.home = x.home ∧ r.gen = x.gen ∧ r.at_ = x.at_ ∧ r.unit.rank < x.unit.rank
      let u := s.fault t c a
      (u.stream t).status = .stopped ∧ (u.stream t).pc = (s.stream t).pc ∧
      (∃ r before after, r.cls = c.cls ∧ r.sub = c.sub ∧ r.pc = (s.stream t).pc ∧ r.addr = a ∧ r.home = t.home ∧
        r.unit = unitOf t ∧ r.at_ = s.clockOf t.home ∧
        old.drop k ++ waiting s = before ++ after ∧
        (u.svc n).intake ++ waiting u = old.take k ++ before ++ r :: after ∧
        (∀ x ∈ before, ¬ goesBefore r x) ∧ ∀ x, after.head? = some x → goesBefore r x) ∧
      (u.svc n).intake.length = Nat.min (Nat.max 16 old.length) (old.length + (waiting s).length + 1) ∧
      (u.waitRecs.filter fun x => x.1 != n) = s.waitRecs.filter fun x => x.1 != n)) ∧
  (∀ (s : State) (n : Nat) (c : Cause) (a : Word),
    let u := s.fault (.svc n) c a
    (∃ r, (u.svc n).intake = r :: (s.svc n).intake ∧ r.cls = c.cls ∧ r.sub = c.sub ∧ r.addr = a ∧
      r.pc = (s.stream (.svc n)).pc ∧ r.unit = .service ∧ r.part = 0 ∧ r.core = BitVec.ofNat 8 n) ∧
    ((s.svc n).sin = true → (u.stream (.svc n)).status = .crashed) ∧
    ((s.svc n).sin = false → (u.stream (.svc n)).status = (s.stream (.svc n)).status) ∧
    (u.stream (.svc n)).pc = (s.stream (.svc n)).pc)

/-- Delivery to a job's handler, at the cox's turn: EPC takes the cox's pc, PSV p1 to p7, HST reads HIN = 1 and the
record's RST, every shadow becomes invalid, and the cox goes on at HANDLER; registers and predicates keep their values
(R219, R373). Loads that had issued before perform first (R280). A service core that is not in its trap takes the
record at the head of its intake: SEPC takes the pc, SIN becomes 1, every shadow becomes invalid, and the core goes on
at SVEC, also from HALT (R219, R377). -/
def Obligations.Deliveries : Prop :=
  (∀ (s s0 : State) (j : Nat) (r : Record) (x : Job), GivesTurn s s0 (.cox j) → HasCycle s0 (.cox j) →
    s0.deliverable j = some r → (s.ctx j).job = some x →
    let v := (s0.startTurn (.cox j)).land (.cox j)
    ∃ u, step s = .next u ∧ (u.ctx j).epc = (s.stream (.cox j)).pc &&& ~~~ 7 ∧
      (u.stream (.cox j)).pc = x.nest.handler &&& ~~~ 7 ∧ (u.stream (.cox j)).status = .ready ∧
      (u.ctx j).hst = (if r.rst then 3 else 1) ∧
      (∃ q, (u.ctx j).handling = some q ∧ q.psv.toNat * 2 = (s.cox (.cox j)).preds.toNat / 2 * 2 ∧ q.cls = r.cls ∧
        q.sub = r.sub ∧ q.pc = r.pc ∧ q.addr = r.addr) ∧
      (u.ctx j).records = (s.ctx j).records.erase r ∧
      (u.cox (.cox j)).sh1 = [] ∧ (u.cox (.cox j)).sh2 = [] ∧ (u.cox (.cox j)).late = [] ∧
      (∀ g, u.reg (.cox j) g = v.reg (.cox j) g) ∧ ((s.cox (.cox j)).late = [] → ∀ g, v.reg (.cox j) g = s.reg (.cox j) g) ∧
      (u.cox (.cox j)).preds = (s.cox (.cox j)).preds ∧ KeepsMemory s u) ∧
  (∀ (s s0 : State) (n : Nat), GivesTurn s s0 (.svc n) → HasCycle s0 (.svc n) →
    (s.svc n).intake ≠ [] → (s.svc n).sin = false →
    ((s.stream (.svc n)).status = .ready ∨ (s.stream (.svc n)).status = .parked ∨
      (s.stream (.svc n)).status = .halted) →
    ∃ u, step s = .next u ∧ (u.svc n).sepc = (s.stream (.svc n)).pc &&& ~~~ 7 ∧ (u.svc n).sin = true ∧
      (u.stream (.svc n)).pc = (s.svc n).svec &&& ~~~ 7 ∧ (u.stream (.svc n)).status = .ready ∧
      (u.cox (.svc n)).sh1 = [] ∧ (u.cox (.svc n)).sh2 = [] ∧ (u.svc n).intake = (s.svc n).intake ∧
      ((s.cox (.svc n)).late = [] → ∀ g, u.reg (.svc n) g = s.reg (.svc n) g) ∧ KeepsMemory s u)

/-- ERET of a job's handler with RST = 1 restores p1 to p7 from PSV, clears HIN and goes on at EPC, and a stopped
access, vector or spore stream goes on at its word; with RST = 0 it kills the job. On a service core it clears FACT and
SIN, removes the head record and goes on at SEPC. Elsewhere it raises class 1 (R380). -/
def Obligations.Returns : Prop :=
  (∀ (s : State) (j : Nat) (h : CoxH) (r : Record), s.cur = .cox j → ((s.cox (.cox j)).pred h.bl.toNat h.pred).1 = true →
    (s.ctx j).handling = some r →
    (r.rst = true → r.home = j → ∃ u, exec (.eret h) s = .next u ∧ (u.ctx j).handling = none ∧
      (u.ctx j).hst = 0 ∧ (u.stream (.cox j)).pc = (s.ctx j).epc &&& ~~~ 7 ∧ (u.stream (.cox j)).status = .ready ∧
      (u.cox (.cox j)).preds = BitVec.ofNat 8 (2 * r.psv.toNat) ∧
      (∀ g, u.reg (.cox j) g = s.reg (.cox j) g) ∧
      (r.unit = .acc → (s.acc j).run.status = .stopped → (u.acc j).run = { (s.acc j).run with status := .ready }) ∧
      (r.unit = .vec → (s.vec j).run.status = .stopped → (u.vec j).run = { (s.vec j).run with status := .ready }) ∧
      (∀ k, k < 4 → r.unit = .spore k → (s.cox (.spore j k)).run.status = .stopped →
        (u.cox (.spore j k)).run = { (s.cox (.spore j k)).run with status := .ready })) ∧
    (r.rst = false → exec (.eret h) s = .next (s.killJob j 4 ⟨r.cls, r.sub⟩))) ∧
  (∀ (s : State) (n : Nat) (h : CoxH), s.cur = .svc n → ((s.cox (.svc n)).pred h.bl.toNat h.pred).1 = true →
    (s.svc n).sin = true →
    let u := (State.issueTo (s.setSvc n { s.svc n with fact := 0, sin := false, intake := (s.svc n).intake.tail }) (.svc n)
      (s.svc n).sepc).fillIntake n
    ((s.svc n).intake = [] → exec (.eret h) s = .next u) ∧
    (∀ r l, (s.svc n).intake = r :: l →
      (fieldOf (s.svc n).fact 0 2 = 0 ∨ fieldOf (s.svc n).fact 0 2 = 3 → exec (.eret h) s = .next u) ∧
      (fieldOf (s.svc n).fact 0 2 = 1 → exec (.eret h) s = .next (u.factRetry r)) ∧
      (fieldOf (s.svc n).fact 0 2 = 2 → exec (.eret h) s = .next (u.factKill r)))) ∧
  (∀ (s : State) (j : Nat) (h : CoxH), s.cur = .cox j → (s.ctx j).handling = none →
    exec (.eret h) s = .next (s.fault (.cox j) ⟨1, 0⟩ 0)) ∧
  (∀ (s : State) (n : Nat) (h : CoxH), s.cur = .svc n → (s.svc n).sin = false →
    exec (.eret h) s = .next (s.fault (.svc n) ⟨1, 0⟩ 0))

/-- TRAP raises class 10 with its code as address and leaves its stream after the word; FLTRD reads a word of the
current record, waiting for the cut with words 4 to 13, and 0 outside a handler; HALT stops a service core; KILLJ kills
the own job, or on a service core the job that it names (R379, R382 to R384). SPARM arms spore a[17:16] under tag
a[15:0], a tag of 0 unbinds it, and an armed spore with the same tag is unbound; it waits for a spore that is filling or
running, and a spore the job does not have raises class 1. SPEND ends a spore, whose registers are discarded and which
is armed again (R220, R385, R386). -/
def Obligations.SystemWords : Prop :=
  ((∀ (s : State) (t : Thread) (h : CoxH) (code : BitVec 16), Issues s t .any h [] →
    let u := s.fault t ⟨10, 0⟩ (code.setWidth 64)
    exec (.trap h code) s =
      .next (u.setStream t { u.stream t with pc := (s.stream t).pc + 8, since := 0, hold := 0, occ := 0 })) ∧
  (∀ (s : State) (t : Thread) (h : CoxH) (d : SReg) (w : BitVec 4), Issues s t .any h [d] →
    (s.currentRecord t = none → exec (.fltrd h d w) s = .next ((s.setReg t d 0).next t)) ∧
    (∀ r, s.currentRecord t = some r →
      (r.cutv = true ∨ r.unit = .none ∨ w < 4 ∨ 13 < w →
        exec (.fltrd h d w) s = .next ((s.setReg t d (r.word (s.pendOf r) w.toNat)).next t)) ∧
      (r.cutv = false → r.unit ≠ .none → 4 ≤ w → w ≤ 13 → exec (.fltrd h d w) s = .next s))) ∧
  (∀ (s : State) (t : Thread) (h : CoxH), Issues s t .svcOnly h [] →
    (s.remoteDone t = true → exec (.halt h) s = .next ((s.next t).setStatus t .halted)) ∧
    (s.remoteDone t = false → exec (.halt h) s = .next s)) ∧
  (∀ (s : State) (t : Thread) (h : CoxH) (a : SReg), Issues s t .any h [a] →
    (t.isSvc = true →
      exec (.killj h a) s = .next ((s.killJob ((s.reg t a).toNat % 1024) 3 ⟨0, 0⟩).next t)) ∧
    (t.isSvc = false → s.reg t a = 0 → exec (.killj h a) s = .next (s.killJob t.home 2 ⟨0, 0⟩)) ∧
    (t.isSvc = false → s.reg t a ≠ 0 → exec (.killj h a) s = .next (s.fault t ⟨3, 0⟩ 0)))) ∧
  ((∀ (s : State) (t : Thread) (h : CoxH) (a : SReg), Issues s t .job h [a] →
    let c := s.ctx t.home
    let k := (s.reg t a).toNat / 2 ^ 16 % 4
    let g := (s.reg t a).toNat % 2 ^ 16
    (c.sporeCount ≤ k → exec (.sparm h a) s = .next (s.fault t ⟨1, 0⟩ 0)) ∧
    (k < c.sporeCount → (∃ i, i < 4 ∧ (c.spore i).state.busy = true ∧ (i = k ∨ (g ≠ 0 ∧ (c.spore i).tag.toNat = g))) →
      exec (.sparm h a) s = .next s) ∧
    (k < c.sporeCount → (∀ i, i < 4 → (c.spore i).state.busy = true → i ≠ k ∧ (g = 0 ∨ (c.spore i).tag.toNat ≠ g)) →
      ∃ l, exec (.sparm h a) s = .next ((s.setCtx t.home { c with spores := l }).next t) ∧
        ∀ i, i < 4 → Tab.get l i (⟨.idle, 0⟩ : Spore) =
          (if i = k ∧ g = 0 then ⟨.idle, 0⟩
           else if i = k then ⟨.armed, BitVec.ofNat 16 g⟩
           else if g ≠ 0 ∧ (c.spore i).state = .armed ∧ (c.spore i).tag.toNat = g then ⟨.idle, 0⟩
           else c.spore i))) ∧
  (∀ (s : State) (j k : Nat) (h : CoxH), Issues s (.spore j k) .sporeOnly h [] → k < 4 →
    (s.remoteDone (.spore j k) = false → exec (.spend h) s = .next s) ∧
    let u := (s.setCox (.spore j k)
      { Cox.reset with run := { Stream.reset with ran := (s.stream (.spore j k)).ran } }).setSpore j k { (s.ctx j).spore k with state := .armed }
    (s.remoteDone (.spore j k) = true → exec (.spend h) s = .next (u.msgAccept j k))))

/-- RDSYS reads and WRSYS writes the register that its number names, for every register of Table 16.6; a number that
names none, or a job's register other than CPST on a service core, raises class 1, and any other register in a job class
3, whatever the predicate; a write waits until its stream's remote stores have performed, and where the register itself
makes it wait (R12, R60, R381). The numbers of the system registers are those of Table 16.6, the partitions', slices',
crews', zones' and queues' registers in their order of number, and no other number names one (R198, R206, R261, R262,
R332, R345, R360, R364, R377, R381, R409, R414). What a register holds after a write, for the registers whose writes do
no more than store: the written bits of its layout, the others as they were or 0; the read-only registers keep their
values (R12, Tables 8.4, 9.3, 15.3, 16.6). -/
def Obligations.SystemRegisters : Prop :=
  ((∀ (s : State) (t : Thread) (h : CoxH) (d : SReg) (n : BitVec 12), s.cur = t → Form.any.legal t [d] = true →
    (sysGate t n.toNat = 1 → exec (.rdsys h d n) s = .next (s.fault t ⟨1, 0⟩ 0) ∧
      exec (.wrsys h d n) s = .next (s.fault t ⟨1, 0⟩ 0)) ∧
    (sysGate t n.toNat = 3 → exec (.rdsys h d n) s = .next (s.fault t ⟨3, 0⟩ 0) ∧
      exec (.wrsys h d n) s = .next (s.fault t ⟨3, 0⟩ 0)) ∧
    (∀ r, SysReg.of n.toNat = some r → sysGate t n.toNat = 0 → ((s.cox t).pred h.bl.toNat h.pred).1 = true →
      exec (.rdsys h d n) s = .next (((s.sysRead t r).2.setReg t d (s.sysRead t r).1).next t) ∧
      (∀ u, s.remoteDone t = true → s.sysWrite t r (s.reg t d) = some u → exec (.wrsys h d n) s = .next (u.next t)) ∧
      (s.remoteDone t = false → exec (.wrsys h d n) s = .next s) ∧
      (s.remoteDone t = true → s.sysWrite t r (s.reg t d) = none → exec (.wrsys h d n) s =
        .next (match r with
          | .fev k => (s.fevWrite (Thread.svcNo t) k (s.reg t d)).2
          | _ => s)))) ∧
  (∀ (t : Thread) (n : Nat), SysReg.of n = none → sysGate t n = 1) ∧
  (∀ (t : Thread) (n : Nat) (r : SysReg), SysReg.of n = some r →
    let ofJob := decide (r ∈ [SysReg.act, .mxst, .cstk, .cpst, .lhz, .epc, .hst])
    sysGate t n = (if t.isSvc then (if ofJob && r != .cpst then 1 else 0) else if ofJob then 0 else 3))) ∧
  ((∀ x ∈ [(0x40, SysReg.act), (0x41, .mxst), (0x42, .cstk), (0x43, .cpst), (0x44, .lhz), (0x45, .epc), (0x46, .hst),
      (0x54, .fotb), (0x55, .hams), (0x56, .hagt), (0x2A0, .svec), (0x2A1, .sepc), (0x2A2, .fact), (0x2A3, .fqs),
      (0x3C0, .evl0), (0x3C1, .evl1), (0x5BE, .clst), (0x5BF, .clpk)], SysReg.of x.1 = some x.2) ∧
  (∀ i, i < 4 → SysReg.of (0x50 + i) = some (.slt i)) ∧
  (∀ i, i < 8 → SysReg.of (0x280 + i) = some (.kst i) ∧ SysReg.of (0x2B0 + i) = some (.scrs i)) ∧
  (∀ i, i < 64 →
    SysReg.of (0x100 + 4 * i) = some (.pd0 i) ∧ SysReg.of (0x101 + 4 * i) = some (.pd1 i) ∧
    SysReg.of (0x102 + 4 * i) = some (.pd2 i) ∧ SysReg.of (0x103 + 4 * i) = some (.pd3 i) ∧
    SysReg.of (0x200 + i) = some (.wpr i) ∧ SysReg.of (0x240 + i) = some (.wpra i) ∧
    SysReg.of (0x2C0 + i) = some (.fev i) ∧ SysReg.of (0x380 + i) = some (.bin i) ∧
    SysReg.of (0x5C0 + i) = some (.clq i) ∧ SysReg.of (0x700 + 2 * i) = some (.rtd0 i) ∧
    SysReg.of (0x701 + 2 * i) = some (.rtd1 i) ∧
    (∀ j, j < 4 → SysReg.of (0x480 + 4 * i + j) = some (.nvqr i j)) ∧
    ∀ q, q < 16 → SysReg.of (0x800 + 32 * i + 2 * q) = some (.wqd0 i q) ∧
      SysReg.of (0x801 + 32 * i + 2 * q) = some (.wqd1 i q)) ∧
  (∀ i, i < 65 → SysReg.of (0x300 + i) = some (.fdst i)) ∧
  (∀ i, i < 128 → SysReg.of (0x400 + i) = some (.dwin i) ∧ SysReg.of (0x600 + 2 * i) = some (.cata i) ∧
    SysReg.of (0x601 + 2 * i) = some (.catb i)) ∧
  (∀ n, n < 0x40 ∨ (0x47 ≤ n ∧ n < 0x50) ∨ (0x57 ≤ n ∧ n < 0x100) ∨ (0x288 ≤ n ∧ n < 0x2A0) ∨ (0x2A4 ≤ n ∧ n < 0x2B0) ∨
      (0x2B8 ≤ n ∧ n < 0x2C0) ∨ (0x341 ≤ n ∧ n < 0x380) ∨ (0x3C2 ≤ n ∧ n < 0x400) ∨ (0x580 ≤ n ∧ n < 0x5BE) ∨
      (0x780 ≤ n ∧ n < 0x800) ∨ 0x1000 ≤ n → SysReg.of n = none)) ∧
  (∀ (s : State) (t : Thread) (v : Word),
    (∀ r ∈ [SysReg.hst, .lhz, .clst, .clpk, .fqs], s.sysWrite t r v = some s) ∧
    (∀ w, s.sysWrite t (.slt w) v = some s) ∧ (∀ p q, s.sysWrite t (.wqd1 p q) v = some s) ∧
    (∀ (r : SysReg) (m k : Word), (r, m, k) ∈ [(SysReg.epc, 0xFFFF_FFFF_FFFF_FFF8, 0), (.cstk, 0x0000_FFFF_FFFF_FFC0, 0xFFFF_0000_0000_003F),
        (.fotb, 0xFF_FFFF_F000, 0), (.svec, 0xFFFF_FFFF_FFFF_FFF8, 0), (.sepc, 0xFFFF_FFFF_FFFF_FFF8, 0),
        (.evl0, 0xFF_FFFF_F000, 0), (.evl1, 0xF, 0xFFFF_FFFF_FFFF_FFF0)] →
      ∃ u, s.sysWrite t r v = some u ∧ (u.sysRead t r).1 = (v &&& m) ||| ((s.sysRead t r).1 &&& k)) ∧
    (∀ (p : Nat) (r : SysReg) (m : Word), (r, m) ∈ [(SysReg.rtd0 p, 0xFFFF_FFFF_FFFF_F000), (.rtd1 p, 0x1FFFF), (.wpra p, 0xFF_FFFF_FFF8),
        (.dwin p, 0xFFFF_3F3F_C000_0000), (.fdst p, 7)] →
      ∃ u, s.sysWrite t r v = some u ∧ (u.sysRead t r).1 = v &&& m) ∧
    (∀ p j, ∃ u, s.sysWrite t (.nvqr p j) v = some u ∧ (u.sysRead t (.nvqr p j)).1 = v &&& 0x8FFF_FFFF_0000_0000) ∧
    (∀ i, ∃ u, s.sysWrite t (.kst i) v = some u ∧ (u.sysRead t (.kst i)).1 = 0 ∧
      (u.svc (Thread.svcNo t)).kst.get i 0 = v))

/-- CLREQ forks a request to the allocator's queue with its operand and target, in the mode of that cycle; CLREL's word
waits in the allocator's queue, in its place among the requests of the same cycle, until it has performed there, which
is the model's reading (log 50), as it is that CLREQ takes its wait token at its issue (log 49); CLRD reads the latest
sample of a sensor, temperatures signed (R34, R263 to R267, R270). The allocator: the first request that can be served
is taken; a lowering is accepted at once, a raise when the pump budget and the partition's quota allow it, and the zone
then moves to its target with ST 7; a refused one completes its thread with ST 1 to 5: budget, quota, range, state,
owner. A CLREL sets the zone to its minimum and clears its owner. One that came in host-assisted mode goes to the host
first. Quanta go only to zones whose die has passed test (R34, R262 to R268, R422, Table 10.4). That nothing is served
once the walker of any die has placed an iteration in the cycle is the model's reading (log 90). -/
def Obligations.CoolantAllocation : Prop :=
  ((∀ (s : State) (n : Nat) (h : CoxH) (k : Tok) (a b : SReg), Issues s (.svc n) .svcOnly h [a, b] →
    let c := s.ctx (1024 + n)
    (c.waitReady k = false → exec (.clreq h k a b) s = .next s) ∧
    let q : ClReq := { svc := n, at_ := s.now, tok := k, opnd := s.reg (.svc n) a,
                       target := (s.reg (.svc n) b).setWidth 8, rel := false, fwd := s.assisted 3, host := none, ok := none,
                       done := false }
    (c.waitReady k = true → ∃ u, exec (.clreq h k a b) s = .next u ∧ u.clQueue = joinQueue q s.clQueue ∧
      u.ctx (1024 + n) = c.takeWait k ∧ (u.stream (.svc n)).pc = (s.stream (.svc n)).pc + 8)) ∧
  (∀ (s : State) (n : Nat) (h : CoxH) (a : SReg), Issues s (.svc n) .svcOnly h [a] →
    let v := s.reg (.svc n) a
    let r : ClReq := { svc := n, at_ := s.now, tok := ⟨0, 0⟩, opnd := v, target := 0, rel := true, fwd := s.assisted 3,
                       host := none, ok := none, done := false }
    ((∀ x ∈ s.clQueue, ClReq.isRel n v x = false) →
      exec (.clrel h a) s = .next { s with clQueue := joinQueue r s.clQueue }) ∧
    (∀ i x, s.clQueue[i]? = some x → ClReq.isRel n v x = true → (∀ y ∈ s.clQueue.take i, ClReq.isRel n v y = false) →
      exec (.clrel h a) s = .next ((s.clTurn i).clrelPass n v (.svc n)))) ∧
  (∀ (r : ClReq) (l : List ClReq), ∃ a b, l = a ++ b ∧ joinQueue r l = a ++ r :: b) ∧
  (∀ (s : State) (n : Nat) (h : CoxH) (d a : SReg) (i : BitVec 3), Issues s (.svc n) .svcOnly h [d, a] →
    let x := (s.zone ((s.reg (.svc n) a).toNat % 128)).sample
    let l : List Word := [x.inletTemp.signExtend 64, x.outletTemp.signExtend 64, x.flow.setWidth 64, x.pressure.setWidth 64,
      x.wetInner.setWidth 64, x.wetOuter.setWidth 64, x.inletValve.setWidth 64, x.purgeValve.setWidth 64]
    exec (.clrd h d a i) s = .next ((s.setReg (.svc n) d (l.getD i.toNat 0)).next (.svc n)))) ∧
  (∀ (s : State) (n : Nat) (r : ClReq), s.clFirst [] s.clQueue 0 = some n → s.clQueue[n]? = some r →
    let s1 := { s with clQueue := s.clQueue.eraseIdx n }
    let i := r.opnd.toNat % 128
    let z := s.zone i
    let g := r.target.toNat
    let mine := r.opnd.getLsbD 15 = true ∨ (z.ownv = true ∧ z.owner = r.opnd.toNat / 256 % 64)
    let serving := z.serving = true ∧ s.zonePassed i = true
    let o := exec (.allocatorServe n) s
    (s.catOpen = false → o = .next s) ∧
    (s.catOpen = true → r.fwd = true → r.ok = none → ∃ u, o = .next u ∧ u.zones = s.zones ∧ u.reserved = s.reserved ∧
      u.clQueue = s.clQueue.set n { r with host := some s.nextReq }) ∧
    (s.catOpen = true → (r.fwd = false ∨ r.ok ≠ none) → r.rel = true → z.serving = true → mine → ∃ u, o = .next u ∧
      (u.zone i).grant = z.min ∧ (u.zone i).tgt = z.min ∧ (u.zone i).setl = false ∧ (u.zone i).ownv = false ∧
      (u.zone i).state = z.state ∧ u.reserved.get i 0 = z.grant - z.min ∧ (∀ k, k ≠ i → u.zone k = s.zone k)) ∧
    (s.catOpen = true → (r.fwd = false ∨ r.ok ≠ none) → r.rel = false →
      (¬ serving → o = .next (s1.clRefuse r 4)) ∧
      (serving → ¬ mine → o = .next (s1.clRefuse r 5)) ∧
      (serving → mine → g < z.min ∨ z.max < g → o = .next (s1.clRefuse r 3)) ∧
      (serving → mine → z.min ≤ g → g ≤ z.max → z.grant < g → s.freeQuanta < g - z.grant →
        o = .next (s1.clRefuse r 1)) ∧
      (serving → mine → z.min ≤ g → g ≤ z.max → z.grant < g → g - z.grant ≤ s.freeQuanta →
        r.opnd.getLsbD 15 = false → s.quota z.owner < s.held z.owner + (g - z.grant) → o = .next (s1.clRefuse r 2)) ∧
      (serving → mine → z.min ≤ g → g ≤ z.max →
        g ≤ z.grant ∨ (g - z.grant ≤ s.freeQuanta ∧
          (r.opnd.getLsbD 15 = true ∨ s.held z.owner + (g - z.grant) ≤ s.quota z.owner)) →
        ∃ u, o = .next u ∧ (u.zone i).req = some r ∧ (u.zone i).tgt = g ∧ (u.zone i).setl = false ∧
          (u.zone i).grant = (if z.grant < g then z.grant else g) ∧ (u.zone i).state = z.state ∧
          u.reserved.get i 0 = (if z.grant < g then g - z.grant else z.grant - g) ∧
          (u.svc r.svc).clst.toNat % 256 = 7 ∧ (u.svc r.svc).clst.toNat / 2 ^ 16 % 128 = i ∧
          (∀ k, k ≠ i → u.zone k = s.zone k) ∧ SameMemory s u)))

/-! ## Access words -/

/-- The words of address registers: AMV, AADD and AMUL write their register when the predicate holds, a write to a0 goes
nowhere; AMV of a call takes a SCAL; APF fetches the lines of its 1,024 bytes into the caches and steps its address
register, once no page of them waits for a walk (log 106); AWF waits for its flag; ACALL takes a SCAL into its register
or a MASK into p1 to p7; a call that storage has damaged raises class 18 when the predicate holds, and is discarded
otherwise (R61, R62, R306, R312, R313, R315, R388).
The addresses of the row forms: base and offset, base and index register, or base alone with the register stepped after
(Table 3.4, R306). -/
def Obligations.AccRegisterWords : Prop :=
  (∀ (s : State) (j : Nat) (h : LaneH) (p : Bool), AccIssues s j h p →
    let x := s.acc j
    let val : AluSrc → Word := fun q => match q with
      | .reg i => x.a i
      | .imm i => i.signExtend 64
    let put : AReg → Word → Acc := fun t v => if p = true ∧ t ≠ 0 then { x with regs := x.regs.set t.toNat v } else x
    (∀ t b q, exec (.aadd h t b q) s = .next (s.accEnd j (put t (x.a b + val q)))) ∧
    (∀ t b q, exec (.amul h t b q) s = .next (s.accEnd j (put t (x.a b * val q)))) ∧
    (∀ t b, exec (.amv h t (.reg b)) s = .next (s.accEnd j (put t (x.a b)))) ∧
    (∀ t i, exec (.amv h t (.imm i)) s = .next (s.accEnd j (put t (i.signExtend 64)))) ∧
    (∀ t c, (s.ctx j).headCall false = some c → c.ty = .scal → p = false ∨ s.callPoisoned j false 1 = false →
      exec (.amv h t .call) s = .next ((s.setCtx j ((s.ctx j).popCalls false 1)).accEnd j (put t c.payload))) ∧
    (∀ t b c, (s.ctx j).headCall false = some c → p = true → s.callPoisoned j false 1 = true →
      (c.ty = .scal → exec (.amv h t .call) s = .next (s.fault (.acc j) ⟨18, 1⟩ 0)) ∧
      (c.ty = .scal ∨ c.ty = .mask → exec (.acall h b) s = .next (s.fault (.acc j) ⟨18, 1⟩ 0))) ∧
    (∀ t c, (s.ctx j).headCall false = some c → c.ty ≠ .scal → exec (.amv h t .call) s = .next (s.fault (.acc j) ⟨2, 0⟩ 0)) ∧
    (∀ t, (s.ctx j).headCall false = none → exec (.amv h t .call) s = .next s) ∧
    (∀ b m,
      let ls := linesOf (x.address b m).1 1024
      (∀ a, p = true → ls.find? (s.unwalked j) = some a → exec (.apf h b m) s = .next (s.forwardWalk j a)) ∧
      (p = false ∨ ls.find? (s.unwalked j) = none → exec (.apf h b m) s =
        .next ((if p = true then ls.foldl (fun y a => y.prefetch j a) s else s).accEnd j (x.address b m).2))) ∧
    (∀ f : BitVec 6, (p = false ∨ x.flags.getLsbD f.toNat = true → exec (.awf h f) s = .next (s.accEnd j x)) ∧
      (p = true → x.flags.getLsbD f.toNat = false → exec (.awf h f) s = .next s)) ∧
    (∀ b c, (s.ctx j).headCall false = some c →
      let u := s.setCtx j ((s.ctx j).popCalls false 1)
      (c.ty = .scal → p = false ∨ s.callPoisoned j false 1 = false →
        exec (.acall h b) s = .next (u.accEnd j (put b c.payload))) ∧
      (c.ty = .mask → p = true → s.callPoisoned j false 1 = false → exec (.acall h b) s =
        .next (u.accEnd j { x with preds := BitVec.ofNat 8 (c.payload.toNat % 256 / 2 * 2) })) ∧
      (c.ty = .mask → p = false → exec (.acall h b) s = .next (u.accEnd j x)) ∧
      (c.ty ≠ .scal → c.ty ≠ .mask → exec (.acall h b) s = .next (s.fault (.acc j) ⟨2, 0⟩ 0)))) ∧
  (∀ (x : Acc) (b : AReg),
    (∀ i, x.address b (.off i) = (x.a b + i.signExtend 64, x)) ∧ (∀ i, x.address b (.idx i) = (x.a b + x.a i, x)) ∧
    (∀ i, (x.address b (.post i)).1 = x.a b ∧ (b ≠ 0 → (x.address b (.post i)).2.a b = x.a b + i.signExtend 64) ∧
      (∀ r, r ≠ b → (x.address b (.post i)).2.a r = x.a r) ∧ (x.address b (.post i)).2.a 0 = 0) ∧
    (∀ i, x.gaddress b (.off i) = x.address b (.off i)) ∧ (∀ i, x.gaddress b (.post i) = x.address b (.post i)))

/-- Row loads: ALD pushes the 1,024 bytes at its address, ALDS those at its scratchpad offset, AGTH the 64 pieces that
its index table names, zero for index 0xFFFFFFFF; with a false predicate a void row is pushed and nothing is read; a
full queue makes them wait; a failed check raises its cause, with an address that is not a multiple of 16 class 7 and a
row outside the range class 8. Each piece is an operation of its own: a turn performs all that are left, a slow turn the
first of them. A piece that a scratch window refuses or that is poisoned when its turn comes stops the word with the
piece's address, and nothing of the row is kept; each line that a piece brings into L2 is locked there before the next
piece is read, and stays with the row (R279, R298, R299, R307 to R310, R389, R402; that a turn performs several pieces is
the model's schedule, log 89).
Row stores: AST writes the head row at its address, ASTS at its scratchpad offset, ASCT its pieces where the index table
names them, and ASTX, once 32 rows have come, the rows' columns at their stride, each element's bytes in the order of
the rows; the row leaves its queue with the last piece, with a false predicate without a store; an empty queue makes
them wait; a failed check comes before the pop, and first of all the poison of the head row; ASTX stops at a poisoned row,
and where a window has been taken from it before its first store arrives there (R279, R299, R307, R308, R310, R311, R389, R402; the turns' pieces as
in the loads, log 89; an element of ASTX beyond its row is a free value, log 2). -/
def Obligations.AccRows : Prop :=
  ((∀ (i : Instr) (s : State) (j : Nat) (M : RowMove) (p : Bool),
    s.rowMove j i = some M → M.load = true → AccIssues s j M.h p → M.t < 4 →
    let full := 16 ≤ ((s.ctx j).lq.get M.t.toNat []).length
    let pend := (s.acc j).moving.getD ⟨M.pieces, M.vas, [], []⟩
    let passed := (s.acc j).moving = none → M.chk = .ok
    let now := if s.slow then pend.left.take 1 else pend.left
    let r := (s.setMoving j (some pend)).readAt j M.side now
    let locked := ((r.2.acc j).moving.getD pend).locked
    (full → exec i s = .next s) ∧
    (¬ full → p = false → exec i s = .next ((s.pushRow j M.t none []).accEnd j M.after)) ∧
    (¬ full → p = true → (s.acc j).moving = none → ∀ c a, M.chk = .bad c a → exec i s = .next (s.fault (.acc j) c a)) ∧
    (¬ full → p = true → passed → ∀ k e, s.pieceFault j M.side false now = some (k, e) →
      exec i s = .next ((s.setMoving j none).fault (.acc j) e (pend.vas.getD k 0))) ∧
    (¬ full → p = true → passed → s.pieceFault j M.side false now = none →
      (now.length = pend.left.length → exec i s = .next (((r.2.setMoving j none).pushRow j M.t
        (some (BitVec.ofNat 8192 (natLE (pend.bytes ++ r.1)))) locked).accEnd j { M.after with moving := none })) ∧
      (now.length < pend.left.length →
        exec i s = .next (r.2.setMoving j (some ⟨pend.left.drop 1, pend.vas.drop 1, pend.bytes ++ r.1, locked⟩))))) ∧
  (∀ (s : State) (j : Nat) (d : Side) (store : Bool) (l : List (Nat × Nat)) (k : Nat) (c : Cause),
    s.pieceFault j d store l = some (k, c) ↔
      k < l.length ∧ s.pieceFault j d store (l.take k) = none ∧ s.pieceFault j d store [l.getD k (0, 0)] = some (0, c)) ∧
  (∀ (s : State) (j : Nat) (store : Bool) (a n : Nat), a < absent →
    let place := if inWindow a then s.placeFault (s.partOf j) store a else none
    (∀ c, place = some c → s.pieceFault j .dev store [(a, n)] = some (0, c)) ∧
    (place = none → s.pieceFault j .dev store [(a, n)] =
      if store = false ∧ s.poisoned a n = true then some (0, ⟨18, 1⟩) else none) ∧
    s.pieceFault j .spad store [(a, n)] =
      (if store = false ∧ s.spadPoisoned j a n = true then some (0, ⟨18, 1⟩) else none) ∧
    ∀ d, s.pieceFault j d store [(absent, n)] = none) ∧
  (∀ (s : State) (j a n : Nat) (l : List (Nat × Nat)), a < absent →
    let x := s.loadAt j a n .l1
    let y := (x.2.lockNew j (a / 128) s).readAt j .dev l
    s.readAt j .dev ((a, n) :: l) = (x.1 ++ y.1, y.2)) ∧
  (∀ (s old : State) (j ln : Nat) (m : Moving), (s.acc j).moving = some m →
    ((s.l2 j).lines.contains ln = true → (old.l2 j).lines.contains ln = false →
      (s.lockNew j ln old).acc j = { s.acc j with moving := some { m with locked := m.locked ++ [ln] } }) ∧
    ((s.l2 j).lines.contains ln = false ∨ (old.l2 j).lines.contains ln = true → s.lockNew j ln old = s)) ∧
  (∀ (s : State) (j : Nat) (l : List (Nat × Nat)), s.Steady → s.kept = [] → (∀ x ∈ l, x.1 + x.2 ≤ 2 ^ 40) →
    (s.readAt j .dev l).1 = l.flatMap fun x => s.rawRead x.1 x.2) ∧
  (∀ (s : State) (j : Nat) (l : List (Nat × Nat)), (∀ x ∈ l, x.1 < absent) →
    s.readAt j .spad l = (l.flatMap fun x => s.spadRead j x.1 x.2, s)) ∧
  (∀ (s : State) (j n : Nat) (d : Side) (l : List (Nat × Nat)),
    (s.readAt j d ((absent, n) :: l)).1 = List.replicate n 0 ++ (s.readAt j d l).1) ∧
  (∀ (s : State) (j : Nat) (perm : Perm) (read : Bool) (va : Word),
    (va.toNat % 16 ≠ 0 → s.chkRow j perm va = .bad ⟨7, 0⟩ va ∧ s.chkSpad j va read = .bad ⟨7, 0⟩ va) ∧
    (va.toNat % 16 = 0 → s.chkRow j perm va = s.chk j perm va 1024) ∧
    (va.toNat % 16 = 0 → (s.ctx j).spadLen < va.toNat + 1024 → s.chkSpad j va read = .bad ⟨8, 0⟩ va)) ∧
  (∀ (s : State) (j : Nat) (perm : Perm) (tab base : Word),
    (tab.toNat % 4 ≠ 0 → (s.indexMove j perm tab base).1 = .bad ⟨7, 0⟩ tab) ∧
    (tab.toNat % 4 = 0 → base.toNat % 16 ≠ 0 → (s.indexMove j perm tab base).1 = .bad ⟨7, 0⟩ base) ∧
    (∀ idx, s.indexTable j tab base = .ok idx →
      idx.length = 64 ∧ (∀ k, k < 64 → idx.getD k 0 = natLE (s.spadRead j (tab.toNat + 4 * k) 4)) ∧
      s.indexMove j perm tab base = (s.chkPieces j perm (indexed base idx),
        idx.map (fun i => if i = 0xFFFFFFFF then (absent, 16) else (s.addr j perm (base + BitVec.ofNat 64 (16 * i)), 16)),
        idx.map fun i => base + BitVec.ofNat 64 (16 * i))))) ∧
  ((∀ (i : Instr) (s : State) (j : Nat) (M : RowMove) (p : Bool),
    s.rowMove j i = some M → M.load = false → AccIssues s j M.h p → M.t = 4 ∨ M.t = 5 →
    let q := (s.ctx j).sq.get (M.t.toNat - 4) []
    let pend := (s.acc j).moving.getD ⟨M.pieces, M.vas, bytesLE 1024 (q.headD 0).toNat, []⟩
    let chk := if s.rowPoisoned j M.t then .bad ⟨18, 1⟩ 0 else M.chk
    let passed := (s.acc j).moving = none → chk = .ok
    let whole := s.slow = false ∨ pend.left.length ≤ 1
    (q = [] → exec i s = .next s) ∧
    (q ≠ [] → p = false → exec i s = .next ((s.dropRow j M.t).accEnd j M.after)) ∧
    (q ≠ [] → p = true → (s.acc j).moving = none → ∀ c a, chk = .bad c a → exec i s = .next (s.fault (.acc j) c a)) ∧
    (q ≠ [] → p = true → passed → whole →
      exec i s = .next ((((s.writeAt (.acc j) M.side pend.left pend.bytes).setMoving j none).dropRow j M.t).accEnd j
        { M.after with moving := none })) ∧
    (q ≠ [] → p = true → passed → ¬ whole → ∀ x l, pend.left = x :: l → l ≠ [] →
      exec i s = .next ((s.writeAt (.acc j) M.side [x] pend.bytes).setMoving j
        (some ⟨l, pend.vas.drop 1, pend.bytes.drop x.2, pend.locked⟩))) ∧
    ((s.dropRow j M.t).ctx j).sq.get (M.t.toNat - 4) [] = q.drop 1) ∧
  (∀ (s : State) (t : Thread) (d : Side) (l : List (Nat × Nat)) (bytes : List Byte), s.writeAt t d [] bytes = s ∧
    (∀ n, s.writeAt t d ((absent, n) :: l) bytes = s.writeAt t d l (bytes.drop n)) ∧
    (∀ a n, a < absent → s.writeAt t .dev ((a, n) :: l) bytes =
      (s.storeAt t none a (bytes.take n)).writeAt t .dev l (bytes.drop n)) ∧
    (∀ a n, a < absent → s.writeAt t .spad ((a, n) :: l) bytes =
      (s.spadWrite t.home a (bytes.take n)).writeAt t .spad l (bytes.drop n))) ∧
  (∀ (s : State) (j : Nat) (h : LaneH) (p : Bool) (w : XW) (t : BitVec 5) (b i : AReg) (m : GMode), AccIssues s j h p →
    t = 4 ∨ t = 5 →
    let va := ((s.acc j).gaddress b m).1
    let x := ((s.acc j).gaddress b m).2
    let stride := (s.acc j).a i
    let size := match w with
      | .n8 => 1
      | .i16 => 2
      | .i32 => 4
    let n := lanesOf (s.w16 j)
    let l := columnPieces va stride size n
    let s0 := s.takeRows j (t.toNat - 4) false
    let s1 := s.takeRows j (t.toNat - 4) true
    let pend := (s.acc j).moving.getD ⟨s.places j .store l, l.map (·.1), [], []⟩
    let cols := piecesBytes pend.left pend.left.length / (32 * size)
    let rows := (s1.acc j).taken.map fun r => r.getD 0
    let fresh := pend.bytes = []
    let bytes := if fresh then (List.range cols).flatMap fun e => column s1.free size e rows else pend.bytes
    let s2 := if fresh then { s1 with free := s1.free + 32 * cols } else s1
    let whole := s.slow = false ∨ pend.left.length ≤ 1
    ((s.ctx j).sq.get (t.toNat - 4) [] = [] → (s.acc j).taken.length < 32 → exec (.astx h w t b i m) s = .next s) ∧
    ((s.ctx j).sq.get (t.toNat - 4) [] ≠ [] ∨ 32 ≤ (s.acc j).taken.length →
      (p = false → exec (.astx h w t b i m) s =
        .next (if 32 ≤ (s0.acc j).taken.length then s0.accEnd j { x with taken := [] } else s0)) ∧
      (p = true → (s.acc j).moving = none →
        (va.toNat % 16 ≠ 0 → exec (.astx h w t b i m) s = .next (s.fault (.acc j) ⟨7, 0⟩ va)) ∧
        (va.toNat % 16 = 0 → stride.toNat % 16 ≠ 0 ∨ stride.toNat < 32 * size →
          exec (.astx h w t b i m) s = .next (s.fault (.acc j) ⟨7, 0⟩ stride))) ∧
      (p = true → ((s.acc j).moving = none → s.chkAstx j size va stride l = .ok) →
        ((s1.acc j).taken.length < 32 →
          ((s1.ctx j).sq.get (t.toNat - 4) [] = [] → exec (.astx h w t b i m) s = .next (s1.setMoving j (some pend))) ∧
          ((s1.ctx j).sq.get (t.toNat - 4) [] ≠ [] →
            exec (.astx h w t b i m) s = .next ((s1.setMoving j (some pend)).fault (.acc j) ⟨18, 1⟩ 0))) ∧
        (32 ≤ (s1.acc j).taken.length →
          (∀ k c, fresh → s1.pieceFault j .dev true pend.left = some (k, c) → exec (.astx h w t b i m) s =
            .next ((s1.setMoving j none).fault (.acc j) c (pend.vas.getD k 0))) ∧
          (¬ fresh ∨ s1.pieceFault j .dev true pend.left = none →
            (whole → exec (.astx h w t b i m) s = .next (((s2.writeAt (.acc j) .dev pend.left bytes).setMoving j
              none).accEnd j { x with taken := [], moving := none })) ∧
            (¬ whole → ∀ q r, pend.left = q :: r → exec (.astx h w t b i m) s = .next ((s2.writeAt (.acc j) .dev [q]
              bytes).setMoving j (some ⟨r, pend.vas.drop 1, bytes.drop q.2, pend.locked⟩)))))))))

/-- Load blocks: ALDB clears its flag and starts a block of n lines at a line's address, at most 1,024 lines in all, and
waits for an earlier fill of the flag; a page without a translation or a line that may not be read raises its cause; the
block names its lines, which L2 keeps until it is released, and its fill sets the flag (R297, R299, R313, R314). -/
def Obligations.AccBlocks : Prop :=
  (∀ (s : State) (j : Nat) (h : LaneH) (b : AReg) (f n1 : BitVec 6), AccIssues s j h true →
    let c := s.ctx j
    let va := (s.acc j).a b
    let others := c.blocks.filter fun y => y.flag != f.toNat
    let held := (others.map (·.lines)).foldl (· + ·) 0
    (va.toNat % 128 ≠ 0 → exec (.aldb h b f n1) s = .next (s.fault (.acc j) ⟨7, 0⟩ va)) ∧
    (va.toNat % 128 = 0 → (∃ y ∈ c.blocks, y.flag = f.toNat ∧ y.filled = false) → exec (.aldb h b f n1) s = .next s) ∧
    (va.toNat % 128 = 0 → (∀ y ∈ c.blocks, y.flag = f.toNat → y.filled = true) →
      (1024 < held + n1.toNat + 1 → exec (.aldb h b f n1) s = .next (s.fault (.acc j) ⟨12, 0⟩ va)) ∧
      (held + n1.toNat + 1 ≤ 1024 → ∀ e a, s.chkBlock j va (n1.toNat + 1) = .bad e a →
        exec (.aldb h b f n1) s = .next (s.fault (.acc j) e a)) ∧
      (held + n1.toNat + 1 ≤ 1024 → s.chkBlock j va (n1.toNat + 1) = .ok → ∃ u, exec (.aldb h b f n1) s = .next u ∧
        (let kept := (linesOf va (128 * (n1.toNat + 1))).map fun a => s.addr j .load a / 128
         (u.ctx j).blocks = others ++
           [{ flag := f.toNat, addr := va, lines := n1.toNat + 1, held := kept, filled := false }]) ∧
        (u.acc j).flags.getLsbD f.toNat = false ∧
        ∀ g : BitVec 6, g ≠ f → (u.acc j).flags.getLsbD g.toNat = (s.acc j).flags.getLsbD g.toNat))) ∧
  (∀ (s : State) (j : Nat) (f : BitVec 6), (∃ y ∈ (s.ctx j).blocks, y.flag = f.toNat ∧ y.filled = false) →
    ∃ u, exec (.loadBlockFill j f) s = .next u ∧ (u.acc j).flags.getLsbD f.toNat = true ∧
      (∀ g : BitVec 6, g ≠ f → (u.acc j).flags.getLsbD g.toNat = (s.acc j).flags.getLsbD g.toNat) ∧
      (∀ y ∈ (u.ctx j).blocks, y.flag = f.toNat → y.filled = true) ∧ (u.acc j).run = (s.acc j).run)

/-! ## Loops and armed blocks of both lane streams -/

/-- A lane word that its iteration flags skip is passed, or raises the class 1 or class 2 fault that it has wherever it
stands; it takes no queue, no call and no issue. A word is passed at the next, a VARM or AARM with its whole block (R59,
R213; the block is the model's reading, log 28). -/
def Obligations.SkippedLaneWords : Prop :=
  ∀ (i : Instr) (s : State) (vec : Bool) (h : LaneH) (j : Nat), i.laneHead = some (vec, h) →
    let t : Thread := if vec then .vec j else .acc j
    let c := s.skipChecks j i
    let size : Word := match i with
      | .varm _ n lens => 16 + BitVec.ofNat 64 (8 * armStart lens n.toNat)
      | .aarm _ n lens => 16 + BitVec.ofNat 64 (8 * armStart lens n.toNat)
      | _ => 8
    s.cur = t → flagOf h (s.frames t) = .skip →
    (c.1 = false → exec i s = .next (s.fault t ⟨1, 0⟩ 0)) ∧
    (c.1 = true → c.2 = false → exec i s = .next (s.fault t ⟨2, 0⟩ 0)) ∧
    (c.1 = true → c.2 = true → ∃ u, exec i s = .next u ∧ u = s.laneGo t (s.frames t) ((s.stream t).pc + size) false ∧
      u.ctxs = s.ctxs ∧ (u.stream t).since = (s.stream t).since - 1 ∧ SameMemory s u ∧ SameLocal s u)

/-- JOIN ends its stream, the access stream's once its remote stores have performed; it is illegal inside a level or an
arm (R189, R190, R209, R315). A lane word of the other stream raises class 1 (R56). VLOOP and ALOOP open a level over
their words with the trip count of their TRIP call, ALOOP with the strides of the STRIDE calls before it; a count of 0
passes the body by. VARM and AARM choose the arm that their ARM call names, and go on behind the block when it is empty
(R188, R189, R211, R212, R214, R215, R315). A call that storage has damaged raises class 18 (R388). That the bounds of VLOOP
and VARM are checked before the word waits for its call, and that a skipped block is passed whole, are the model's reading
(logs 28 and 29); NOTEs between the STRIDEs of an ALOOP leave with them (log 113).
Where a lane stream goes on: inside a body to the next word; at the end of a body with iterations left back to its
first word with the index and the strides added; at the end of the last iteration behind the body with the registers as
at the opening; at the end of an arm behind its block. A vector stream does the same, its window rotating: the rotation
is the sum of index times step over the open levels, so an iteration adds the level's step and a close takes back what
the level had added, and a v-register number names the row at its number plus the rotation (R24, R188, R212, R214,
R215). -/
def Obligations.LoopsAndArms : Prop :=
  (((∀ (s : State) (j : Nat) (h : LaneH), AccReaches s j h →
    ((s.acc j).frames = [] → s.remoteDone (.acc j) = true → exec (.accJoin h) s = .next (s.setStatus (.acc j) .joined)) ∧
    ((s.acc j).frames = [] → s.remoteDone (.acc j) = false → exec (.accJoin h) s = .next s) ∧
    ((s.acc j).frames ≠ [] → exec (.accJoin h) s = .next (s.fault (.acc j) ⟨1, 0⟩ 0))) ∧
  (∀ (s : State) (j : Nat) (h : LaneH), VecReaches s j h →
    ((s.vec j).frames = [] → exec (.vecJoin h) s = .next (s.setStatus (.vec j) .joined)) ∧
    ((s.vec j).frames ≠ [] → exec (.vecJoin h) s = .next (s.fault (.vec j) ⟨1, 0⟩ 0))) ∧
  (∀ (i : Instr) (s : State) (vec : Bool) (h : LaneH) (j : Nat), i.laneHead = some (vec, h) →
    s.cur = (if vec then .acc j else .vec j) → exec i s = .next (s.fault s.cur ⟨1, 0⟩ 0))) ∧
  ((∀ (s : State) (j : Nat) (h : LaneH) (lvl : BitVec 3) (n1 step : BitVec 9) (c : Call), VecReaches s j h →
    let pc := (s.vec j).run.pc
    let fs := (s.vec j).frames
    let u := s.setCtx j ((s.ctx j).popCalls true 1)
    let last := pc + 8 + BitVec.ofNat 64 (8 * (n1.toNat + 1))
    loopLegal fs lvl.toNat (n1.toNat + 1) pc = true → (s.ctx j).headCall true = some c →
    (c.ty = .trip → s.callPoisoned j true 1 = true → exec (.vloop h lvl n1 step) s = .next (s.fault (.vec j) ⟨18, 1⟩ 0)) ∧
    (c.ty = .trip → s.callPoisoned j true 1 = false → c.payload.toNat % 2 ^ 32 = 0 →
      exec (.vloop h lvl n1 step) s = .next (u.laneGo (.vec j) fs last true)) ∧
    (c.ty = .trip → s.callPoisoned j true 1 = false → c.payload.toNat % 2 ^ 32 ≠ 0 →
      exec (.vloop h lvl n1 step) s = .next (u.laneGo (.vec j) (.loop ⟨lvl.toNat, pc + 8, last, 0, c.payload.toNat % 2 ^ 32,
        step.toInt, [], []⟩ :: fs) (pc + 8) true)) ∧
    (c.ty ≠ .trip → exec (.vloop h lvl n1 step) s = .next (s.fault (.vec j) ⟨2, 0⟩ 0))) ∧
  (∀ (s : State) (j : Nat) (h : LaneH) (lvl : BitVec 3) (n : BitVec 16) (l : List Call) (c : Call) (k : Nat), AccReaches s j h →
    let x := s.acc j
    let pc := x.run.pc
    let u := s.setCtx j ({ s.ctx j with cqa := (s.ctx j).cqa.drop k }.bumpPops 1 k)
    let last := pc + 8 + BitVec.ofNat 64 (8 * n.toNat)
    let st := l.map strideOf
    loopLegal x.frames lvl.toNat n.toNat pc = true → takeStrides (s.ctx j).cqa = (l, some c, k) →
    ((s.ctx j).headCall false).isSome = true → c.ty = .trip → l.length ≤ 4 → (∀ y ∈ l, y.g.toNat = lvl.toNat) →
    (s.callPoisoned j false k = true → exec (.aloop h lvl n) s = .next (s.fault (.acc j) ⟨18, 1⟩ 0)) ∧
    (s.callPoisoned j false k = false → c.payload.toNat % 2 ^ 32 = 0 → exec (.aloop h lvl n) s = .next (u.laneGo (.acc j) x.frames last true)) ∧
    (s.callPoisoned j false k = false → c.payload.toNat % 2 ^ 32 ≠ 0 →
      exec (.aloop h lvl n) s = .next (u.laneGo (.acc j) (.loop ⟨lvl.toNat, pc + 8, last, 0, c.payload.toNat % 2 ^ 32, 0, st,
        st.map fun p => (p.1, x.a (BitVec.ofNat 5 p.1))⟩ :: x.frames) (pc + 8) true))) ∧
  (∀ (s : State) (j : Nat) (vec : Bool) (h : LaneH) (n : BitVec 4) (lens : Word) (c : Call),
    let t : Thread := if vec then .vec j else .acc j
    let i : Instr := if vec then .varm h n lens else .aarm h n lens
    let fs := s.frames t
    let pc := (s.stream t).pc
    let u := s.setCtx j ((s.ctx j).popCalls vec 1)
    let a := c.payload.toNat
    let start := pc + 16 + BitVec.ofNat 64 (8 * armStart lens a)
    let resume := pc + 16 + BitVec.ofNat 64 (8 * armStart lens n.toNat)
    s.cur = t → flagOf h fs = .issue → armLegal fs n.toNat lens pc = true → (s.ctx j).headCall vec = some c →
    (c.ty = .arm → a < n.toNat → s.callPoisoned j vec 1 = true → exec i s = .next (s.fault t ⟨18, 1⟩ 0)) ∧
    (c.ty = .arm → a < n.toNat → s.callPoisoned j vec 1 = false → armLen lens a = 0 → exec i s = .next (u.laneGo t fs resume true)) ∧
    (c.ty = .arm → a < n.toNat → s.callPoisoned j vec 1 = false → armLen lens a ≠ 0 →
      exec i s = .next (u.laneGo t (.arm ⟨start + BitVec.ofNat 64 (8 * armLen lens a), resume⟩ :: fs) start true)) ∧
    (c.ty ≠ .arm ∨ n.toNat ≤ a → exec i s = .next (s.fault t ⟨2, 0⟩ 0))))) ∧
  ((∀ (s : State) (j : Nat) (x : Acc) (n : Word),
    let u := (s.setAcc j x).laneNext (.acc j)
    let at_ := fun (fs : List Frame) (pc : Word) (regs : Tab Word) =>
      u.acc j = { x with frames := fs, regs := regs, run := { x.run with pc := pc, since := 0, hold := 0, occ := 0 } }
    n = x.run.pc + 8 →
    (x.frames = [] → at_ [] n x.regs) ∧
    (∀ f r, x.frames = f :: r → f.stop ≠ n → at_ (f :: r) n x.regs) ∧
    (∀ l r, x.frames = .loop l :: r → l.last = n → l.idx + 1 < l.trip →
      at_ (.loop { l with idx := l.idx + 1 } :: r) l.first (addStrides x.regs l.strides)) ∧
    (∀ l, x.frames = [.loop l] → l.last = n → l.trip ≤ l.idx + 1 → at_ [] n (restoreRegs x.regs l.saved)) ∧
    (∀ a, x.frames = [.arm a] → a.stop = n → at_ [] a.resume x.regs) ∧
    (∀ l l' r, x.frames = .loop l :: .loop l' :: r → l.last = n → l.trip ≤ l.idx + 1 → l'.last = n → l'.idx + 1 < l'.trip →
      at_ (.loop { l' with idx := l'.idx + 1 } :: r) l'.first
        (addStrides (restoreRegs x.regs l.saved) l'.strides))) ∧
  (∀ (s : State) (j : Nat) (x : Vec) (n : Word),
    let u := (s.setVec j x).laneNext (.vec j)
    let s0 := s.setVec j x
    let at_ := fun (fs : List Frame) (pc : Word) =>
      u.vec j = { x with frames := fs, run := { x.run with pc := pc, since := 0, hold := 0, occ := 0 } }
    n = x.run.pc + 8 →
    (x.frames = [] → at_ [] n ∧ s0.rotation j = 0) ∧
    (∀ f r, x.frames = f :: r → f.stop ≠ n → at_ (f :: r) n ∧ u.rotation j = s0.rotation j) ∧
    (∀ l r, x.frames = .loop l :: r → l.last = n → l.idx + 1 < l.trip →
      at_ (.loop { l with idx := l.idx + 1 } :: r) l.first ∧ u.rotation j = s0.rotation j + l.win) ∧
    (∀ l, x.frames = [.loop l] → l.last = n → l.trip ≤ l.idx + 1 →
      at_ [] n ∧ u.rotation j = s0.rotation j - l.win * l.idx) ∧
    (∀ a, x.frames = [.arm a] → a.stop = n → at_ [] a.resume) ∧
    (∀ l l' r, x.frames = .loop l :: .loop l' :: r → l.last = n → l.trip ≤ l.idx + 1 → l'.last = n → l'.idx + 1 < l'.trip →
      at_ (.loop { l' with idx := l'.idx + 1 } :: r) l'.first ∧ u.rotation j = s0.rotation j - l.win * l.idx + l'.win) ∧
    ∀ q : Spec, s0.vrow j q = (q.toNat : Int) + s0.rotation j))

/-- What an access word leaves as it was: address arithmetic changes no memory, no scratchpad, no other stream and no
register but its own; a row load changes no byte of memory or scratchpads, and no register but its stepped one; a row
store to the scratchpad changes only its 1,024 bytes; AST, ASCT and ASTX change no byte of memory outside the places of
their pieces, and no scratchpad (R306 to R308, R310, R311). A store into the frame ownership table also changes how the
frames that it names read (R357). -/
def Obligations.AccFrame : Prop :=
  (∀ (s u : State) (j : Nat) (h : LaneH), AccIssues s j h true → (s.acc j).frames = [] →
    ∀ t b q, exec (.aadd h t b q) s = .next u ∨ exec (.amul h t b q) s = .next u →
      SameMemory s u ∧ SameLocal s u ∧ (∀ r, r ≠ t → (u.acc j).a r = (s.acc j).a r) ∧ (u.acc j).preds = (s.acc j).preds ∧
      (u.acc j).flags = (s.acc j).flags ∧ (∀ t', u.cox t' = s.cox t') ∧ (∀ k, u.vec k = s.vec k) ∧ SameSystem s u) ∧
  (∀ (i : Instr) (s u : State) (j : Nat) (M : RowMove), s.rowMove j i = some M → AccIssues s j M.h true →
    (s.acc j).frames = [] → s.memWf = true → exec i s = .next u → (u.acc j).run.status = .ready →
    let left := ((s.acc j).moving.getD ⟨M.pieces, M.vas, [], []⟩).left
    (∀ t', u.cox t' = s.cox t') ∧ (∀ k, u.vec k = s.vec k) ∧ (∀ k, k ≠ j → u.acc k = s.acc k) ∧
    (∀ r, (u.acc j).a r = (s.acc j).a r ∨ (u.acc j).a r = M.after.a r) ∧
    (M.load = true → KeepsMemory s u ∧ SameLocal s u) ∧
    (M.load = false → M.side = .dev → s.Steady → (∀ x ∈ left, s.fotFrames x.1 x.2 = []) →
      SameLocal s u ∧
      ∀ a, (∀ x ∈ left, x.1 ≠ absent → a < x.1 ∨ x.1 + x.2 ≤ a) → u.rawRead a 1 = s.rawRead a 1) ∧
    (M.load = false → M.side = .spad → SameMemory s u ∧ (∀ g, (u.core g).tile = (s.core g).tile) ∧
      ∀ k off, (∀ x ∈ left, coreOf k = coreOf j → (s.ctx k).spadBase + off < (s.ctx j).spadBase + x.1 ∨
          (s.ctx j).spadBase + x.1 + x.2 ≤ (s.ctx k).spadBase + off) →
        u.spadRead k off 1 = s.spadRead k off 1)) ∧
  (∀ va : Word, ∀ x ∈ spadPieces va, va.toNat ≤ x.1 ∧ x.1 + x.2 ≤ va.toNat + 1024) ∧
  (∀ (s u : State) (j : Nat) (h : LaneH) (w : XW) (t : BitVec 5) (b i : AReg) (m : GMode), AccIssues s j h true →
    (s.acc j).frames = [] → s.memWf = true → s.Steady → exec (.astx h w t b i m) s = .next u →
    (u.acc j).run.status = .ready →
    let l := columnPieces ((s.acc j).gaddress b m).1 ((s.acc j).a i) (XW.size w) (lanesOf (s.w16 j))
    let left := ((s.acc j).moving.getD ⟨s.places j .store l, l.map (·.1), [], []⟩).left
    (∀ x ∈ left, s.fotFrames x.1 x.2 = []) →
    SameLocal s u ∧ (∀ t', u.cox t' = s.cox t') ∧ (∀ k, u.vec k = s.vec k) ∧
    ∀ a, (∀ x ∈ left, x.1 ≠ absent → a < x.1 ∨ x.1 + x.2 ≤ a) → u.rawRead a 1 = s.rawRead a 1)

/-! ## Vector words -/

/-- The words that compute lane by lane: a word that issues pops its queues, computes every container of its result from
the same containers of its sources, and writes or pushes the result under its mask (R53, R150, R154, R158 to R162,
R164). The words whose result is a function of whole rows: logic and moves bit for bit, the quantised rows, the
reductions to one value in every container, the permutation and the bitmap look-ups (R163, R170 to R174, R187). What
VQNT of a row leaves for rq is the model's reading (log 65), and the values of the special functions are those of log 27. -/
def Obligations.VectorWords : Prop :=
  (∀ (i : Instr) (s : State) (j : Nat) (h : LaneH) (f : VForm) (op : List Nat → Nat),
    i.lanesForm = some (h, f, op) → VecIssues s j h f →
    let w := s.w16 j
    let lanes := (List.range (lanesOf w)).map fun l => op (f.srcs.map fun r => elem (widthOf w) (s.srcRow j r) l)
    exec i s = .next (s.vecEnd j h f (widthOf w) (rowOf (widthOf w) lanes))) ∧
  (∀ (i : Instr) (s : State) (j : Nat) (h : LaneH) (f : VForm) (k : Bool → Nat) (op : Bool → List Row → Row),
    i.rowForm = some (h, f, k, op) → VecIssues s j h f →
    exec i s = .next (s.vecEnd j h f (k (s.w16 j)) (op (s.w16 j) (f.srcs.map (s.srcRow j)))))

/-- The integer lanes of 32 and of 16 bits: sums, differences and products modulo 2^w or saturated, absolute value and
negation, minima and maxima of signed and unsigned containers, shifts by an unsigned count, where a count of the width
or more leaves zero or the sign (R159 to R161, R164). Float comparisons and extremes: with a NaN only `ne` holds; VMIN
and VMAX pass over a single NaN, return the canonical NaN for two, and take −0 as below +0 (R66, R160, R165). -/
def Obligations.LaneArithmetic : Prop :=
  ((arTy .i32 = .int 32 false ∧ arTy .i32s = .int 32 true ∧ arTy .i16 = .int 16 false ∧ arTy .i16s = .int 16 true ∧
    mmTy .i32 = .int 32 false ∧ mmTy .i16 = .int 16 false ∧ mmTy .n32 = .nat 32 ∧ shlTy .i32 = .int 32 false ∧
    shlTy .i16 = .int 16 false ∧ shrTy .i32 = .int 32 false ∧ shrTy .i16 = .int 16 false ∧ shrTy .n32 = .nat 32) ∧
  ∀ w : Nat, w = 32 ∨ w = 16 → ∀ a b : Nat, a < 2 ^ w → b < 2 ^ w →
    let x : BitVec w := BitVec.ofNat w a
    let y : BitVec w := BitVec.ofNat w b
    let wrap : LaneTy := .int w false
    let full : LaneTy := .int w true
    let sat : Int → Nat := fun z => (BitVec.ofInt w (Max.max (-(2 ^ (w - 1))) (Min.min (2 ^ (w - 1) - 1) z))).toNat
    laneAdd wrap a b = (x + y).toNat ∧ laneSub wrap a b = (x - y).toNat ∧ laneMul wrap a b = (x * y).toNat ∧
    laneAdd full a b = sat (x.toInt + y.toInt) ∧ laneSub full a b = sat (x.toInt - y.toInt) ∧
    laneMul full a b = sat (x.toInt * y.toInt) ∧ laneNeg wrap a = (-x).toNat ∧ laneNeg full a = sat (-x.toInt) ∧
    laneAbs wrap a = (if x.toInt < 0 then (-x).toNat else a) ∧
    laneAbs full a = sat (if x.toInt < 0 then -x.toInt else x.toInt) ∧
    laneMinMax false wrap a b = (if x.toInt ≤ y.toInt then a else b) ∧
    laneMinMax true wrap a b = (if x.toInt ≤ y.toInt then b else a) ∧
    laneMinMax false (.nat w) a b = Min.min a b ∧ laneMinMax true (.nat w) a b = Max.max a b ∧
    laneShl w a b = (if b < w then (x <<< b).toNat else 0) ∧ laneShr (.nat w) a b = (if b < w then (x >>> b).toNat else 0) ∧
    laneShr wrap a b = (x.sshiftRight (Min.min b w)).toNat) ∧
  (∀ (f : BinFmt) (a b : Nat), f = f32 ∨ f = bf16 ∨ f = f16 →
    ((f.value a).isNan = true ∨ (f.value b).isNan = true → ∀ cc, laneCmp cc (.float f) a b = decide (cc = .ne)) ∧
    (∀ m, (f.value a).isNan = true → (f.value b).isNan = true → laneMinMax m (.float f) a b = f.nan) ∧
    (∀ m, (f.value a).isNan = true → (f.value b).isNan = false → laneMinMax m (.float f) a b = b) ∧
    (∀ m, (f.value a).isNan = false → (f.value b).isNan = true → laneMinMax m (.float f) a b = a) ∧
    (∀ m, laneMinMax m (.float f) f.sign 0 = (if m then 0 else f.sign) ∧
      laneMinMax m (.float f) 0 f.sign = (if m then 0 else f.sign)) ∧
    (f.nan = (if f = f32 then 0x7FC00000 else if f = bf16 then 0x7FC0 else 0x7E00)))

/-- Where a vector result goes: to the unmasked containers of a v-register, the others keep their bits; to a row pushed
into sq with the masked containers zero; to a word pushed into rq, from element 0; and a source queue is popped once
(R53, R54, R154, R155). -/
def Obligations.VectorResults : Prop :=
  ∀ (s : State) (j : Nat) (h : LaneH) (f : VForm) (k : Nat) (x : Row) (d : Spec), f.dst = some d → (s.vec j).frames = [] →
    let u := s.vecEnd j h f k x
    let w := s.w16 j
    let m := (s.vec j).pred h.pred
    ((u.vec j).run.pc = (s.vec j).run.pc + 8 ∧ (u.vec j).masks = (s.vec j).masks) ∧
    (d.toNat < 0x100 → d.toNat < (s.ctx j).accRows →
      (∀ l, l < lanesOf w → elem (widthOf w) (u.row j d.toNat) l =
        (if m.getLsbD l then elem (widthOf w) x l else elem (widthOf w) (s.row j d.toNat) l)) ∧
      (∀ r, r ≠ d.toNat → u.row j r = s.row j r)) ∧
    (d.toNat = 0x108 ∨ d.toNat = 0x109 → ∃ y, (u.ctx j).sq.get (d.toNat - 0x108) [] = (s.ctx j).sq.get (d.toNat - 0x108) [] ++ [y] ∧
      ∀ l, l < lanesOf w → elem (widthOf w) y l = (if m.getLsbD l then elem (widthOf w) x l else 0)) ∧
    (d.toNat = 0x10D → (u.ctx j).rq =
      (s.ctx j).rq ++ [if m.getLsbD 0 then BitVec.ofNat 64 (x.toNat % 2 ^ k) else 0]) ∧
    (∀ q, q < 4 → (u.ctx j).lq.get q [] =
      (if f.srcs.any fun y => Spec.isPop y && Spec.lq y == q then ((s.ctx j).lq.get q []).drop 1 else (s.ctx j).lq.get q []))

/-- VSEL picks each container by the mask it names; VIOTA counts the set bits below each lane; VROT rotates by n lanes
and is illegal from L on; VKPOP counts the bits below L; VAMXR returns an amax register, or CVS, and clears it (R163,
R168, R175, R177). Masks: VCMP writes the unmasked bits below L of its mask and clears the bits from L on; VKAND, VKOR
and VKNOT combine masks under their own mask below L, and always from L on; VMSK writes one group of 64 bits from a MASK
call, which raises class 18 where storage has damaged it and some lane is unmasked (R62, R388); k0 takes no write and
reads as all ones (R150, R165, R176, R177). -/
def Obligations.MasksAndSelections : Prop :=
  ((∀ (s : State) (j : Nat) (h : LaneH) (D A B : Spec) (k : BitVec 3), VecIssues s j h (.both [A, B] (some D)) →
    ∃ x, exec (.vsel h D A B k) s = .next (s.vecEnd j h (.both [A, B] (some D)) (widthOf (s.w16 j)) x) ∧
      ∀ l, l < lanesOf (s.w16 j) → elem (widthOf (s.w16 j)) x l =
        elem (widthOf (s.w16 j)) (s.srcRow j (if ((s.vec j).k k.toNat).getLsbD l then A else B)) l) ∧
  (∀ (s : State) (j : Nat) (h : LaneH) (D : Spec) (k : BitVec 3), VecIssues s j h (.both [] (some D)) →
    (∃ x, exec (.viota h D k) s = .next (s.vecEnd j h (.both [] (some D)) (widthOf (s.w16 j)) x) ∧
      ∀ l, l < lanesOf (s.w16 j) → elem (widthOf (s.w16 j)) x l =
        ((List.range l).filter fun b => ((s.vec j).k k.toNat).getLsbD b).length) ∧
    (∃ x, exec (.vkpop h D k) s = .next (s.vecEnd j h (.both [] (some D)) (widthOf (s.w16 j)) x) ∧
      ∀ l, l < lanesOf (s.w16 j) → elem (widthOf (s.w16 j)) x l =
        ((List.range (lanesOf (s.w16 j))).filter fun b => ((s.vec j).k k.toNat).getLsbD b).length) ∧
    (∀ n : BitVec 3, n < 4 → ∃ x, exec (.vamxr h D n) s =
      .next ((s.setCtx j { s.ctx j with amax := (s.ctx j).amax.set n.toNat 0 }).vecEnd j h (.both [] (some D)) 32 x) ∧
      ∀ l, l < 256 → elem 32 x l = ((s.ctx j).amax.get n.toNat 0).toNat) ∧
    exec (.vamxr h D 4) s = .next ((s.setCtx j { s.ctx j with cvs := 0 }).vecEnd j h (.both [] (some D)) 32
      (BitVec.ofNat 8192 (s.ctx j).cvs.toNat))) ∧
  (∀ (s : State) (j : Nat) (h : LaneH) (D A : Spec) (n : BitVec 9),
    let f := (VForm.both [A] (some D)).across
    let w := s.w16 j
    (VecIssues s j h f → n.toNat < lanesOf w → ∃ x, exec (.vrot h D A n) s = .next (s.vecEnd j h f (widthOf w) x) ∧
      ∀ l, l < lanesOf w → elem (widthOf w) x l = elem (widthOf w) (s.srcRow j A) ((l + n.toNat) % lanesOf w)) ∧
    (VecReaches s j h → s.vecStall f j = false → lanesOf w ≤ n.toNat →
      exec (.vrot h D A n) s = .next (s.fault (.vec j) ⟨1, 0⟩ 0)))) ∧
  ((∀ (s : State) (j : Nat) (h : LaneH) (cc : VecCC) (ty : MmTy) (k : BitVec 3) (A B : Spec),
    let f := VForm.typed (mmTy ty).w16 [A, B] none
    VecIssues s j h f → k ≠ 0 → (s.vec j).frames = [] → ∃ u, exec (.vcmp h cc ty k A B) s = .next u ∧
      (∀ l, l < lanesOf (s.w16 j) → ((u.vec j).k k.toNat).getLsbD l =
        (if ((s.vec j).pred h.pred).getLsbD l then
          laneCmp cc (mmTy ty) (elem (widthOf (s.w16 j)) (s.srcRow j A) l) (elem (widthOf (s.w16 j)) (s.srcRow j B) l)
        else ((s.vec j).k k.toNat).getLsbD l)) ∧
      (∀ l, lanesOf (s.w16 j) ≤ l → ((u.vec j).k k.toNat).getLsbD l = false) ∧
      (∀ n, n < 8 → n ≠ k.toNat → (u.vec j).k n = (s.vec j).k n) ∧ (u.vec j).run.pc = (s.vec j).run.pc + 8 ∧
      SameLocal s u ∧ SameMemory s u) ∧
  (∀ (s : State) (j : Nat) (h : LaneH) (kd ka kb : BitVec 3), VecIssues s j h (.both [] none) → kd ≠ 0 →
    (s.vec j).frames = [] →
    let x := s.vec j
    let bits : Instr → Mask → Prop := fun i v => ∃ u, exec i s = .next u ∧ (u.vec j).run.pc = x.run.pc + 8 ∧
      (u.vec j).k kd.toNat = (let m := x.pred h.pred ||| ~~~ laneBits (s.w16 j); (v &&& m) ||| (x.k kd.toNat &&& ~~~ m)) ∧
      (∀ n, n < 8 → n ≠ kd.toNat → (u.vec j).k n = x.k n) ∧ SameLocal s u ∧ SameMemory s u
    bits (.vkand h kd ka kb) (x.k ka.toNat &&& x.k kb.toNat) ∧ bits (.vkor h kd ka kb) (x.k ka.toNat ||| x.k kb.toNat) ∧
    bits (.vknot h kd ka) (~~~ x.k ka.toNat)) ∧
  (∀ (s : State) (j : Nat) (h : LaneH) (k : BitVec 3) (c : Call), VecReaches s j h → k ≠ 0 → (s.vec j).frames = [] →
    (s.ctx j).headCall true = some c →
    (c.ty ≠ .mask → exec (.vmsk h k) s = .next (s.fault (.vec j) ⟨2, 0⟩ 0)) ∧
    (c.ty = .mask → s.callPoisoned j true 1 = true → (s.vec j).pred h.pred &&& laneBits (s.w16 j) ≠ 0 →
      exec (.vmsk h k) s = .next (s.fault (.vec j) ⟨18, 1⟩ 0)) ∧
    (c.ty = .mask → s.callPoisoned j true 1 = false ∨ (s.vec j).pred h.pred &&& laneBits (s.w16 j) = 0 →
      ∃ u, exec (.vmsk h k) s = .next u ∧ u.ctx j = (s.ctx j).popCalls true 1 ∧
      ∀ l, l < 512 → ((u.vec j).k k.toNat).getLsbD l =
        (if l / 64 = c.g.toNat ∧ (lanesOf (s.w16 j) ≤ l ∨ ((s.vec j).pred h.pred).getLsbD l = true)
          then c.payload.getLsbD (l % 64) else ((s.vec j).k k.toNat).getLsbD l))) ∧
  (∀ (x : Vec) (m : Mask), (x.setK 0 m) = x ∧ x.k 0 = BitVec.allOnes 512))

/-- Conversions: VCVT, VCVTA and VCVTS convert each container with the rounding of their form (a stochastic form takes
the buffered draw, and waits until one is complete), mark the saturated or NaN lanes in CVS, VCVTA updates its amax
register from the unmasked sources, and VCVTS packs the codes into its store queue (R75, R77, R166 to R169, R186). -/
def Obligations.ConversionWords : Prop :=
  ∀ (s : State) (j : Nat) (h : LaneH) (k : Cvt) (A D : Spec), VecIssues s j h (k.form A D) →
    let w := s.w16 j
    let ready := 64 ≤ (s.ctx j).drawBuf.length
    let draw : Row := if k.mode = .sr then (s.ctx j).draw else 0
    let s1 := if k.mode = .sr then s.setCtx j (s.ctx j).takeDraw else s
    let x := s.srcRow j A
    let m := (s.vec j).pred h.pred &&& laneBits w
    let l := k.row w draw x
    let c := (s1.ctx j).markCvs m l
    let end_ : Ctx → Row → Out := fun c r => .next ((s1.setCtx j c).vecEnd j h (k.form A D) (widthOf w) r)
    (∀ f, k = cvtOf f → (k.mode = .sr → ready) →
      exec (.vcvt h f D A) s = end_ c (rowOf (widthOf w) (l.map (·.1)))) ∧
    (∀ f n, k = cvtaOf f → (k.mode = .sr → ready) →
      exec (.vcvta h f D A n) s = end_ (c.markAmax n.toNat w m x) (rowOf (widthOf w) (l.map (·.1)))) ∧
    (∀ f n, k = cvtsOf f → D = BitVec.ofNat 9 (0x108 + n.toNat) →
      exec (.vcvts h f n A) s = end_ c (rowOf (8 * k.target.bytes) (l.map (·.1)))) ∧
    (k.mode = .sr → ¬ ready → (∀ f, k = cvtOf f → exec (.vcvt h f D A) s = .next s) ∧
      (∀ f n, k = cvtaOf f → exec (.vcvta h f D A n) s = .next s))

/-- Draws: VRNG returns the buffered draw and steps the counter's DRAW field modulo 2^26; its load form first, once, takes
its counter from a row, which discards any buffered draw, and then waits for a draw of that counter; a word that needs a
draw waits for it. The two blocks that the AES engine gives a context in a cycle are the encryptions of the counter with
their numbers under the partition's seed; a full buffer takes none, and no cycle passes before the blocks that are due in
it have come (R184 to R186, Table 7.8). How the model remembers that the word has taken its counter is log 64, and the
order of the bytes in a block log 98. -/
def Obligations.Draws : Prop :=
  (∀ (s : State) (j : Nat) (h : LaneH) (D : Spec), VecIssues s j h (.both [] (some D)) →
    (64 ≤ (s.ctx j).drawBuf.length → exec (.vrng h D none) s =
      .next ((s.setCtx j { s.ctx j with drawBuf := [], drawCount := nextDraw (s.ctx j).drawCount, drawLoad := false }).vecEnd
        j h (.both [] (some D)) 32 (s.ctx j).draw)) ∧
    ((s.ctx j).drawBuf.length < 64 → exec (.vrng h D none) s = .next s)) ∧
  (∀ (s : State) (j : Nat) (h : LaneH) (D A : Spec), VecIssues s j h (.both [A] (some D)) →
    let want := BitVec.ofNat 128 ((s.srcRow j A).toNat % 2 ^ 128) &&& ~~~ 63
    ((s.ctx j).drawLoad = false → exec (.vrng h D (some A)) s =
      .next (s.setCtx j { s.ctx j with drawCount := want, drawBuf := [], drawLoad := true })) ∧
    ((s.ctx j).drawLoad = true → (s.ctx j).drawBuf.length < 64 → exec (.vrng h D (some A)) s = .next s) ∧
    ((s.ctx j).drawLoad = true → 64 ≤ (s.ctx j).drawBuf.length → exec (.vrng h D (some A)) s =
      .next ((s.setCtx j { s.ctx j with drawBuf := [], drawCount := nextDraw (s.ctx j).drawCount, drawLoad := false }).vecEnd
        j h (.both [A] (some D)) 32 (s.ctx j).draw))) ∧
  (∀ c : BitVec 128, (nextDraw c).toNat / 64 % 2 ^ 26 = (c.toNat / 64 % 2 ^ 26 + 1) % 2 ^ 26 ∧
    (nextDraw c).toNat % 64 = c.toNat % 64 ∧ (nextDraw c).toNat / 2 ^ 32 = c.toNat / 2 ^ 32) ∧
  (∀ (s : State) (j : Nat), let c := s.ctx j
    let now := s.crewNow (crewOf j) + 1
    let block := fun k => drawBlock (s.part (s.partOf j)).seed c.drawCount k
    (s.running j = true → c.drawBuf.length < 63 → s.drawSlot j = true → c.drawAt ≠ now →
      exec (.randomBlock j) s = .next (s.setCtx j { c with
        drawBuf := c.drawBuf ++ [block c.drawBuf.length, block (c.drawBuf.length + 1)], drawAt := now })) ∧
    (s.running j = false ∨ 64 ≤ c.drawBuf.length ∨ s.drawSlot j = false ∨ c.drawAt = now →
      exec (.randomBlock j) s = .next s) ∧
    (j < 1024 → ∀ u, exec (.randomBlock j) s = .next u → s.drawCycle.ctx j = u.ctx j))

/-- Conditional streams: VLPSH appends a record for each unmasked lane in order, at most 4,096, and sets LPOV when some
find no room; VLPOP takes up to L records whatever its mask; VLCNT returns the count with LPOV on top and clears LPOV;
VSHRT merges a chunk of candidates, its NaN values canonical, into a shortlist and occupies its stream for 32 local
cycles, or 64 in a BF16 form (R66, R178 to R183). A shortlist's entries: at most 64, taken from the old ones and the
chunk's, in order, and no candidate that is left out stands before one that is kept (R182, R183). -/
def Obligations.StreamsAndShortlists : Prop :=
  ((∀ (s : State) (j : Nat) (h : LaneH) (A : Spec), VecIssues s j h (.both [A] none) →
    let w := s.w16 j
    let l := ((List.range (lanesOf w)).filter ((s.vec j).pred h.pred).getLsbD).map fun i =>
      BitVec.ofNat 64 (elem (widthOf w) (s.srcRow j A) i)
    let c := { s.ctx j with
      comp := ((s.ctx j).comp ++ l).take (Max.max 4096 (s.ctx j).comp.length),
      lpov := if 4096 < (s.ctx j).comp.length + l.length ∧ l ≠ [] then 1 else (s.ctx j).lpov }
    exec (.vlpsh h A) s = .next ((s.setCtx j c).vecEnd j h (.both [A] none) 0 0)) ∧
  (∀ (s : State) (j : Nat) (h : LaneH) (D : Spec) (k : BitVec 3), VecIssues s j h (.both [] (some D)) → k ≠ 0 →
    let w := s.w16 j
    let c := s.ctx j
    let n := Min.min (lanesOf w) c.comp.length
    let u := (s.setCtx j { c with comp := c.comp.drop n }).vecEnd j h (.both [] (some D)) (widthOf w)
      (rowOf (widthOf w) ((c.comp.take n).map BitVec.toNat))
    exec (.vlpop h D k) s = .next (u.putMask j k.toNat ((s.vec j).pred h.pred ||| ~~~ laneBits w)
      (BitVec.ofNat 512 (2 ^ n - 1)))) ∧
  (∀ (s : State) (j : Nat) (h : LaneH) (D : Spec), VecIssues s j h (.both [] (some D)) →
    let w := s.w16 j
    exec (.vlcnt h D) s = .next ((s.setCtx j { s.ctx j with lpov := 0 }).vecEnd j h (.both [] (some D)) (widthOf w)
      (broadcast w ((s.ctx j).comp.length + (s.ctx j).lpov * 2 ^ (widthOf w - 1))))) ∧
  (∀ (s : State) (j : Nat) (h : LaneH) (ty : RkTy) (D A B C : Spec),
    let f := (VForm.typed (match ty with | .f32 => false | .bf16 => true) [A, B, C] (some D)).across
    VecIssues s j h f →
    let w := s.w16 j
    let vals := (elems (widthOf w) (lanesOf w) (s.srcRow j A)).map fun c =>
      let v := if w then c * 2 ^ 16 else c
      if (f32.value v).isNan then f32.nan else v
    let u := s.vecEnd j h f 32 (shortlist vals (s.srcRow j B) (s.srcScalar j C))
    exec (.vshrt h ty D A B C) s = .next (u.setStream (.vec j)
      { u.stream (.vec j) with occ := if ty = .bf16 then 63 else 31 }))) ∧
  ∀ l : List Cand,
    (bestCands l).length = Min.min 64 l.length ∧ (∀ a ∈ bestCands l, a ∈ l) ∧
    (bestCands l).Pairwise (fun a b => b.before a = false) ∧
    (∀ a ∈ l, a ∉ bestCands l → ∀ b ∈ bestCands l, a.before b = false)

/-- The checks of every vector word but VMSK, VLOOP, VARM and JOIN, in their order: a queue that it names keeps it waiting;
a form that is illegal at the lane width, a v-register outside the job's run, the mask k0 as a destination and a rotation
count of the lanes or more raise class 1; a wrong direction, or a `cqv` operand whose call is no SCAL, class 2; a poisoned
element or queue head of an unmasked lane class 18 (R24, R53, R60, R62, R153, R389). What a vector word that
computes a row leaves as it was: memory, scratchpads, every cox and access stream, every other vector stream, the masks,
and every row of its core but the destination (R53, R154). -/
def Obligations.VectorChecksAndFrame : Prop :=
  (∀ (i : Instr) (s : State) (j : Nat) (h : LaneH) (f : VForm),
    i.vecOperands = some f → i.laneHead = some (true, h) → VecReaches s j h →
    let ok1 := s.vecOk1 f j && s.vecFields j i
    (s.vecStall f j = true → exec i s = .next s) ∧
    (s.vecStall f j = false → ok1 = false → exec i s = .next (s.fault (.vec j) ⟨1, 0⟩ 0)) ∧
    (s.vecStall f j = false → ok1 = true → f.ok2 = false ∨ s.vecHead f j = false →
      exec i s = .next (s.fault (.vec j) ⟨2, 0⟩ 0)) ∧
    (s.vecStall f j = false → ok1 = true → f.ok2 = true → s.vecHead f j = true → s.replayStall f j = true →
      exec i s = .next s) ∧
    (s.vecStall f j = false → ok1 = true → f.ok2 = true → s.vecHead f j = true → s.replayStall f j = false →
      s.vecPoison f j ((s.vec j).pred h.pred) = true → exec i s = .next (s.fault (.vec j) ⟨18, 1⟩ 0))) ∧
  (∀ (i : Instr) (s : State) (j : Nat) (h : LaneH) (f : VForm) (d : Spec),
    f.dst = some d → VecIssues s j h f →
    ((∃ op, i.lanesForm = some (h, f, op)) ∨ ∃ k op, i.rowForm = some (h, f, k, op)) →
    ∃ u, exec i s = .next u ∧ SameMemory s u ∧ (∀ g, (u.core g).spad = (s.core g).spad) ∧ (∀ t, u.cox t = s.cox t) ∧
      (∀ k, u.acc k = s.acc k) ∧ (∀ k, k ≠ j → u.vec k = s.vec k) ∧ (u.vec j).masks = (s.vec j).masks ∧
      (∀ k, k ≠ j → u.ctx k = s.ctx k) ∧
      (∀ g r, g ≠ coreOf j ∨ Spec.isV d = false ∨ r ≠ (s.ctx j).accBase + (s.vrow j d).toNat →
        (u.core g).tile.get r 0 = (s.core g).tile.get r 0) ∧
      (∀ k, (u.ctx j).token k = (s.ctx j).token k))

/-- The values of the 256 codes of DM8: with the sign in bit 7 and z leading zeros before the marker in the seven bits below,
10^(3 − z) × (2^n + 9f) / 2^n, where n = 6 − z and f is what stands below the marker; code 0 is +0 and 0x80 NaR (R68). -/
def Obligations.DecimalMarkerValues : Prop :=
  ∀ c : Nat, c < 256 →
    let neg := decide (128 ≤ c)
    let b := c % 128
    (b = 0 → Elt.dm8.value c = if neg then .nan else .fin false 0 1) ∧
    (∀ z n : Nat, z + n = 6 → 2 ^ n ≤ b → b < 2 ^ (n + 1) →
      ∃ num den : Nat, Elt.dm8.value c = .fin neg num den ∧ 0 < den ∧
        num * (2 ^ n * 10 ^ z) = den * (10 ^ 3 * (2 ^ n + 9 * (b % 2 ^ n))))

/-- Every number that a float format holds rounds to its own code: reading a code of E4M3, E5M2, BF16, binary16 or
binary32 and converting the value back, to nearest, towards zero or with any random value, gives the code and marks no
lane in CVS, signs of zero and infinities included; the arithmetic's rounding of the last three does the same (R64, R66,
R69, R158). -/
def Obligations.FloatCodesRoundTrip : Prop :=
  (∀ (f : BinFmt) (c : Nat), f = f32 ∨ f = bf16 ∨ f = f16 → c < 2 * f.sign → (f.value c).isNan = false →
    f.round .rne (f.value c) = c ∧ f.round .rz (f.value c) = c) ∧
  (∀ (x : Elt × BinFmt) (c : Nat) (r : Rnd),
    x ∈ [(Elt.e4m3, e4m3), (.e5m2, e5m2), (.bf16, bf16), (.f16, f16), (.f32, f32)] → c < 2 * x.2.sign →
    (x.1.value c).isNan = false → x.1.value c = x.2.value c ∧ x.1.convert r (x.1.value c) = (c, false))

/-! ## Events: register writes -/

/-- Writes of a partition's registers: EN = 1 needs key and seed, EN = 0 an idle partition, and a base moves only while
EN is 0; a write that is turned away sets ERR alone. Key and seed come from the writer's KST, which is cleared, and only
while EN is 0; erasing clears both. A change of the key makes of each DRAM line of p's frames that no LLC way holds what
the new key decrypts of the bytes that the old key encrypted, and touches no other byte. An invalidation removes the
named translations from every cache and keeps the others (R345 to R347, R356, R357, Tables 15.3 and 15.4). Lending ways:
a write of LEND 1 to 15 in CACHE takes LEND and OWNER and starts the lending, a write of 0 in LENT the return, a write
of 0 in CACHE sets OWNER; the end of a lending or a return makes the slice LENT or CACHE and its window read as zeros; a
lending leaves no line in the lent ways, and every other way as it was; a return waits for the row accesses that have
begun in the window, and removes every translation to it (R360 to R363; the waiting rows are log 89). A store into the
frame ownership table gives the frames that it names their new owners, leaves the other frames', and makes of each of
their lines that no LLC way holds what the new key decrypts of the bytes that the old key encrypted (R348, R357). Which
lines keep their bytes through a change of the key, those in the ways that stay, is the model's
choice (log 104), and the order of the bytes in the cipher's blocks is presumed (log 87). -/
def Obligations.PartitionAndWayEvents : Prop :=
  ((∀ (s : State) (p : Nat) (v : Word),
    let x := s.part p
    let turned := (v.getLsbD 63 = true ∧ x.en = false ∧ (x.keyv = false ∨ x.seedv = false)) ∨
      (v.getLsbD 63 = false ∧ s.partBusy p = true) ∨
      (x.en = true ∧ (v >>> 12).setWidth 28 ≠ ((x.pd0 >>> 12).setWidth 28 : BitVec 28))
    (turned → exec (.pd0Write p v) s = .next (s.setPart p { x with pd1 := x.pd1 ||| 0x2000_0000_0000_0000 })) ∧
    (¬ turned → ∃ y, exec (.pd0Write p v) s = .next (s.setPart p { x with pd0 := y }) ∧
      (∀ i, (i = 63 ∨ (12 ≤ i ∧ i < 40)) → y.getLsbD i = v.getLsbD i) ∧
      (∀ i, ¬ (i = 63 ∨ (12 ≤ i ∧ i < 40)) → y.getLsbD i = x.pd0.getLsbD i))) ∧
  (∀ (s : State) (n p : Nat),
    let x := s.part p
    (x.en = true → ∀ i ∈ [Instr.keyLoad n p, .seedLoad n p, .keyErase n p],
      exec i s = .next (s.setPart p { x with pd1 := x.pd1 ||| 0x2000_0000_0000_0000 })) ∧
    (x.en = false →
      (∃ u, exec (.keyLoad n p) s = .next u ∧ (u.part p).keyv = true ∧ (u.svc n).kst = [] ∧ (u.part p).seed = x.seed ∧
        ∀ k, k < 8 → ((u.part p).key >>> (64 * k)).setWidth 64 = (s.svc n).kst.get k 0) ∧
      (∃ u, exec (.seedLoad n p) s = .next u ∧ (u.part p).seedv = true ∧ (u.svc n).kst = [] ∧ (u.part p).key = x.key ∧
        ∀ k, k < 4 → ((u.part p).seed >>> (64 * k)).setWidth 64 = (s.svc n).kst.get k 0) ∧
      (∃ u, exec (.keyErase n p) s = .next u ∧ (u.part p).key = 0 ∧ (u.part p).seed = 0 ∧ (u.part p).keyv = false ∧
        (u.part p).seedv = false))) ∧
  (∀ (s u : State) (n p : Nat) (i : Instr), i = .keyLoad n p ∨ i = .keyErase n p → s.memWf = true → exec i s = .next u →
    (∀ a, s.frameOwner a ≠ p + 1 → u.rawRead a 1 = s.rawRead a 1) ∧
    ∀ l, l < 2 ^ 31 → s.frameOwner (128 * l) = p + 1 →
      (s.lineHeld (128 * l) = true → u.rawRead (128 * l) 128 = s.rawRead (128 * l) 128) ∧
      (s.lineHeld (128 * l) = false → (u.part p).key ≠ (s.part p).key → fieldOf s.fotb 12 28 * 4096 + 131072 ≤ 2 ^ 38 →
        u.rawRead (128 * l) 128 =
          xtsDecrypt (u.part p).key l (xtsEncrypt (s.part p).key l (s.rawRead (128 * l) 128)))) ∧
  (∀ (s : State) (p : Nat) (v : Word),
    let one := fun (i : Instr) (m : Named) =>
      (s.invalidateReady p m = false → exec i s = .next s) ∧
      (s.invalidateReady p m = true → ∃ u, exec i s = .next u ∧
        (∀ g t, t ∈ (u.core g).tlb ↔ t ∈ (s.core g).tlb ∧ ¬ (t.part = p ∧ m.meets t.va (pageSize t.size) = true)) ∧
        (∀ c t, t ∈ (u.crew c).tlb ↔ t ∈ (s.crew c).tlb ∧ ¬ (t.part = p ∧ m.meets t.va (pageSize t.size) = true)) ∧
        (s.namedRings p m = [] → SameMemory s u))
    one (.invalidatePage p v) (Named.of (v &&& 0x7FFF_FFFF_FFFF_FFFF)) ∧
    one (.invalidateAll p) { all := true, size := 0, va := 0 })) ∧
  (∀ (s : State) (i : Nat) (v : Word), i < 64 →
    let x := s.slice i
    let lend := v.toNat % 16
    let owner := v.toNat / 2 ^ 16 % 64
    (x.state = 0 → lend ≠ 0 → ∃ u, exec (.wayLend i v) s = .next u ∧ (u.slice i).state = 1 ∧ (u.slice i).lend = lend ∧
      (u.slice i).owner = owner ∧ SameMemory s u) ∧
    (x.state = 2 → lend = 0 → ∃ u, exec (.wayReturn i v) s = .next u ∧ (u.slice i).state = 3 ∧
      (u.slice i).owner = x.owner ∧ SameMemory s u) ∧
    (x.state = 0 → lend = 0 → ∃ u, exec (.wprOwnerSet i v) s = .next u ∧ (u.slice i).state = 0 ∧ (u.slice i).lend = x.lend ∧
      (u.slice i).owner = owner ∧ SameMemory s u) ∧
    (x.state = 1 → fieldOf x.wpra 3 37 = 0 → ∃ u, exec (.lendComplete i) s = .next u ∧ (u.slice i).state = 2 ∧
      (u.slice i).lend = x.lend ∧ (u.slice i).owner = x.owner ∧
      (∀ k, (u.slice i).ways.get k none = if 16 - x.lent ≤ k % 16 then none else x.ways.get k none) ∧
      ∀ a, 0x4000000000 + i * 0x1000000 ≤ a → a < 0x4000000000 + (i + 1) * 0x1000000 → u.rawRead a 1 = [0]) ∧
    (x.state = 3 → s.windowQuiet i = false → exec (.returnComplete i) s = .next s) ∧
    (x.state = 3 → s.windowQuiet i = true → fieldOf x.wpra 3 37 = 0 → s.windowRings i = [] → ∃ u, exec (.returnComplete i) s = .next u ∧
      (u.slice i).state = 0 ∧
      (∀ a, 0x4000000000 + i * 0x1000000 ≤ a → a < 0x4000000000 + (i + 1) * 0x1000000 → u.rawRead a 1 = [0]) ∧
      ∀ g t, t ∈ (u.core g).tlb → t.pa + pageSize t.size ≤ 0x4000000000 + i * 0x1000000 ∨
        0x4000000000 + (i + 1) * 0x1000000 ≤ t.pa) ∧
    (∀ a, 0 < a → a % 8 = 0 → place a = .dram → s.placeFault 0 true a = none → s.poisoned a 8 = false →
      fieldOf x.wpra 3 37 * 8 = a → x.state = 1 → s.memWf = true → s.Steady → s.fotFrames a 8 = [] →
      ∃ u, exec (.lendComplete i) s = .next u ∧ u.readWord a = s.readWord a + 1)) ∧
  (∀ (i : Instr) (s u : State) (t : Thread) (h : CoxH) (k : StoreKind) (d a : SReg) (imm : BitVec 24),
    s.memWf = true → s.Steady → i.storeForm = some (h, k, d, a, imm) → Issues s t .any h [d, a] →
    let va := s.reg t a + imm.signExtend 64
    let ra := s.addr t.home .store va
    let b := fieldOf s.fotb 12 28 * 4096
    let fs := s.fotFrames ra k.bytes
    s.chkCox t .store va k.bytes = .ok → (k.rel = true → s.released t k.dom = true) → b + 131072 ≤ 2 ^ 38 →
    b / 2 ^ 21 ∉ fs → (b + 131071) / 2 ^ 21 ∉ fs → exec i s = .next u →
    (∀ f, f < 131072 → f ∉ fs → u.frameOwner (f * 2 ^ 21) = s.frameOwner (f * 2 ^ 21)) ∧
    (∀ x, x / 2 ^ 21 ∉ fs → x < ra ∨ ra + k.bytes ≤ x → u.rawRead x 1 = s.rawRead x 1) ∧
    ∀ f ∈ fs,
      (let w := (s.reg t d).toNat / 2 ^ (8 * (b + f - ra)) % 256
       u.frameOwner (f * 2 ^ 21) = if w / 128 = 1 then w % 64 + 1 else 0) ∧
      ∀ l, l / 16384 = f →
        let k0 := s.lineKey (128 * l)
        let k1 := u.lineKey (128 * l)
        (u.lineHeld (128 * l) = true ∨ k0 = k1 → u.rawRead (128 * l) 128 = s.rawRead (128 * l) 128) ∧
        (u.lineHeld (128 * l) = false → k0 ≠ k1 →
          u.rawRead (128 * l) 128 = xtsDecrypt k1 l (xtsEncrypt k0 l (s.rawRead (128 * l) 128))))

/-- Writes of a queue's descriptor: RUNNING of a DISABLED queue takes the fields, empties the ring and holds its
translation; SUSPENDING stops it, at once where no job of it is resident, and in the order of the cycle before a job of
it passes a NODE; RUNNING of a SUSPENDED or ERROR queue resumes it; 0 disables it. A ring that is not fully mapped puts
it in ERROR with CAUSE 4 (R198, R199, R204, R225, R304). What a failed translation of the ring raises is the model's
reading (log 30). -/
def Obligations.QueueWriteEvents : Prop :=
  ∀ (s : State) (p q : Nat) (v : Word),
    let x := s.queue p q
    (x.state = 0 →
      let y := x.takeFields v
      (∀ l, s.mapRing p y = some l → y.ring = none → ∃ u, exec (.wqEnable p q v) s = .next u ∧ (u.queue p q).state = 1 ∧
        (u.queue p q).head = 0 ∧ (u.queue p q).tail = 0 ∧ (u.queue p q).ring = some l ∧ (u.queue p q).base = y.base ∧
        (u.queue p q).logn = y.logn ∧ (u.queue p q).parse = .idle ∧ SameMemory s u) ∧
      (s.mapRing p y = none → y.ring = none → ∃ u, exec (.wqEnable p q v) s = .next u ∧ (u.queue p q).state = 4 ∧
        fieldOf (u.queue p q).d1 60 4 = 4 ∧ (u.queue p q).ring = none)) ∧
    (x.state ≠ 0 → exec (.wqEnable p q v) s = .next s) ∧
    (x.state = 1 → s.nodePassed p q = true → exec (.wqSuspend p q v) s = .next s) ∧
    (x.state = 1 → s.nodePassed p q = false → ∃ u, exec (.wqSuspend p q v) s = .next u ∧
      (u.queue p q).state = (if s.resident p q then 2 else 3) ∧ (u.queue p q).d1 = x.d1 ∧ (u.queue p q).ring = x.ring) ∧
    (x.state ≠ 1 → exec (.wqSuspend p q v) s = .next s) ∧
    (∀ l, x.state = 3 ∨ x.state = 4 → x.ring = some l → ∃ u, exec (.wqResume p q v) s = .next u ∧ (u.queue p q).state = 1 ∧
      (u.queue p q).ring = some l ∧ (u.queue p q).head = x.head ∧ (u.queue p q).tail = x.tail) ∧
    (∃ u, exec (.wqDisable p q v) s = .next u ∧ (u.queue p q).state = 0 ∧ (u.queue p q).ring = none ∧
      (u.queue p q).parse = .idle ∧ SameMemory s u ∧
      (x.state ≠ 0 → (u.queue p q).base = x.base ∧ (u.queue p q).logn = x.logn))

/-! ## Events: coolant -/

/-- Zone sequences by command and time: an evacuation drains the crew, closes the inlet, opens the purge valve, purges
and confirms dryness; a refill, of a zone whose die has passed test, reserves MIN quanta, closes the purge valve, primes
and checks; a raise that has not settled in 20 ms throttles its zone; a lasting FLOW condition puts it in FAULT; jobs
still there after 50 ms are killed; what interrupts a zone completes its pending request with ST 6, TGT going back to
GRANT (R265, R271 to R274, R422, Tables 10.5 and 10.6). Once the walker of any die has placed an iteration in a cycle the
zone changes no more in it: the model's reading (log 90). A sample: a serving zone that has settled and meets no
condition only keeps the sample; a new TEMP condition throttles it, a new PRES condition puts it in FAULT, and a new LEAK
condition evacuates it, kills the crew's jobs and passes to step 2 at once, while in a later step of an evacuation it
makes a leak evacuation of the rest; each new condition raises its record with its sticky bit; the flow check of a refill
ends in FAULT at its first bad sample, whatever else that sample meets, and after 100 good ones the zone is WET with
GRANT = MIN; 100 dry samples in a row end an evacuation in DRY, or in FAULT after a leak (R271 to R274, Tables 10.5 and
10.6). That a condition acts only in the sample in which it begins is the model's choice (log
119). That a sample stands for a millisecond and that TLIM is signed are the model's choices (log 51). SETL
within the sequences and the second read of MIN are its reading (log 53), and so it is that a FILLFAIL frees the
reserved quanta (log 52). -/
def Obligations.ZoneEvents : Prop :=
  let records := fun (n : Nat) (y : State) => (y.svc n).intake ++ (y.waitRecs.filter fun x => x.1 == n).map (·.2)
  let raised := fun (s u : State) (i : Nat) (l : List Nat) =>
    let n := (s.fdst.get (if (s.zone i).ownv then (s.zone i).owner else 64) 0).toNat
    ∃ rs : List Record, (records n u).Perm (records n s ++ rs) ∧
      rs.map (fun r => (r.cls.toNat, r.sub.toNat, r.addr)) = l.map fun k => (19, k, BitVec.ofNat 64 i)
  let completed := fun (s u : State) (i : Nat) (r : ClReq) => (u.zone i).req = none ∧ (u.zone i).tgt = (s.zone i).grant ∧
    (u.svc r.svc).clst.toNat % 256 = 6 ∧ u.ctx (1024 + r.svc) = (s.ctx (1024 + r.svc)).signal r.tok.sig
  (∀ (s : State) (i : Nat),
    let z := s.zone i
    let at_ := fun (o : Out) (f : Zone → Prop) =>
      ∃ u, o = .next u ∧ f (u.zone i) ∧ (∀ k, k ≠ i → u.zone k = s.zone k) ∧ SameMemory s u
    let later := fun (n : Nat) => z.stepAt + n * s.ms ≤ s.now
    (s.catOpen = false → ∀ o ∈ [Instr.zoneEvacuate i, .zoneRefill i, .zoneClearFault i, .evacuationStepEnd i,
      .dryConfirmTimeout i, .refillReserve i, .refillPurgeValveClosed i, .refillPrimeEnd i, .settleTimeout i,
      .flowFaultTimeout i], exec o s = .next s) ∧
    (s.drainOver i = true → exec (.evacuationKillTimeout i) s =
      .next ((List.range 16).foldl (fun x k => x.killJob (16 * i + k) 6 ⟨0, 0⟩) s)) ∧
    (s.drainOver i = false → exec (.evacuationKillTimeout i) s = .next s) ∧
    (s.catOpen = true →
    (z.req = none → z.state = 1 ∨ z.state = 2 ∨ z.state = 4 → at_ (exec (.zoneEvacuate i) s)
      fun y => y.state = 3 ∧ y.phase = 1 ∧ y.stepAt = s.now ∧ y.grant = z.grant ∧ y.leak = false) ∧
    (∀ r, z.req = some r → z.state = 1 ∨ z.state = 2 ∨ z.state = 4 → ∃ u, exec (.zoneEvacuate i) s = .next u ∧
      (u.zone i).state = 3 ∧ (u.zone i).phase = 1 ∧ completed s u i r) ∧
    (z.state = 0 ∨ z.state = 3 → exec (.zoneEvacuate i) s = .next s) ∧
    (z.state = 0 → z.phase = 0 → s.zonePassed i = true → at_ (exec (.zoneRefill i) s) fun y => y.state = 0 ∧ y.phase = 6 ∧ y.sub = 0) ∧
    (z.state ≠ 0 ∨ z.phase ≠ 0 ∨ s.zonePassed i = false → exec (.zoneRefill i) s = .next s) ∧
    (z.state = 4 → at_ (exec (.zoneClearFault i) s) fun y => y.state = 4 ∧ y.clearing = true ∧ y.count = 0) ∧
    (z.state ≠ 4 → exec (.zoneClearFault i) s = .next s) ∧
    (z.state = 3 → z.phase = 1 → s.crewEmpty (i / 2) = true → at_ (exec (.evacuationStepEnd i) s) fun y => y.phase = 2) ∧
    (z.state = 3 → z.phase = 1 → s.crewEmpty (i / 2) = false → exec (.evacuationStepEnd i) s = .next s) ∧
    (z.state = 3 → z.phase = 2 → at_ (exec (.evacuationStepEnd i) s)
      fun y => y.phase = 3 ∧ y.grant = 0 ∧ y.tgt = 0 ∧ y.setl = true) ∧
    (z.state = 3 → z.phase = 3 → at_ (exec (.evacuationStepEnd i) s) fun y => y.phase = 4 ∧ y.stepAt = s.now) ∧
    (z.state = 3 → z.phase = 4 → later 2000 → at_ (exec (.evacuationStepEnd i) s) fun y => y.phase = 5 ∧ y.count = 0) ∧
    (z.state = 3 → z.phase = 4 → ¬ later 2000 → exec (.evacuationStepEnd i) s = .next s) ∧
    (z.state = 3 → z.phase = 5 → later 500 → z.fails < 2 → at_ (exec (.dryConfirmTimeout i) s)
      fun y => y.phase = 4 ∧ y.fails = z.fails + 1) ∧
    (z.state = 3 → z.phase = 5 → later 500 → 2 ≤ z.fails → z.req = none → ∃ u, exec (.dryConfirmTimeout i) s = .next u ∧
      (u.zone i).state = 4 ∧ (u.zone i).phase = 0 ∧ raised s u i [5]) ∧
    (z.state = 0 → z.phase = 6 → z.sub = 0 → z.min ≤ s.freeQuanta → at_ (exec (.refillReserve i) s)
      fun y => y.sub = 1 ∧ y.tgt = z.tgt) ∧
    (z.state = 0 → z.phase = 6 → z.sub = 0 → s.freeQuanta < z.min → exec (.refillReserve i) s = .next s) ∧
    (z.state = 0 → z.phase = 6 → z.sub = 1 → at_ (exec (.refillPurgeValveClosed i) s)
      fun y => y.phase = 7 ∧ y.tgt = z.min ∧ y.setl = false ∧ y.sub = 2) ∧
    (z.state = 0 → z.phase = 7 → z.sub = 2 → later 500 → at_ (exec (.refillPrimeEnd i) s)
      fun y => y.phase = 7 ∧ y.sub = 3 ∧ y.count = 0) ∧
    (z.req = none → z.serving = true → z.conds.getLsbD 1 = true → z.flowFrom + 100 * s.ms ≤ s.now →
      at_ (exec (.flowFaultTimeout i) s) fun y => y.state = 4 ∧ y.phase = 0) ∧
    (∀ r, z.req = some r → z.serving = true → z.conds.getLsbD 1 = true → z.flowFrom + 100 * s.ms ≤ s.now →
      ∃ u, exec (.flowFaultTimeout i) s = .next u ∧ (u.zone i).state = 4 ∧ completed s u i r) ∧
    (∀ r, z.req = some r → z.serving = true → z.setl = false → z.acceptAt + 20 * s.ms ≤ s.now →
      (z.conds.getLsbD 1 = true → at_ (exec (.settleTimeout i) s)
        fun y => y.state = 2 ∧ y.req = none ∧ y.tgt = z.grant ∧ y.grant = z.grant) ∧
      ∃ u, exec (.settleTimeout i) s = .next u ∧ completed s u i r ∧ (u.zone i).state = 2 ∧ (u.zone i).grant = z.grant ∧
        (u.zone i).conds.getLsbD 1 = true ∧
        (z.conds.getLsbD 1 = false →
          (u.zone i).flowFrom = s.now ∧ (u.zone i).cata.getLsbD 13 = true ∧ raised s u i [2])))) ∧
  (∀ (s : State) (i : Nat) (x : Sample),
    let z := s.zone i
    let temp := decide (z.tlim.toInt < x.outletTemp.toInt)
    let flow := decide (100 * x.flow.toNat < z.flim * (160 * z.grant))
    let pres := decide (z.plim < x.pressure.toNat)
    let leak := decide (z.wlim ≤ x.wetOuter.toNat)
    let new := ((if temp then [1] else []) ++ (if flow then [2] else []) ++ (if pres then [3] else []) ++
      (if leak then [4] else [])).filter fun k => (z.serving || k == 4) && !z.conds.getLsbD (k - 1)
    let killed := fun (u : State) => ∀ k j, k < 16 → (s.ctx (16 * (i / 2) + k)).job = some j →
      j.phase = .running ∨ (∃ n, j.phase = .placed n) →
      (u.ctx (16 * (i / 2) + k)).job = some { j with phase := .ending, killed := true }
    (s.catOpen = false → exec (.sensorSample i x) s = .next s) ∧
    (s.catOpen = true → z.req = none →
    (z.conds = 0 → z.state = 1 → z.setl = true →
    (¬ temp → ¬ flow → ¬ pres → ¬ leak → ∃ n, exec (.sensorSample i x) s =
      .next ((s.setZone i { z with sample := x }).setZone i { z with sample := x, conds := 0, cool := n })) ∧
    (temp → ¬ flow → ¬ pres → ¬ leak → ∃ u, exec (.sensorSample i x) s = .next u ∧ (u.zone i).state = 2 ∧
      (u.zone i).sample = x ∧ (u.zone i).conds = 1 ∧ (u.zone i).cata.getLsbD 12 = true ∧ (u.zone i).grant = z.grant) ∧
    (pres → ¬ leak → ∃ u, exec (.sensorSample i x) s = .next u ∧ (u.zone i).state = 4 ∧ (u.zone i).phase = 0 ∧
      (u.zone i).cata.getLsbD 14 = true) ∧
    (leak → ∃ u, exec (.sensorSample i x) s = .next u ∧ (u.zone i).state = 3 ∧ (u.zone i).phase = 2 ∧
      (u.zone i).leak = true ∧ (u.zone i).cata.getLsbD 15 = true)) ∧
    (z.setl = true → ¬ (z.state = 0 ∧ z.phase = 7 ∧ z.sub = 3) → ∃ u, exec (.sensorSample i x) s = .next u ∧
      raised s u i new ∧ ∀ k ∈ new, (u.zone i).cata.getLsbD (11 + k) = true) ∧
    (leak → z.conds.getLsbD 3 = false → ∃ u, exec (.sensorSample i x) s = .next u ∧
      (z.state ≠ 3 ∨ z.phase = 1 → ¬ (z.state = 0 ∧ z.phase = 7 ∧ z.sub = 3) →
        (u.zone i).state = 3 ∧ (u.zone i).phase = 2 ∧ (u.zone i).leak = true ∧ killed u) ∧
      (z.state = 3 → z.phase ∈ [2, 3, 4] →
        (u.zone i).state = 3 ∧ (u.zone i).phase = z.phase ∧ (u.zone i).leak = true)) ∧
    (z.state = 3 → z.phase = 5 → leak = false ∨ z.conds.getLsbD 3 = true → ∃ u, exec (.sensorSample i x) s = .next u ∧
      (z.dryl < x.wetInner.toNat → (u.zone i).state = 3 ∧ (u.zone i).phase = 5 ∧ (u.zone i).count = 0) ∧
      (x.wetInner.toNat ≤ z.dryl → z.count < 99 →
        (u.zone i).state = 3 ∧ (u.zone i).phase = 5 ∧ (u.zone i).count = z.count + 1) ∧
      (x.wetInner.toNat ≤ z.dryl → 99 ≤ z.count →
        (u.zone i).state = (if z.leak then 4 else 0) ∧ (u.zone i).phase = 0)) ∧
    (z.state = 0 → z.phase = 7 → z.sub = 3 →
      let bad := 100 * x.flow.toNat < z.flim * (160 * z.min) ∨ pres ∨ leak
      (bad → ∃ u, exec (.sensorSample i x) s = .next u ∧ (u.zone i).state = 4 ∧ (u.zone i).phase = 0 ∧ (u.zone i).tgt = 0 ∧
        u.reserved.get i 0 = 0 ∧ raised s u i (6 :: if leak && !z.conds.getLsbD 3 then [4] else [])) ∧
      (¬ bad → z.count < 99 → ∃ u, exec (.sensorSample i x) s = .next u ∧ (u.zone i).count = z.count + 1 ∧
        (u.zone i).state = 0 ∧ (u.zone i).phase = 7) ∧
      (¬ bad → ¬ temp → 99 ≤ z.count → ∃ u, exec (.sensorSample i x) s = .next u ∧ (u.zone i).state = 1 ∧
        (u.zone i).phase = 0 ∧ (u.zone i).grant = z.min ∧ (u.zone i).setl = true))))

/-! ## Events: host agent, boot, recovery, bins -/

/-- The host-assisted functions: HAMS gives a function to the host only while an agent is registered, and clears REV
bits by ones; HAGT registers an agent on a link that is up; a lost link or an unanswered request of 100 ms returns the
functions to hardware with their REV bits set, and so does a completion that comes later (R32 to R35, R412, R413). A
completion that names no request is discarded. The layout of a completion is the model's own (log 15). -/
def Obligations.HostEvents : Prop :=
  (∀ (s : State) (n : Nat) (v : Word), ∃ u, exec (.hamsWrite n v) s = .next u ∧ SameMemory s u ∧ u.hagt = s.hagt ∧
    (∀ i, i < 7 → u.hams.getLsbD i = (s.hlup && v.getLsbD i) ∧
      u.hams.getLsbD (8 + i) = (s.hams.getLsbD (8 + i) && !v.getLsbD (8 + i)))) ∧
  (∀ (s : State) (v : Word), (v >>> 48).setWidth 2 = (1 : BitVec 2) → s.linkUp = true →
    ∃ u, exec (.hagtWrite v) s = .next u ∧ u.hlup = true ∧ u.hams = s.hams ∧
      (∀ i, i < 42 ∨ i = 45 ∨ i = 46 ∨ i = 47 ∨ i = 48 ∨ i = 49 → u.hagt.getLsbD i = v.getLsbD i)) ∧
  (∀ (s : State) (v : Word), (v >>> 48).setWidth 2 = (0 : BitVec 2) → ∃ u, exec (.hagtWrite v) s = .next u ∧
    u.hlup = false ∧ ∀ i, i < 7 → u.assisted i = (!s.hlup && s.assisted i)) ∧
  (∀ s : State, ∃ u, exec .hostLinkDown s = .next u ∧ u.hlup = false ∧
    ∀ i, i < 7 → (s.hlup = true → u.assisted i = false ∧
      u.hams.getLsbD (8 + i) = (s.hams.getLsbD i || s.hams.getLsbD (8 + i)))) ∧
  (∀ (s : State) (up : Bool), ∃ u, exec (.pcieLinkChange up) s = .next u ∧ u.linkUp = up ∧
    (fieldOf s.hagt 48 2 = 1 → up = false → u.hlup = false) ∧ (up = true → u.hlup = s.hlup ∧ u.hams = s.hams)) ∧
  (∀ (s : State) (f : BitVec 3), f.toNat < 7 →
    ((∃ r ∈ s.hostReqs, r.fn = f ∧ r.at_ + 100 * s.ms ≤ s.now) → ∃ u, exec (.hostTimeout f) s = .next u ∧
      u.assisted f.toNat = false ∧ u.hams.getLsbD (8 + f.toNat) = true ∧
      (∀ i, i < 7 → i ≠ f.toNat → u.assisted i = s.assisted i)) ∧
    ((∀ r ∈ s.hostReqs, r.fn = f → s.now < r.at_ + 100 * s.ms) → exec (.hostTimeout f) s = .next s)) ∧
  (∀ (s : State) (id : Nat) (ok : Bool) (v : Word),
    ((∀ r ∈ s.hostReqs, r.id ≠ id) → exec (.hostCompletion id ok v) s = .next s) ∧
    (∀ r, s.hostReqs.find? (fun r => r.id == id) = some r → r.fn.toNat < 7 → r.at_ + 100 * s.ms ≤ s.now →
      ∃ u, exec (.hostCompletion id ok v) s = .next u ∧ u.assisted r.fn.toNat = false ∧
        u.hams.getLsbD (8 + r.fn.toNat) = true ∧ ∀ i, i < 7 → i ≠ r.fn.toNat → u.assisted i = s.assisted i) ∧
    (∀ r p q, s.hostReqs.find? (fun r => r.id == id) = some r → r.work = .packet p q → s.now < r.at_ + 100 * s.ms →
      ∃ u, exec (.hostCompletion id ok v) s = .next u ∧ (u.queue p q).parse = .decoded ∧
        u.hostReqs = s.hostReqs.filter (fun x => x.id != id)) ∧
    (∀ r h n, s.hostReqs.find? (fun r => r.id == id) = some r → r.work = .fill h n → s.now < r.at_ + 100 * s.ms →
      exec (.hostCompletion id ok v) s = .next
        (State.setCtx { s with hostReqs := s.hostReqs.filter fun x => x.id != id } h
          { s.ctx h with copies := (s.ctx h).copies.map (Copy.hostFill id ok) })))

/-- Reset and boot: RESET leaves the state of reset, but for the flash, the link's state and what lies outside the
package; each boot stage verifies the next image, measures it and runs it, and stops for good with a non-zero status
where a verification fails; Novfin starts with the configuration record's values written; a die's test is counted once,
a die that has passed starts its two service cores and the refill of its zones, a failed die's crews are retired, and
full service begins when all four have passed (R18, R416, R418, R420 to R422). An attestation report holds the measurement
chain, the configuration record's hash, DEV, the requester's nonce and each partition's KEYV and SEEDV, is signed with both
identity keys and accepted only when both signatures verify (R419; that it is formed of the state and by no event is log
123). The record's layout is the model's (log
103). That the boot ROM starts at address 0 and that unwritten memory reads as zero are the model's choices (logs 8 and
4), as are the chain's formula, which is presumed (log 10), the status word of a failed boot and SC0 off behind it (log 12),
the results of the die tests and the entry of the service cores (log 13), and what RESET keeps and zeroes (log 14). -/
def Obligations.BootEvents : Prop :=
  (∀ s : State, ∃ u, exec .reset s = .next u ∧ (u.stream (.svc 0)).status = .ready ∧ (u.stream (.svc 0)).pc = 0 ∧
    (∀ n, n ≠ 0 → (u.stream (.svc n)).status = .off) ∧ (∀ h, u.ctx h = Ctx.reset) ∧ (∀ p, u.part p = Part.reset) ∧
    (∀ c, u.crew c = Crew.reset) ∧ (∀ z, u.zone z = Zone.reset) ∧ u.hams = 0 ∧ u.hagt = 0 ∧ u.boot = Boot.reset ∧
    (∀ a, a < 0x4000000000 → u.rawRead a 1 = [0]) ∧
    (s.memWf = true → ∀ a, 0x4040000000 ≤ a → a < 0x4050000000 → u.rawRead a 1 = s.rawRead a 1)) ∧
  (∀ s : State,
    let b := s.boot
    let run := fun (o : Out) (k : Nat) => ∃ u, o = .next u ∧
      (u.stream (.svc 0)).pc = Config.stageEntry k &&& ~~~ 7 ∧ (u.stream (.svc 0)).status = .ready ∧ SameMemory s u
    let stops := fun (o : Out) => ∃ u, o = .next u ∧ u.boot.stage = 6 ∧ u.boot.status ≠ 0 ∧
      (u.stream (.svc 0)).status = .off ∧ SameMemory s u
    let o := exec .bootStage s
    let measured := fun (slot k : Nat) =>
      Config.sha384 (bytesLE 48 b.chain.toNat ++ bytesLE 48 (Config.sha384 (s.image slot k)).toNat)
    (b.stage = 1 → ∀ i, s.bootSlot = some i → run o 1 ∧ ∃ u, o = .next u ∧ u.boot.slot = i ∧ u.boot.stage = 2 ∧
      u.boot.chain = measured i 0) ∧
    (b.stage = 1 → s.bootSlot = none → stops o) ∧
    (b.stage = 2 → s.imageOk b.slot 1 = true → run o 2 ∧ ∃ u, o = .next u ∧ u.boot.stage = 3 ∧
      u.boot.chain = measured b.slot 1) ∧
    (b.stage = 2 → s.imageOk b.slot 1 = false → stops o) ∧
    (b.stage = 3 → s.imageOk b.slot 2 = true → ∃ u, o = .next u ∧ u.boot.stage = 4 ∧
      u.boot.chain = measured b.slot 2) ∧
    (b.stage = 3 → s.imageOk b.slot 2 = false → stops o) ∧
    (b.stage = 4 → s.imageOk b.slot 3 = true → run o 3 ∧ ∃ u, o = .next u ∧ u.boot.stage = 5 ∧
      let v := fun n => Config.recordWord n (s.image b.slot 3)
      u.boot.dev = (v 0).toNat % 2 ^ 15 ∧ u.boot.domain = (v 1).toNat ∧ (∀ n, n < 65 → u.fdst.get n 0 = (v (4 + n)).setWidth 3) ∧
      (∀ z, z < 128 → (u.zone z).min = fieldOf (v (69 + z)) 48 8 ∧ (u.zone z).max = fieldOf (v (69 + z)) 40 8 ∧
        (u.zone z).owner = fieldOf (v (69 + z)) 24 6 ∧ (u.zone z).plim = fieldOf (v (197 + z)) 32 16) ∧
      ∀ d n, d < 4 → s.boot.passed.getLsbD d = true → n = 2 * d ∨ n = 2 * d + 1 → (u.stream (.svc n)).status ≠ .off) ∧
    (b.stage = 4 → s.imageOk b.slot 3 = false → stops o)) ∧
  (∀ (s : State) (d : Nat),
    (s.untested d = true → ∃ u, exec (.diePass d) s = .next u ∧ u.boot.passed.getLsbD d = true ∧
      u.boot.failed = s.boot.failed ∧ (∀ e, e < 4 → e ≠ d → u.boot.passed.getLsbD e = s.boot.passed.getLsbD e) ∧
      (s.boot.stage = 5 → (∀ n, n = 2 * d ∨ n = 2 * d + 1 → (s.stream (.svc n)).status = .off →
          (u.stream (.svc n)).status = .ready ∧ (u.stream (.svc n)).pc = Config.stageEntry 3 &&& ~~~ 7) ∧
        ∀ z, z / 32 = d → (s.zone z).state = 0 → (s.zone z).phase = 0 → (u.zone z).state = 0 ∧ (u.zone z).phase = 6)) ∧
    (s.untested d = true → ∃ u, exec (.dieTestFail d) s = .next u ∧ u.boot.failed.getLsbD d = true ∧
      u.boot.passed = s.boot.passed ∧ ∀ k, k < 16 → (u.crew (16 * d + k)).binState = 2) ∧
    (s.untested d = false → exec (.diePass d) s = .next s ∧ exec (.dieTestFail d) s = .next s) ∧
    (s.boot.passed = 15 → exec .fullService s = .next { s with boot := { s.boot with full := true } }) ∧
    (s.boot.passed ≠ 15 → exec .fullService s = .next s)) ∧
  (∀ (s : State) (nonce : BitVec 256) (keys : List Byte),
    let x := s.attest nonce
    let bytes := Config.reportBytes x.report.chain x.report.record x.report.dev x.report.nonce x.report.parts
    x.report.chain = s.boot.chain ∧ x.report.record = Config.sha384 (s.image s.boot.slot 3) ∧
    x.report.dev = s.boot.dev ∧ x.report.nonce = nonce ∧ x.report.parts.length = 64 ∧
    (∀ p, p < 64 → x.report.parts.getD p (false, false) = ((s.part p).keyv, (s.part p).seedv)) ∧
    x.rsa = Config.idRsaSign bytes ∧ x.slh = Config.idSlhSign bytes ∧
    (x.accepted keys = true ↔ Config.idRsaVerifies keys bytes x.rsa = true ∧ Config.idSlhVerifies keys bytes x.slh = true))

/-- Recovery: a record is delivered and a trap taken at an issue boundary, which uses the stream's turn of that cycle; a
settled job's records take their cut with SET, and a record of one that has not settled, 65,536 cycles of its crew's
clock old, without; an uncorrectable error poisons a 16-byte piece, an accumulator element or an entry of a queue or a
mailbox, requests the eviction of a plane, whose rows in flight drain with IEV, costs a job its life, or is a service
core's fault of class 18, subcause 4; corrections are counted and reported once per millisecond; a core halted in its
handler is restarted at a new handler, and issues no word in that cycle (R367 to R370, R373, R377, R388, R389). The marks
of a poisoned entry and of a poisoned word in a mailbox are the model's choice (log 43), and so are the class of a
service core's register error and what a plane's error does to the rows in flight (log 82); late loads of a piece that an
error strikes perform before it, the model's reading (log 128). Operating bins: a step or a retest of an ADMITTED crew fences it
and drains it; an empty crew settles in the next bin for 1 ms, or goes to its battery; a clean battery, of 20,608 cycles
of the crew's clock, admits it again, another counts a failure and takes the next bin; past bin 5, or by command, the
crew is retired with its planes (R391 to R395, Table 16.13). That a retirement by command takes place at once is the
model's reading (log 81). -/
def Obligations.RecoveryEvents : Prop :=
  ((∀ (s : State) (j : Nat),
    (∀ r, s.mayRun (.cox j) = true → s.deliverable j = some r → exec (.handlerDelivery j) s =
      .next (((s.startTurn (.cox j)).land (.cox j)).deliver j r)) ∧
    (s.mayRun (.cox j) = false ∨ s.deliverable j = none → exec (.handlerDelivery j) s = .next s)) ∧
  (∀ (s : State) (n : Nat),
    (s.mayRun (.svc n) = true → s.trapReady n = true →
      exec (.serviceTrap n) s = .next (((s.startTurn (.svc n)).land (.svc n)).trap n)) ∧
    (s.mayRun (.svc n) = false ∨ s.trapReady n = false → exec (.serviceTrap n) s = .next s)) ∧
  (∀ (s : State) (j : Nat) (r : Record) (l : List Record), (s.ctx j).records = r :: l → r.home = j → r.noCut = false →
    r.cutv = false → r.gen = (s.ctx j).gen →
    let full : Bool → Record := fun b => { r with cut := (s.ctx j).cut, tok := (s.ctx j).tokWords, cutv := true, set := b }
    (s.settled j = true → ∃ u, exec (.cutSample j) s = .next u ∧ (u.ctx j).records.head? = some (full true) ∧ SameMemory s u) ∧
    (s.settled j = false → exec (.cutSample j) s = .next s) ∧
    (s.settled j = true → ∃ u, exec (.cutTimeout j) s = .next u ∧ (u.ctx j).records.head? = some (full true)) ∧
    (s.settled j = false → r.at_ + 65536 ≤ s.clockOf j → ∃ u, exec (.cutTimeout j) s = .next u ∧
      (u.ctx j).records.head? = some (full false) ∧ SameMemory s u) ∧
    (s.settled j = false → s.clockOf j < r.at_ + 65536 → ∃ u, exec (.cutTimeout j) s = .next u ∧
      (u.ctx j).records.head? = some r)) ∧
  (∀ (s : State) (n : Nat),
    (n < 2 ^ 36 → ∃ u, exec (.uncorrectableError (.piece n)) s = .next u ∧ n ∈ u.poison ∧ KeepsMemory s u ∧
      u.poisoned (16 * n) 1 = true) ∧
    (∀ g, g < 256 → n < 2 ^ 17 → ∃ u, exec (.uncorrectableError (.scratch g n)) s = .next u ∧ SameMemory s u ∧
      ∀ h off, coreOf h = g → (s.ctx h).spadBase + off = 16 * n → u.spadPoisoned h off 1 = true) ∧
    (∀ g r e, g < 256 → r < 256 → e < 256 → ∃ u, exec (.uncorrectableError (.tile g r e)) s = .next u ∧
      tilePiece g r e ∈ u.poison ∧ SameMemory s u) ∧
    (∀ c,
      let x := s.crew c
      let hit := if n = 16 then some 16 else x.coverer n
      (∀ j, hit = some j → exec (.uncorrectableError (.plane c n)) s = .next (s.setCrew c { x with
        flights := x.flights.map fun f => if f.slot = some j then { f with iev := true } else f,
        fevs := if x.fevs.any fun r => r.why == .error j then x.fevs
          else x.fevs ++ [{ at_ := s.crewNow c, why := .error j }] })) ∧
      (hit = none → exec (.uncorrectableError (.plane c n)) s = .next s)) ∧
    (∀ j q, q < 12 → n < (s.ctx j).queueLength q → ∃ u, exec (.uncorrectableError (.queue j q n)) s = .next u ∧
      queuePiece j q (((s.ctx j).pops.get q 0).toNat + n) ∈ u.poison ∧ SameMemory s u) ∧
    (∀ j m, (s.ctx j).mailbox[n]? = some m → ∃ u, exec (.uncorrectableError (.queue j 12 n)) s = .next u ∧
      (u.ctx j).mailbox[n]? = some { m with bad := true } ∧ u.poison = s.poison ∧ SameMemory s u) ∧
    (n < 8 → (s.stream (.svc n)).status ≠ .off →
      exec (.uncorrectableError (.regs (1024 + n))) s = .next (s.svcFault n ⟨18, 4⟩ 0 0 false)) ∧
    (n < 1024 → s.running n = true → ∃ u j, exec (.uncorrectableError (.regs n)) s = .next u ∧ (u.ctx n).job = some j ∧
      j.phase = .ending ∧ j.killed = true)) ∧
  (∀ (s : State) (k : Nat),
    (∃ u, exec (.correctedError k) s = .next u ∧ u.corrected.get k 0 = s.corrected.get k 0 + 1 ∧
      ∀ i, i ≠ k → u.corrected.get i 0 = s.corrected.get i 0) ∧
    (s.corrected.get k 0 ≠ 0 → s.corrAt.get k 0 ≤ s.now → ∃ u, exec (.correctionReport k) s = .next u ∧
      u.corrected.get k 0 = 0 ∧ u.corrAt.get k 0 = s.now + s.ms ∧
      fieldOf u.evl1 32 32 = (fieldOf s.evl1 32 32 + 1) % 2 ^ 32) ∧
    (s.corrected.get k 0 = 0 ∨ s.now < s.corrAt.get k 0 → exec (.correctionReport k) s = .next s)) ∧
  (∀ (s : State) (n : Nat) (v : Word),
    ((s.stream (.svc n)).status = .crashed → ∃ u, exec (.serviceCoreRestart n v) s = .next u ∧
      (u.stream (.svc n)).pc = v &&& ~~~ 7 ∧ (u.stream (.svc n)).status = .ready ∧ (u.svc n).svec = v &&& ~~~ 7 ∧
      (u.svc n).sepc = (s.stream (.svc n)).pc &&& ~~~ 7 ∧ (u.svc n).sin = true ∧ u.mayRun (.svc n) = false) ∧
    ((s.stream (.svc n)).status ≠ .crashed → exec (.serviceCoreRestart n v) s = .next s))) ∧
  (∀ (s : State) (c : Nat),
    let x := s.crew c
    (x.binState = 0 → (∃ u, exec (.binStep c) s = .next u ∧ (u.crew c).binState = 1 ∧ (u.crew c).step = .draining s.now ∧
        (u.crew c).retest = false ∧ (u.crew c).binNum = x.binNum) ∧
      (∃ u, exec (.binRetest c) s = .next u ∧ (u.crew c).binState = 1 ∧ (u.crew c).step = .draining s.now ∧
        (u.crew c).retest = true)) ∧
    (x.binState ≠ 0 → exec (.binStep c) s = .next s ∧ exec (.binRetest c) s = .next s) ∧
    (x.binState ≠ 2 → ∃ u, exec (.binRetire c) s = .next u ∧ (u.crew c).binState = 2 ∧ (u.crew c).dir = [] ∧
      (u.crew c).load = none) ∧
    (x.binState = 2 → exec (.binRetire c) s = .next s) ∧
    (∀ t, x.step = .draining t → s.crewEmpty c = true → x.binState = 1 →
      (x.retest = true → ∃ u, exec (.binSettle c) s = .next u ∧ (u.crew c).step = .battery (s.crewNow c) ∧ SameMemory s u) ∧
      (x.retest = false → x.binNum < 5 → ∃ u, exec (.binSettle c) s = .next u ∧ (u.crew c).step = .settling s.now ∧
        (u.crew c).binNum = x.binNum + 1 ∧ SameMemory s u) ∧
      (x.retest = false → x.binNum = 5 → ∃ u, exec (.binSettle c) s = .next u ∧ (u.crew c).binState = 2)) ∧
    (∀ t, x.step = .draining t → s.crewEmpty c = false → exec (.binSettle c) s = .next s) ∧
    (∀ t, x.step = .settling t → t + s.ms ≤ s.now → ∃ u, exec (.binSettle c) s = .next u ∧
      (u.crew c).step = .battery (s.crewNow c) ∧ (u.crew c).bin = x.bin) ∧
    (∀ t, x.step = .battery t → t + 20608 ≤ s.crewNow c →
      (∃ u, exec (.knownAnswerBattery c true) s = .next u ∧ (u.crew c).binState = 0 ∧ (u.crew c).step = .none ∧
        (u.crew c).binNum = x.binNum ∧ (u.crew c).binFails = x.binFails) ∧
      (x.binNum < 5 → ∃ u, exec (.knownAnswerBattery c false) s = .next u ∧ (u.crew c).binState = 1 ∧
        (u.crew c).binNum = x.binNum + 1 ∧ (u.crew c).binFails = Min.min 255 (x.binFails + 1) ∧
        (u.crew c).step = .settling s.now)) ∧
    (∀ t, x.step = .battery t → s.crewNow c < t + 20608 → ∀ b, exec (.knownAnswerBattery c b) s = .next s))

/-! ## Events: packets and placement -/

/-- Packets: a parser takes at most one packet a cycle, the next in round-robin order, and forwards it in host-assisted
mode; it reads a packet and a LAUNCH's record in pieces of 16 bytes, all in a plain turn and one in a slow turn; a ring
slot that cannot be accessed, when it is read or when its header is to be zeroed, a poisoned piece and a failed check stop
the queue in ERROR; otherwise LAUNCH gives its record to the walker, a FENCE passes when every counter has reached its
threshold and else waits for a recheck, which a changed counter brings, SIGNAL adds, NODE passes in a RUNNING queue and
waits in a SUSPENDING one, LOGB goes on piece by piece to its 64th; a packet that is done leaves a zero header and advances
HEAD (R200 to R204, R225, R258, R275, R279, R389, R424). A request's packet enters the ring of a queue that is not
DISABLED, has room and belongs to a die that has passed test, and one for a DISABLED queue is refused to its sender; the
reply is sent once the completion counter has reached the threshold (R415, R420). That a pass reads every counter of a
FENCE in one step and the turns' pieces are the model's choices (logs 54 and 89), as is the record that a waiting LAUNCH
keeps (log 109); what a header that cannot be zeroed does and how requests arrive and replies leave are its reading (logs
124 and 85). -/
def Obligations.PacketEvents : Prop :=
  (∀ (s : State) (p q kind : Nat) (w : List Word) (l : List Nat), PacketReady s p q kind w l →
    let a := (s.queue p q).headAddr l
    let bytes := if s.slow = true ∨ 5 < kind then 16 else 256
    let o := exec (packetEvent kind p q) s
    (s.assisted 1 = true → ∃ u, o = .next u ∧ (u.queue p q).parse = .host s.nextReq ∧
      u.hostReqs.map (·.work) = s.hostReqs.map (·.work) ++ [.packet p q]) ∧
    (s.assisted 1 = false →
      ((s.placeFault p true a).isSome = true → ∃ u, o = .next u ∧ StopsInError s u p q 4) ∧
      (s.placeFault p true a = none → s.poisoned a bytes = true → ∃ u, o = .next u ∧ StopsInError s u p q 6) ∧
      (s.placeFault p true a = none → s.poisoned a bytes = false →
        (s.slow = false → packetCheck w ≠ 0 → ∃ u, o = .next u ∧ StopsInError s u p q (packetCheck w)) ∧
        (s.slow = true → 5 < kind → ∃ u, o = .next u ∧ StopsInError s u p q 2) ∧
        (s.slow = true → kind ≤ 5 → o = .next ((s.taken p q).packetRead p q (w.take 2)))))) ∧
  (∀ (s : State) (p q : Nat) (g w : List Word) (l : List Nat), (s.queue p q).state = 1 ∨ (s.queue p q).state = 2 →
    (s.queue p q).ring = some l → (s.queue p q).parse = .reading → (s.queue p q).got = g → 0 < g.length → g.length < 32 →
    s.headWords (s.queue p q) = w →
    let kind := (g.getD 0 0).toNat % 16
    let a := (s.queue p q).headAddr l + 8 * g.length
    let now := g ++ (if s.slow then (w.drop g.length).take 2 else w.drop g.length)
    let o := exec (packetEvent kind p q) s
    1 ≤ kind → kind ≤ 5 →
    ((s.placeFault p true a).isSome = true → ∃ u, o = .next u ∧ StopsInError s u p q 4) ∧
    (s.placeFault p true a = none → s.poisoned a (if s.slow then 16 else 256 - 8 * g.length) = true →
      ∃ u, o = .next u ∧ StopsInError s u p q 6) ∧
    (s.placeFault p true a = none → s.poisoned a (if s.slow then 16 else 256 - 8 * g.length) = false →
      (32 ≤ now.length → packetCheck now ≠ 0 → ∃ u, o = .next u ∧ StopsInError s u p q (packetCheck now)) ∧
      (s.slow = true → now.length < 32 ∨ packetCheck now = 0 → o = .next (s.packetRead p q now)))) ∧
  (∀ (s : State) (p q kind : Nat), (s.queue p q).state = 1 ∨ (s.queue p q).state = 2 → s.kindNow (s.queue p q) = kind →
    kind ≠ 0 →
    ((s.queue p q).parse = .idle → (s.die (s.queue p q).die).parsed = s.now + 1 ∨
        s.parserNext (s.queue p q).die ≠ some (16 * p + q) → exec (packetEvent kind p q) s = .next s) ∧
    (∀ n, (s.queue p q).parse = .host n → exec (packetEvent kind p q) s = .next s) ∧
    ((s.queue p q).parse = .decoded → s.packetBad p q ≠ 0 →
      ∃ u, exec (packetEvent kind p q) s = .next u ∧ StopsInError s u p q (s.packetBad p q))) ∧
  (∀ (s : State) (p q : Nat) (w : List Word) (l : List Nat), PacketGood s p q 1 w l → (s.part p).en = true →
    (w.getD 1 0).toNat % 256 = 0 →
    let a := w.getD 1 0
    let s1 := (s.taken p q).packetRead p q w
    let r := wordsOf 32 (s1.dieRead p .load a 256)
    let n := nestOf r a p q (s.queue p q).head
    let d := (s.queue p q).die
    let o := exec (.launchPacket p q) s
    (∀ c, s1.dieFault p .load (piecesOf a 256) = some c →
      ∃ u, o = .next u ∧ StopsInError s u p q (if c.cls = 18 then 6 else 4)) ∧
    (s1.dieFault p .load (piecesOf a 256) = none →
      (nestCheck r n ≠ 0 → ∃ u, o = .next u ∧ StopsInError s u p q (nestCheck r n)) ∧
      (nestCheck r n = 0 → s1.groupAlive n = false → ∃ u, o = .next u ∧ StopsInError s u p q 5) ∧
      (nestCheck r n = 0 → s1.groupAlive n = true →
        (n.total = 0 → ∃ u, o = .next u ∧ Consumed s u p q l ∧ (u.die d).active = (s.die d).active) ∧
        (n.total ≠ 0 → (s.die d).active.length < 16 → ∃ u, o = .next u ∧ Consumed s u p q l ∧
          (u.die d).active = (s.die d).active ++ [{ nest := n, next := 0, last := none }]) ∧
        (n.total ≠ 0 → 16 ≤ (s.die d).active.length → ∃ u, o = .next u ∧
          (u.queue p q).parse = .waiting ∧ (u.queue p q).got = w.take 32 ++ r ∧ (u.die d).active = (s.die d).active)))) ∧
  (∀ (s : State) (p q k : Nat) (w r : List Word), (s.queue p q).state = 1 ∨ (s.queue p q).state = 2 → s.slow = true →
    (s.queue p q).parse = .reading → (s.queue p q).got = w ++ r → w.length = 32 → r.length = 2 * k → k < 15 →
    (w.getD 0 0).toNat % 16 = 1 → (s.part p).en = true → (w.getD 1 0).toNat % 256 = 0 →
    let s1 := s.packetRead p q (w ++ r)
    let piece := [(w.getD 1 0 + BitVec.ofNat 64 (16 * k), 16)]
    (∀ c, s1.dieFault p .load piece = some c → ∃ u, exec (.launchPacket p q) s = .next u ∧
      StopsInError s u p q (if c.cls = 18 then 6 else 4)) ∧
    (s1.dieFault p .load piece = none → ∃ u, exec (.launchPacket p q) s = .next u ∧ (u.queue p q).parse = .reading ∧
      (u.queue p q).got = w ++ r ++ wordsOf 2 (s1.dieReadPieces p .load piece) ∧ SameMemory s u)) ∧
  (∀ (s : State) (p q : Nat) (w : List Word) (l : List Nat), PacketGood s p q 2 w l →
    let s1 := (s.taken p q).packetRead p q w
    s1.fenceFault p (fencePairs w) = none →
    let seen := (fencePairs w).map fun x => wordLE (s1.dieRead p .load x.1 8)
    let reached := (fencePairs w).all fun x => x.2.ule (wordLE (s1.dieRead p .load x.1 8))
    (reached = true → ∃ u, exec (.fencePacket p q) s = .next u ∧ Consumed s u p q l) ∧
    (reached = false → ∃ u, exec (.fencePacket p q) s = .next u ∧ (u.queue p q).parse = .fence seen ∧
      (u.queue p q).got = w ∧ (u.queue p q).head = (s.queue p q).head ∧ SameMemory s u)) ∧
  (∀ (s : State) (p q : Nat) (w seen : List Word) (l : List Nat), (s.queue p q).state = 1 ∨ (s.queue p q).state = 2 →
    (s.queue p q).ring = some l → (s.queue p q).got = w → (w.getD 0 0).toNat % 16 = 2 →
    (s.queue p q).parse = .fence seen →
    (s.fenceWoken p q w seen = false → exec (.fenceRecheck p q) s = .next s) ∧
    (s.fenceWoken p q w seen = true → s.fenceFault p (fencePairs w) = none →
      let reached := (fencePairs w).all fun x => x.2.ule (wordLE (s.dieRead p .load x.1 8))
      (reached = true → s.placeFault p true ((s.queue p q).headAddr l) = none →
        ∃ u, exec (.fenceRecheck p q) s = .next u ∧ Consumed s u p q l) ∧
      (reached = true → (s.placeFault p true ((s.queue p q).headAddr l)).isSome = true →
        ∃ u, exec (.fenceRecheck p q) s = .next u ∧ StopsInError s u p q 4) ∧
      (reached = false → ∃ u, exec (.fenceRecheck p q) s = .next u ∧
        (u.queue p q).parse = .fence ((fencePairs w).map fun x => wordLE (s.dieRead p .load x.1 8)) ∧ SameMemory s u))) ∧
  (∀ (s : State) (p q : Nat) (w : List Word) (l : List Nat), PacketGood s p q 3 w l →
    let s1 := (s.taken p q).packetRead p q w
    (∀ c, s1.dieFault p .both (piecesOf (w.getD 1 0) 8) = some c →
      ∃ u, exec (.signalPacket p q) s = .next u ∧ StopsInError s u p q (if c.cls = 18 then 6 else 4)) ∧
    (s1.dieFault p .both (piecesOf (w.getD 1 0) 8) = none →
      exec (.signalPacket p q) s = .next ((s1.dieWrite p .both (w.getD 1 0)
        (bytesLE 8 (wordLE (s1.dieRead p .both (w.getD 1 0) 8) + w.getD 2 0).toNat)).packetDone p q) ∧
      ∃ u, exec (.signalPacket p q) s = .next u ∧ Consumed s u p q l)) ∧
  (∀ (s : State) (p q : Nat) (w : List Word) (l : List Nat), PacketGood s p q 4 w l →
    ((s.queue p q).state = 1 → ∃ u, exec (.nodePacket p q) s = .next u ∧ Consumed s u p q l) ∧
    ((s.queue p q).state = 2 → ∃ u, exec (.nodePacket p q) s = .next u ∧ (u.queue p q).parse = .waiting ∧
      (u.queue p q).head = (s.queue p q).head)) ∧
  (∀ (s : State) (p q : Nat) (w : List Word) (l : List Nat), PacketGood s p q 5 w l →
    let src := w.getD 1 0 &&& ~~~ 127
    let dst := w.getD 2 0 &&& ~~~ 127
    let s1 := (s.taken p q).packetRead p q w
    s1.dieFault p .load [(src + 0, 16)] = none → s1.dieFault p .store [(dst + 0, 16)] = none →
    ∃ u, exec (.logbPacket p q) s = .next u ∧ (u.queue p q).parse = .logb 1 ∧ (u.queue p q).got = w ∧
      ∀ a n, u.rawRead a n = (s1.dieWrite p .store dst
        ((s1.dieRead p .load src 16).take 8 ++ bytesLE 8 (BitVec.ofNat 64 p).toNat)).rawRead a n) ∧
  (∀ (s : State) (p q : Nat) (w : List Word) (l : List Nat) (i : Nat), (s.queue p q).state = 1 ∨ (s.queue p q).state = 2 →
    (s.queue p q).ring = some l → (s.queue p q).got = w → (w.getD 0 0).toNat % 16 = 5 →
    (s.queue p q).parse = .logb i → 0 < i →
    let src := (w.getD 1 0 &&& ~~~ 127) + BitVec.ofNat 64 (16 * i)
    let dst := (w.getD 2 0 &&& ~~~ 127) + BitVec.ofNat 64 (16 * i)
    s.dieFault p .load [(src, 16)] = none → s.dieFault p .store [(dst, 16)] = none →
    (i < 63 → ∃ u, exec (.logbPacket p q) s = .next u ∧ (u.queue p q).parse = .logb (i + 1) ∧
      ∀ a n, u.rawRead a n = (s.dieWrite p .store dst (if i = 1 then bytesLE 8 (2 ^ 64 - 1) ++ bytesLE 8 0x1FF
        else s.dieRead p .load src 16)).rawRead a n) ∧
    (i = 63 → s.placeFault p true ((s.queue p q).headAddr l) = none →
      ∃ u, exec (.logbPacket p q) s = .next u ∧ Consumed s u p q l)) ∧
  (∀ (s : State) (p q : Nat) (l : List Nat) (packet : List Word),
    ((s.queue p q).state = 0 → exec (.requestArrival p q packet) s = .next (s.reply (.refused p q))) ∧
    ((s.queue p q).state ≠ 0 → (s.queue p q).ring = some l →
      ((s.queue p q).room = true → s.boot.passed.getLsbD (s.queue p q).die = true →
        ∃ u, exec (.requestArrival p q packet) s = .next u ∧
        (u.queue p q).tail = ((s.queue p q).tail + 1) % 2 ^ 16 ∧ (u.queue p q).head = (s.queue p q).head ∧
        (s.memWf = true → s.fotFrames (ringAddr l (s.queue p q).logn (s.queue p q).tail) 256 = [] →
          u.readWord (ringAddr l (s.queue p q).logn (s.queue p q).tail) = packet.getD 0 0)) ∧
      ((s.queue p q).room = false ∨ s.boot.passed.getLsbD (s.queue p q).die = false →
        exec (.requestArrival p q packet) s = .next s))) ∧
  (∀ (s : State) (p : Nat) (c t : Word),
    let reached := s.dieFault p .load (piecesOf c 8) = none ∧ t.toNat ≤ (wordLE (s.dieRead p .load c 8)).toNat
    (reached → exec (.requestReply p c t) s = .next { s with replies := s.replies ++ [.reached p c t] }) ∧
    (¬ reached → exec (.requestReply p c t) s = .next s))

/-- Iterations: the walker places the next iteration of the next record on the first free core in search order, in
ranges that no resident job of the core holds; a switched-out iteration goes to a free core with its image; GO comes 16
cycles after a placement, with the state of Table 8.3: the level indices and the sequence number, every other register,
predicate and mask zero, the flags set, shadows, stack, queues and mailbox empty, what each chapter states for GO, the
spores idle; re-placed, with the registers of its image in memory; and what another partition left in the job's ranges is
zeroed; a job retires when all that R197 names has ended, its counter is added to
after its drains, and the context is free again once the cycle of the add has passed; a budget warns once at seven
eighths and kills at its end (R194 to R197, R206, R227, R228). Which free ranges a job gets is a free choice; that a spore has
predicates and shadows of its own is the model's reading (log 116). -/
def Obligations.IterationEvents : Prop :=
  (∀ (s : State) (d : Nat), s.hasPlaced d = true →
    exec (.iterationPlace d) s = .next s ∧ exec (.iterationReplace d) s = .next s) ∧
  (∀ (s : State) (d : Nat), s.hasPlaced d = false →
    (s.pickActive d = none → exec (.iterationPlace d) s = .next s) ∧
    (∀ k a g, s.pickActive d = some (k, a, g) →
      (a.nest.order a.last).find? (s.coreFree a.nest) = some g ∧ s.queueHeld a.nest = false ∧
      ∃ u h j, exec (.iterationPlace d) s = .next u ∧ coreOf h = g ∧ (s.ctx h).job = none ∧ (u.ctx h).job = some j ∧
        j.nest = a.nest ∧ j.seq = a.next ∧ j.image = none ∧ j.phase = .placed s.now ∧ j.owned = 0 ∧
        j.budget = a.nest.budget ∧ j.spadLen = roundSpad a.nest.spad ∧ j.spadBase % 4096 = 0 ∧
        j.spadBase + j.spadLen ≤ 0x200000 ∧ j.accBase % 32 = 0 ∧ j.accBase + a.nest.accRows ≤ 256 ∧
        (∀ c x, c < 4 → (s.ctx (4 * g + c)).job = some x →
          apart j.spadBase j.spadLen x.spadBase x.spadLen = true ∧
          apart j.accBase a.nest.accRows x.accBase x.nest.accRows = true) ∧
        (∀ e, (s.core g).slots.get e 0 ≠ 0 → (u.core g).slots.get e 0 = (s.core g).slots.get e 0) ∧
        (∀ e ∈ (s.freeSlots g).take a.nest.share, (u.core g).slots.get e 0 = h % 4 + 1) ∧
        (u.die d).active = (if a.next + 1 < a.nest.total then
          (s.die d).active.set k { a with next := a.next + 1, last := some g } else (s.die d).active.eraseIdx k) ∧
        u.hasPlaced d = true ∧ SameMemory s u)) ∧
  (∀ (s : State) (d : Nat), s.hasPlaced d = false →
    ((s.die d).switched.find? (s.replaceable d) = none → exec (.iterationReplace d) s = .next s) ∧
    (∀ n seq m, (s.die d).switched.find? (s.replaceable d) = some (n, seq, m) → ∃ u h j,
      exec (.iterationReplace d) s = .next u ∧ coreOf h ∈ n.cores ∧ s.coreFree n (coreOf h) = true ∧ (s.ctx h).job = none ∧
      (u.ctx h).job = some j ∧ j.nest = n ∧ j.seq = seq ∧ j.image = some m ∧ j.owned = n.budget - m.left ∧
      j.phase = .placed s.now ∧ (u.die d).switched = (s.die d).switched.erase (n, seq, m) ∧
      u.hasPlaced d = true ∧ SameMemory s u)) ∧
  (∀ (s : State) (h : Nat) (j : Job) (at_ : Nat), (s.ctx h).job = some j → j.phase = .placed at_ →
    (s.now < at_ + 16 → exec (.walkerGo h) s = .next s) ∧
    (at_ + 16 ≤ s.now → ∃ u, exec (.walkerGo h) s = .next u ∧ (u.ctx h).job = some { j with phase := .running } ∧
      (∀ k, (u.ctx h).token k = 0) ∧ (u.ctx h).act = 0 ∧
      (u.ctx h).sig = (if j.image.isSome then BitVec.allOnes 1024 else 0) ∧
      (let c := u.ctx h
       c.cqv = [] ∧ c.cqa = [] ∧ (∀ q, c.lq.get q [] = []) ∧ (∀ q, c.sq.get q [] = []) ∧ c.rq = [] ∧ c.fq = [] ∧
       c.mxq = [] ∧ c.cpq = [] ∧ c.mailbox = [] ∧ (∀ n, c.amax.get n 0 = 0) ∧ c.cvs = 0 ∧ (∀ n, c.tsf.get n 0 = 0) ∧
       c.drawCount = 0 ∧ c.drawBuf = [] ∧ c.comp = [] ∧ c.lpov = 0 ∧ c.mxst = 0x0000_FFFF_0000_0000 ∧ c.mxSeq = 0 ∧
       c.cpst = 0 ∧ c.cpSeq = 0 ∧ c.cstk = 0 ∧ c.epc = 0 ∧ c.hst = 0 ∧ c.lhz = 0 ∧ c.grammar.loaded = false ∧
       c.records = [] ∧ c.sporeCount = j.nest.spores ∧ ∀ k, c.spore k = ⟨.idle, 0⟩) ∧
      (let x := u.cox (.cox h)
       x.preds = 0 ∧ x.sh1 = [] ∧ x.sh2 = [] ∧ x.stack = [] ∧
       (j.nest.levels ≤ 6 → ∀ r : SReg, 8 ≤ r.toNat → u.reg (.cox h) r = 0)) ∧
      (∀ k, k < 4 → u.cox (.spore h k) = Cox.reset) ∧
      (let x := u.acc h
       (∀ r, x.a r = 0) ∧ x.preds = 0 ∧ x.flags = BitVec.allOnes 64 ∧ x.frames = []) ∧
      (let x := u.vec h
       x.k 0 = BitVec.allOnes 512 ∧ (∀ k, 0 < k → x.k k = 0) ∧ x.frames = []) ∧
      (∀ off, off < j.spadLen → (s.core (coreOf h)).spadPart.get ((j.spadBase + off) / 4096) 0 ≠ 0 →
        (s.core (coreOf h)).spadPart.get ((j.spadBase + off) / 4096) 0 ≠ j.nest.part + 1 →
        j.spadBase % 4096 = 0 → j.spadLen % 4096 = 0 → u.spadRead h off 1 = [0]) ∧
      (∀ r, r < j.nest.accRows → (s.core (coreOf h)).accPart.get ((j.accBase + r) / 32) 0 ≠ 0 →
        (s.core (coreOf h)).accPart.get ((j.accBase + r) / 32) 0 ≠ j.nest.part + 1 →
        j.accBase % 32 = 0 → j.nest.accRows % 32 = 0 → u.row h r = 0) ∧
      (j.image = none → (u.stream (.cox h)).pc = j.nest.ctl &&& ~~~ 7 ∧ (u.stream (.cox h)).status = .ready ∧
        (u.stream (.acc h)).status = .ready ∧ (u.stream (.vec h)).status = .ready ∧
        (u.stream (.acc h)).pc = j.nest.acc &&& ~~~ 7 ∧ (u.stream (.vec h)).pc = j.nest.vec &&& ~~~ 7 ∧
        (∀ l, l < j.nest.levels → l < 6 →
          u.reg (.cox h) (BitVec.ofNat 6 (l + 1)) = BitVec.ofNat 64 (j.nest.index j.seq l)) ∧
        (∀ l, j.nest.levels ≤ l → l < 6 → u.reg (.cox h) (BitVec.ofNat 6 (l + 1)) = 0) ∧
        (j.nest.levels ≤ 6 → u.reg (.cox h) 7 = BitVec.ofNat 64 j.seq)) ∧
      (∀ m, j.image = some m → (u.stream (.cox h)).status = .ready ∧ (u.stream (.acc h)).status = .joined ∧
        (u.stream (.vec h)).status = .joined ∧ (s.dieFault j.nest.part .load (piecesOf m.addr 128) = none →
          (u.stream (.cox h)).pc = (wordsOf 16 (s.dieRead j.nest.part .load m.addr 128)).getD 10 0 &&& ~~~ 7 ∧
          ∀ r, 1 ≤ r → r < 8 → u.reg (.cox h) (BitVec.ofNat 6 r) =
            (wordsOf 16 (s.dieRead j.nest.part .load m.addr 128)).getD (r + 2) 0)) ∧ SameMemory s u)) ∧
  (∀ (s : State) (h : Nat),
    (s.retires h = false → exec (.jobRetire h) s = .next s) ∧
    (s.retires h = true → ∃ u j, exec (.jobRetire h) s = .next u ∧ (s.ctx h).job = some j ∧
      (u.ctx h).job = some { j with phase := .ending } ∧ (u.stream (.cox h)).status = .off ∧
      (u.stream (.acc h)).status = .off ∧ (u.stream (.vec h)).status = .off ∧ SameMemory s u)) ∧
  (∀ (s : State) (h : Nat) (j : Job), (s.ctx h).job = some j →
    (j.phase ≠ .ending ∨ s.drained h = false → exec (.retireCounterAdd h) s = .next s) ∧
    (j.phase = .ending → s.drained h = true → ∃ u, exec (.retireCounterAdd h) s = .next u ∧
      (u.ctx h).job = some { j with phase := .left } ∧ (u.freeLeft.ctx h).job = none ∧
      (s.dieFault j.nest.part .both (piecesOf j.nest.counter 8) = none → ∀ a n, u.rawRead a n =
        (s.dieWrite j.nest.part .both j.nest.counter
          (bytesLE 8 (wordLE (s.dieRead j.nest.part .both j.nest.counter 8) + 1).toNat)).rawRead a n))) ∧
  (∀ (s : State) (h : Nat) (j : Job), (s.ctx h).job = some j → j.phase = .running →
    (j.warned = false → j.budget - j.budget / 8 ≤ j.owned → ∃ u, exec (.budgetWarning h) s = .next u ∧
      (u.ctx h).job = some { j with warned := true } ∧ ∃ r ∈ (u.ctx h).records, r.cls = 9 ∧ r.unit = .none ∧ r.home = h) ∧
    (j.warned = true ∨ j.owned < j.budget - j.budget / 8 → exec (.budgetWarning h) s = .next s) ∧
    (j.budget ≤ j.owned → ∃ u, exec (.budgetExhausted h) s = .next u ∧
      (u.ctx h).job = some { j with phase := .ending, killed := true }) ∧
    (j.owned < j.budget → exec (.budgetExhausted h) s = .next s))

/-- Events of memory, queues and registers: a watch whose word has changed, or whose line a store has touched, wakes its
thread, which goes on behind its WAITA, or stops there when the word's window is gone or the word is poisoned; a posted
store performs after the earlier ones to its line that its thread has posted or that have updated the same copies; another
device's access performs only in a frame of
its partition, and its release publishes its signature; a walk ends in arrival order, at most 16 of a partition at a
time, and fills the caches of the homes that wait for it or ends their wait with its failure; words in a mailbox and
tile status become visible oldest first; a NOTE at the head of a call queue goes, one in a cycle; ACT takes a new W16 only
while VEC waits for a call (R110, R152, R211, R248, R288 to R293, R349, R354, R410, R411). That a link's retry sequence is a
count is the model's choice (log 84), and that a failed walk is held for its waiting thread, and the load of a woken waiter
tested, its reading (logs 37 and 127). -/
def Obligations.MemoryEvents : Prop :=
  (∀ (s : State) (t : Thread) (w : Watch),
    let v := State.setStatus { s with watches := s.watches.erase w } t .ready
    let place := s.placeFault (s.partOf t.home) false w.addr
    let wakes := fun (o : Out) =>
      (∀ c, place = some c → o = .next (v.fault t c w.va)) ∧
      (place = none → s.poisoned w.addr 8 = true → o = .next (v.fault t ⟨18, 1⟩ w.va)) ∧
      (place = none → s.poisoned w.addr 8 = false → o = .next (v.next t))
    (s.watches.find? (fun w => w.fence.isNone && w.who == t && w.hit.isSome) = some w → (s.stream t).status = .parked →
      wakes (exec (.watchWake t) s)) ∧
    (s.watches.find? (fun w => w.fence.isNone && w.who == t && w.touched) = some w → (s.stream t).status = .parked →
      wakes (exec (.spuriousWake t) s)) ∧
    ((∀ w ∈ s.watches, w.who ≠ t) → exec (.watchWake t) s = .next s ∧ exec (.spuriousWake t) s = .next s)) ∧
  (∀ (s : State) (i : Nat) (p : Posted), s.posted[i]? = some p →
    let before := fun (x : Posted) => x.addr / 128 = p.addr / 128 ∧
      (x.who = p.who ∨ (x.dom = false ∧ p.dom = false ∧
        (x.who.home = p.who.home ∨ (x.who.home < 1024 ∧ p.who.home < 1024 ∧ crewOf x.who.home = crewOf p.who.home))))
    ((∃ x ∈ s.posted.take i, before x) → exec (.remoteStoreAck i) s = .next s) ∧
    ((∀ x ∈ s.posted.take i, ¬ before x) → ∃ u, exec (.remoteStoreAck i) s = .next u ∧
      u.posted = s.posted.eraseIdx i ∧
      (s.memWf = true → s.fotFrames p.addr p.bytes.length = [] → u.rawRead p.addr p.bytes.length = p.bytes))) ∧
  (∀ (s : State) (p : BitVec 6) (pa : Nat),
    (∀ op, ¬ (place pa = .dram ∧ s.frameOwner pa = p.toNat + 1) → exec (.remoteAccess p pa op) s = .next s) ∧
    (place pa = .dram → s.frameOwner pa = p.toNat + 1 →
      (∃ u, exec (.remoteAccess p pa .load) s = .next u ∧ KeepsMemory s u) ∧
      (∀ l, pa % 2 ^ 21 + l.length ≤ 2 ^ 21 → s.fotFrames pa l.length = [] →
        ∃ u, exec (.remoteAccess p pa (.store l)) s = .next u ∧
          (s.memWf = true → u.rawRead pa l.length = l ∧
            (s.Steady → ∀ a, a < pa ∨ pa + l.length ≤ a → u.rawRead a 1 = s.rawRead a 1))) ∧
      (∀ v g, pa % 8 = 0 → s.fotFrames pa 8 = [] →
        ∃ u u' w w', exec (.remoteAccess p pa (.add v)) s = .next u ∧ exec (.remoteAccess p pa (.addRel v g)) s = .next u' ∧
          exec (.remoteAccess p pa (.storeRel v g)) s = .next w ∧ exec (.remoteAccess p pa (.store (bytesLE 8 v.toNat))) s = .next w' ∧
          u' = u.publishRemote pa g ∧ w = w'.publishRemote pa g ∧
          (s.memWf = true → s.Steady → u.readWord pa = s.readWord pa + v) ∧
          ((u'.slice (homeSlice pa)).received pa = g ∧ (w.slice (homeSlice pa)).received pa = g)))) ∧
  (∀ (s : State) (n : Nat), exec (.flitRetry n) s = .next (s.setDie (n / 4) { s.die (n / 4) with
    links := (s.die (n / 4)).links.set (n % 4) ((s.die (n / 4)).links.get (n % 4) 0 + 1) })) ∧
  (∀ (s : State) (c p : Nat) (va : Word) (a b : List Walk) (w : Walk),
    let x := s.die (c / 16)
    ((∀ y ∈ x.walks, ¬ (y.part = p ∧ y.page = va.toNat / 4096)) → exec (.pageWalkComplete c p va) s = .next s) ∧
    (x.walks = a ++ w :: b → (w.host ≠ none → x.walking a.length = false) ∧
      (w.host = none → a.length < 16 → x.walking a.length = true) ∧
      (16 ≤ (a.filter fun y => y.host.isNone && y.part == w.part).length → x.walking a.length = false)) ∧
    (x.walks = a ++ w :: b → (∀ y ∈ a, ¬ (y.part = p ∧ y.page = va.toNat / 4096)) → w.part = p → w.page = va.toNat / 4096 →
      (x.walking a.length = false → exec (.pageWalkComplete c p va) s = .next s) ∧
      (x.walking a.length = true → ∃ u, exec (.pageWalkComplete c p va) s = .next u ∧ (u.die (c / 16)).walks = a ++ b ∧
        SameMemory s u ∧ (∀ k, (s.crew k).tlb.length ≤ 4096 → (u.crew k).tlb.length ≤ 4096) ∧
        (fieldOf (s.part p).pd0 63 1 = 0 → u.crews = s.crews ∧ u.cores = s.cores ∧ u.refusedWalks = s.refusedWalks) ∧
        (fieldOf (s.part p).pd0 63 1 = 1 → ∀ h ∈ w.homes,
          (∀ t, s.fillable p (w.page * 4096) = some t → t ∈ (u.crew (crewOf h)).tlb ∧ t ∈ (u.core (coreOf h)).tlb) ∧
          (s.fillable p (w.page * 4096) = none →
            { part := p, page := w.page, home := h, cause := none } ∈ u.refusedWalks))))) ∧
  (∀ (s : State) (j : Nat) (a b : List Mail) (m : Mail), (s.ctx j).mailbox = a ++ m :: b → (∀ x ∈ a, x.ready = true) →
    m.ready = false → ∃ u, exec (.mailboxWordAvailable j) s = .next u ∧
      (u.ctx j).mailbox = a ++ { m with ready := true } :: b ∧ ∀ k, k ≠ j → u.ctx k = s.ctx k) ∧
  (∀ (s : State) (j : Nat), ∃ u, exec (.tsfVisible j) s = .next u ∧
    (u.ctx j).tsfNew = (s.ctx j).tsfNew.filter (fun x => s.crewNow (crewOf j) < x.2.1) ∧
    (∀ k v w, (s.ctx j).tsfNew = [(k, v, w)] → v ≤ s.crewNow (crewOf j) → (u.ctx j).tsf.get 0 0 = w ∧
      ∀ i, i < 15 → (u.ctx j).tsf.get (i + 1) 0 = (s.ctx j).tsf.get i 0) ∧
    ((∀ x ∈ (s.ctx j).tsfNew, s.crewNow (crewOf j) < x.2.1) → (u.ctx j).tsf = (s.ctx j).tsf)) ∧
  (∀ (s : State) (j : Nat) (vec : Bool),
    let q := if vec then 0 else 1
    let now := s.crewNow (crewOf j) + 1
    (∀ x r, (s.ctx j).calls vec = x :: r → x.ty = .note → (s.ctx j).noted.get q 0 ≠ now →
      ∃ u, exec (.noteCallDiscard j vec) s = .next u ∧ (u.ctx j).calls vec = r ∧ (u.ctx j).noted.get q 0 = now ∧
        (u.ctx j).calls (!vec) = (s.ctx j).calls (!vec) ∧ SameMemory s u) ∧
    ((((s.ctx j).calls vec).head?.map (·.ty) ≠ some .note ∨ (s.ctx j).noted.get q 0 = now) →
      ∃ u, exec (.noteCallDiscard j vec) s = .next u ∧ (∀ k, u.ctx k = s.ctx k) ∧ SameMemory s u)) ∧
  (∀ (s : State) (j : Nat) (v : Word),
    (v &&& 1 = (s.ctx j).act → exec (.actWrite j v) s = .next s) ∧
    (v &&& 1 ≠ (s.ctx j).act → s.vecAtCall j = true → ∃ u, exec (.actWrite j v) s = .next u ∧ (u.ctx j).act = v &&& 1 ∧
      (u.ctx j).comp = [] ∧ (u.ctx j).lpov = 0 ∧ SameMemory s u) ∧
    (v &&& 1 ≠ (s.ctx j).act → s.vecAtCall j = false → exec (.actWrite j v) s = .next s))

/-- Translations stay in their partition. A translation that a walk brings into a cache is the partition's own, covers
the address walked, and leads to its own DRAM frame, to a window lent to it or to a domain window of it; a thread of a
service core acts for a partition only through such an address. An access of a job that no cache answers is not
translated: it waits for its walk or takes a cause of class 16; 5 for a non-canonical address, and 8 while the partition
is not enabled (R297, R347, R349, R353, R354). -/
def Obligations.TranslationsStayInside : Prop :=
  ∀ (s : State) (h p : Nat) (perm : Perm) (va : Word),
    let inside := fun (ra : Nat) => (place ra = .dram ∧ s.frameOwner ra = p + 1) ∨
      (∃ sl off, place ra = .window sl off ∧ fieldOf (s.slice sl).wpr 16 6 = p ∧ 1 ≤ fieldOf (s.slice sl).wpr 0 4) ∨
      (∃ i off dev rpa, s.domainTarget i off = some (dev, rpa, p) ∧ ra = remoteAddr dev rpa)
    (∀ a t, s.fillable p a = some t → t.part = p ∧ t.va ≤ a ∧ a < t.va + pageSize t.size ∧ inside (t.pa + (a - t.va))) ∧
    (1024 ≤ h → ∀ ra, s.xlateVirt h p perm va = .ok ra → inside ra ∧ va.toNat < 2 ^ 48 ∧ fieldOf (s.part p).pd0 63 1 = 1) ∧
    (h < 1024 → s.cached h p va.toNat = none → ∀ ra, s.xlateVirt h p perm va ≠ .ok ra) ∧
    (h < 1024 → ∀ ra, s.xlateVirt h p perm va = .ok ra → va.toNat < 2 ^ 48 ∧ fieldOf (s.part p).pd0 63 1 = 1 ∧
      ∃ t, s.cached h p va.toNat = some t ∧ t.part = p ∧ perm.okFor t = true ∧ ra = t.pa + (va.toNat - t.va)) ∧
    (∀ c, s.xlateVirt h p perm va = .bad c → c.cls = 16) ∧
    (2 ^ 48 ≤ va.toNat → s.xlateVirt h p perm va = .bad ⟨16, 5⟩) ∧
    (va.toNat < 2 ^ 48 → fieldOf (s.part p).pd0 63 1 = 0 → s.xlateVirt h p perm va = .bad ⟨16, 8⟩)

/-- Copies: the engine starts the head command of the context whose turn it is, with its token and its operand checks. A
chunk of a core's engine or of a service core's thread moves one piece that does not cross 16 bytes: CPY, LOGB and a fill
read it and write it, LOGB with its stamps; CPX takes element (i, j) to (j, i); CPG and CPS read their list piece by piece,
check it, and go by its indices, 0xFFFFFFFF giving zeros or no write; CPK writes the record of a row, CPQ quantises blocks
of 32 and writes codes, scales and status, CPR combines a piece at its home, MSG reads its payload, which enters the
spore's range; NVQ reads its entry, is submitted or ends with ST 6, and its data and its completion entry are stored. A
failed check stops a job's command and its cpq; a command that has written all completes in the cycle in which its posted
stores have performed, signals and writes CPST. A poisoned head stops the engine; a fill leaves its entry RESIDENT, or
ABSENT when it failed; a message is refused with ST 3 or 2, waits at its port, or fills the range of its ARMED spore,
which then runs; a good descriptor resets the grammar unit (R221, R223, R252, R258, R317 to R329, R334, R335, R337). Which
piece a turn takes, the stamps of a service core's LOGB, the submission without regard to DEPTH and the free values of an
NVQ's data are the model's (logs 16, 71, 95, 110, 111, 121, 122). -/
def Obligations.CopyEvents : Prop :=
  (∀ (s : State) (j : Nat) (cmd : Cmd) (r : List Cmd), j < 1024 →
    let c := s.ctx j
    let mxFirst := cmd.tok.wait ≠ 0 ∧ s.mxTakes j cmd.tok.wait.toNat = true
    (s.copyTurn (coreOf j) ≠ some j ∨ c.canStart = false → exec (.copyCommandStart j) s = .next s) ∧
    (c.cpq = cmd :: r → mxFirst → exec (.copyCommandStart j) s = .next s) ∧
    (s.copyTurn (coreOf j) = some j → c.canStart = true → c.cpq = cmd :: r → ¬ mxFirst → s.headPoisoned j 11 = true →
      ∃ u, exec (.copyCommandStart j) s = .next u ∧ (u.ctx j).cpStop = true ∧ (u.ctx j).cpq = cmd :: r ∧
        (u.ctx j).copies = c.copies) ∧
    (s.copyTurn (coreOf j) = some j → c.canStart = true → c.cpq = cmd :: r → ¬ mxFirst → s.headPoisoned j 11 = false →
      cmd.opc = opCpy → s.NoneOver j → s.acked cmd = true →
      let n := cmd.c.toNat % 2 ^ 32
      let apart := cmd.dsp ≠ cmd.ssp ∨ overlaps cmd.a.toNat n cmd.b.toNat n = false
      let inside := (cmd.dsp = true → cmd.a.toNat + n ≤ c.spadLen) ∧ (cmd.ssp = true → cmd.b.toNat + n ≤ c.spadLen)
      let tok := fun k => if cmd.tok.wait ≠ 0 ∧ k = cmd.tok.wait.toNat then c.token k - 1 else c.token k
      ∃ u x, exec (.copyCommandStart j) s = .next u ∧ x.cmd = cmd ∧ x.pos = 0 ∧ x.gen = c.gen ∧ (u.ctx j).cpq = r ∧
        SameMemory s u ∧
        (¬ apart → x.st = 1 ∧ x.phase = .done) ∧ (apart → ¬ inside → x.st = 2 ∧ x.phase = .done) ∧
        (apart → inside → x.st = 0 ∧ x.total = n ∧ x.phase = (if n = 0 then .done else .moving)) ∧
        (x.phase = .moving → (u.ctx j).copies = c.copies ++ [x] ∧ (u.ctx j).cpst = c.cpst ∧ ∀ k, (u.ctx j).token k = tok k) ∧
        (x.phase = .done → (u.ctx j).copies = dropCopyOf (c.copies ++ [x]) x ∧ CopyEnded c tok x (u.ctx j)))) ∧
  (∀ (s : State) (h : Nat), s.chunkCands h = [] → exec (.copyChunk h) s = .next s) ∧
  (∀ (s : State) (h : Nat) (x : Copy), ChunkOf s h x →
    (x.phase = .moving ∧ x.cmd.opc ∈ [opCpy, opCpx, opCpg, opCps, opLogb]) ∨ (x.phase = .filling ∧ x.cmd.opc = opRtacq) →
    let (l, r) := x.dstAt x.pos
    let n := Nat.min r (x.total - x.pos)
    let b := (s.chunkState h).stamped h x x.pos (x.buf.take n)
    (x.buf.length < n → ReadsPiece s h x (x.pos + x.buf.length) (x.total - x.pos - x.buf.length)) ∧
    (n ≤ x.buf.length → (s.chunkState h).locChk h .store l n = .ok →
      ChunkTo s h (x.inTurn.wrote n) fun u => PieceWritten s u h x l b) ∧
    (∀ e va, n ≤ x.buf.length → h < 1024 → x.isFill = false → (s.chunkState h).locChk h .store l n = .bad e va →
      ChunkStops s h x)) ∧
  (∀ (x : Copy) (p : Nat), (x.cmd.opc ∈ [opCpy, opCpx, opCpg] → (x.dstAt p).1 = placeAt x.cmd.dsp x.cmd.a p) ∧
    (x.cmd.opc ∈ [opCpy, opCps] → (x.srcAt p).1 = placeAt x.cmd.ssp x.cmd.b p)) ∧
  (∀ (x : Copy) (i j b : Nat), x.cmd.opc = opCpx →
    let nr := x.cmd.c.toNat % 2 ^ 16
    let nc := x.cmd.c.toNat / 2 ^ 16 % 2 ^ 16
    let sz := 2 ^ (x.cmd.c.toNat / 2 ^ 32 % 4)
    i < nr → j < nc → b < sz →
    (x.srcAt ((j * nr + i) * sz + b)).1 = placeAt x.cmd.ssp x.cmd.b ((i * nc + j) * sz + b)) ∧
  (∀ (x : Copy) (sz e b i : Nat) (idx : List Nat), x.tail = sz :: idx → idx[e]? = some i → b < sz →
    (x.cmd.opc = opCpg → (x.srcAt (e * sz + b)).1 =
      (if i = 0xFFFFFFFF then .nowhere else placeAt x.cmd.ssp x.cmd.b (i * sz + b))) ∧
    (x.cmd.opc = opCps → (x.dstAt (e * sz + b)).1 =
      (if i = 0xFFFFFFFF then .nowhere else placeAt x.cmd.dsp x.cmd.a (i * sz + b)))) ∧
  (∀ (s : State) (h : Nat) (x : Copy), ChunkOf s h x → x.phase = .list →
    let va := x.cmd.c + 8 + BitVec.ofNat 64 x.buf.length
    let n := Nat.min (16 - va.toNat % 16) (x.total - x.buf.length)
    (s.chunkState h).engChk h none .load va n = .ok →
    let l := x.buf ++ ((s.chunkState h).locRead h (.dev none va) n).1
    let sz := x.tail.headD 1
    let idx := (List.range (x.total / 4)).map fun i => natLE ((l.drop (4 * i)).take 4)
    let st := s.listCheck h x.cmd idx.length sz idx
    (l.length < x.total → ChunkTo s h { x.inTurn with buf := l } (KeepsMemory s)) ∧
    (x.total ≤ l.length → ChunkTo s h { x.inTurn with
      buf := [], mark := 0, total := idx.length * sz, tail := sz :: idx, st := st,
      phase := if st = 0 then .moving else .done } (KeepsMemory s))) ∧
  (∀ (s : State) (h : Nat) (x : Copy), ChunkOf s h x → x.phase = .moving → x.cmd.opc = opCpk →
    let k := x.cmd.c.toNat % 128
    let r := x.cmd.a.toNat % 256 + x.pos / (16 * ((k + 1) / 2))
    (x.buf = [] → s.accRowPoisoned h r = false →
      ChunkTo s h { x.inTurn with buf := cpkRecord (s.w16 h) k (fieldOf x.cmd.c 32 32) (s.row h r) } (SameMemory s)) ∧
    (x.buf ≠ [] → ChunkTo s h (x.inTurn.wrote 16) fun u =>
      PieceWritten s u h x (.spad (x.cmd.b.toNat + x.pos)) (x.buf.take 16))) ∧
  (∀ (s : State) (h : Nat) (x : Copy), ChunkOf s h x → x.phase = .moving → x.cmd.opc = opCpq →
    let n := x.cmd.c.toNat % 2 ^ 24
    let (l, r) := cpqDst x x.pos
    let m := Nat.min r (x.total - x.pos)
    let need := 4 * Nat.min 32 (n - 32 * x.tail.length)
    let y : Copy := { x.inTurn with pos := x.pos + m, out := x.out.drop m }
    (x.pos < n → x.out.length < m → x.buf.length < need →
      ReadsPiece s h x (128 * x.tail.length + x.buf.length) (need - x.buf.length)) ∧
    (x.pos < n → x.out.length < m → need ≤ x.buf.length → ChunkTo s h (cpqBlock x.inTurn) (SameMemory s)) ∧
    (n ≤ x.pos ∨ m ≤ x.out.length → (s.chunkState h).locChk h .store l m = .ok →
      ChunkTo s h (if y.pos < y.total then y else { y with phase := .done }) fun u =>
        PieceWritten s u h x l (cpqBytes x x.pos m))) ∧
  (∀ (s : State) (h : Nat) (x : Copy), ChunkOf s h x → x.phase = .moving → x.cmd.opc = opCpr →
    let va := x.cmd.a + BitVec.ofNat 64 x.pos
    let n := Nat.min (16 - va.toNat % 16) (x.total - x.pos)
    let ra := (s.chunkState h).engAddr h none .both va
    (x.buf.length < n → ReadsPiece s h x (x.pos + x.buf.length) (x.total - x.pos - x.buf.length)) ∧
    (n ≤ x.buf.length → (s.chunkState h).engChk h none .both va n = .ok →
      ChunkTo s h (x.inTurn.wrote n) fun u => u.posted = s.posted ∧
        (s.memWf = true → s.fotFrames ra n = [] → n % cprSize x.cmd = 0 →
          u.rawRead ra n = cprPiece x.cmd (s.rawRead ra n) (x.buf.take n) ∧
            (s.Steady → ∀ a, a < ra ∨ ra + n ≤ a → u.rawRead a 1 = s.rawRead a 1)))) ∧
  (∀ (s : State) (h j k : Nat) (x : Copy), ChunkOf s h x →
    (x.phase = .moving → x.cmd.opc = opMsg → ReadsPiece s h x x.buf.length (x.total - x.buf.length)) ∧
    (x.phase = .message j k ∨ x.phase = .deliver j k → s.msgLost h x j = true →
      ChunkTo s h { x with phase := .done, st := 3 } (SameMemory s)) ∧
    (x.phase = .deliver j k → s.msgLost h x j = false → j < 1024 →
      ChunkTo s h { x with pos := x.pos + 16, buf := x.buf.drop 16 } fun u => SameMemory s u ∧
        (s.memWf = true → u.spadRead j (fieldOf x.cmd.b 15 21 + x.pos) (x.buf.take 16).length = x.buf.take 16))) ∧
  (∀ (s : State) (h : Nat) (x : Copy), ChunkOf s h x →
    (x.phase = .entry →
      let va := x.cmd.a + BitVec.ofNat 64 x.buf.length
      let e := x.buf ++ ((s.chunkState h).locRead h (.dev none va) 16).1
      (s.chunkState h).engChk h none .load va 16 = .ok →
      (e.length < 64 → ChunkTo s h { x.inTurn with buf := e } (KeepsMemory s)) ∧
      (64 ≤ e.length → (nvmeOk e && s.linkUp) = true → ChunkTo s h { x.inTurn with phase := .host s.nextReq, buf := e }
        fun u => ∃ r, u.hostReqs = s.hostReqs ++ [r] ∧ r.fn = 7 ∧ r.work = .nvme h x.cmd.seq ∧ r.id = s.nextReq) ∧
      (64 ≤ e.length → (nvmeOk e && s.linkUp) = false → ChunkTo s h { x.inTurn with phase := .done, st := 6 } (KeepsMemory s))) ∧
    (x.phase = .moving → x.cmd.opc = opNvq →
      let len := x.tail.headD 0
      let va := BitVec.ofNat 64 (x.tail.getD 2 0 + x.pos)
      let n := Nat.min (16 - va.toNat % 16) (len - x.pos)
      (x.pos < len → (s.chunkState h).engChk h (some x.part) .store va n = .ok → ∃ b : List Byte, b.length = n ∧
        ChunkTo s h { x.inTurn with pos := x.pos + n } fun u => PieceWritten s u h x (.dev (some x.part) va) b) ∧
      (len ≤ x.pos → x.cmd.b.toNat % 16 = 0 → (s.chunkState h).engChk h none .store x.cmd.b 16 = .ok → ∃ b : List Byte,
        b.length = 12 ∧
        ChunkTo s h { x.inTurn with phase := .done, st := if x.tail.getD 1 0 / 2 = 0 then 0 else 6 } fun u =>
          PieceWritten s u h x (.dev none x.cmd.b) (b ++ (x.buf.drop 2).take 2 ++ bytesLE 2 (x.tail.getD 1 0))))) ∧
  (∀ (s : State) (h : Nat),
    ((∀ x ∈ (s.ctx h).copies, x.phase ≠ .done ∨ s.acked x.cmd = false) → exec (.copyComplete h) s = .next s) ∧
    (∀ x, (s.ctx h).copies.filter (fun x => x.phase == .done && s.acked x.cmd) = [x] → ∃ u,
      exec (.copyComplete h) s = .next u ∧ (u.ctx h).copies = dropCopyOf (s.ctx h).copies x ∧ SameMemory s u ∧
      (x.gen ≠ (s.ctx h).gen → (u.ctx h).cpst = (s.ctx h).cpst ∧ (u.ctx h).tokens = (s.ctx h).tokens) ∧
      (x.gen = (s.ctx h).gen → CopyEnded (s.ctx h) (s.ctx h).token x (u.ctx h)))) ∧
  (∀ (s : State) (h : Nat),
    ((s.ctx h).copies.find? s.fillOver = none → exec (.residencyFillComplete h) s = .next s) ∧
    (∀ x, (s.ctx h).copies.find? s.fillOver = some x → s.rtChk h x.part (x.tail.headD 0) 0 = .ok →
      let i := x.tail.headD 0
      let good := x.st == 0 && decide (x.total ≤ x.pos) && (x.total != 0 || !s.fillCut x)
      let ra := s.engAddr h (some x.part) .table (rtAddr (s.part x.part) i 0)
      ∃ u v, exec (.residencyFillComplete h) s = .next u ∧ SameMemory v u ∧
        (∀ k, ∃ w, exec (.copyComplete k) v = .next w ∧ u.ctx k = w.ctx k) ∧
        (s.memWf = true → s.fotFrames ra 8 = [] → rtState (u.readWord ra) = (if good = true then 2 else 0) ∧
          rtRef (u.readWord ra) = (if good = true then rtRef (s.readWord ra) else 0)) ∧
        (∀ k, k ≠ h → ∀ y ∈ (s.ctx k).copies, y.phase = .fill → y.part = x.part → y.tail.headD 0 = i →
          { y with phase := .done, st := if good = true then 0 else 4 } ∈ (v.ctx k).copies))) ∧
  (∀ (s : State) (g h n : Nat) (x : Copy),
    (s.inTransitTo g = [] → exec (.messageArrival g) s = .next s) ∧
    (s.inTransitTo g = [(h, n)] → s.copyOf h n = some x →
      let off := fieldOf x.cmd.b 15 21
      let found := s.msgMatch g (s.msgPart h x) (fieldOf x.cmd.b 48 16)
      (found = none → ∃ u, exec (.messageArrival g) s = exec (.copyComplete h) u ∧
        (u.ctx h).copies = setCopy (s.ctx h).copies { x with phase := .done, st := 3 } ∧ SameLocal s u) ∧
      (∀ j k, found = some (j, k) → s.spadOk j off x.total = false → ∃ u, exec (.messageArrival g) s = exec (.copyComplete h) u ∧
        (u.ctx h).copies = setCopy (s.ctx h).copies { x with phase := .done, st := 2 } ∧ SameLocal s u) ∧
      (∀ j k, found = some (j, k) → s.spadOk j off x.total = true → s.portHead j k = none →
        ((s.ctx j).spore k).state = .armed → ∃ u, exec (.messageArrival g) s = .next u ∧
          ((u.ctx j).spore k).state = .filling ∧ u.portHead j k = some { home := h, seq := n, job := j, spore := k }) ∧
      (∀ j k, found = some (j, k) → s.spadOk j off x.total = true → ((s.ctx j).spore k).state ≠ .armed →
        ∃ u, exec (.messageArrival g) s = .next u ∧ ((u.ctx j).spore k).state = ((s.ctx j).spore k).state ∧
          (u.ctx h).copies = setCopy (s.ctx h).copies { x with phase := .message j k }))) ∧
  (∀ (s : State) (j k : Nat) (m : PortMsg) (x : Copy), k < 4 → s.portHead j k = some m → s.copyOf m.home m.seq = some x →
    (x.pos < x.total ∨ ((s.ctx j).spore k).state ≠ .filling → exec (.sporeStart j k) s = .next s) ∧
    (x.phase = .deliver j k → x.total ≤ x.pos → ((s.ctx j).spore k).state = .filling →
      ∃ u, exec (.sporeStart j k) s = .next u ∧ (u.stream (.spore j k)).pc = x.cmd.c &&& ~~~ 7 ∧
        (u.stream (.spore j k)).status = .ready ∧ ((u.ctx j).spore k).state = .running ∧
        u.reg (.spore j k) 1 = BitVec.ofNat 64 (fieldOf x.cmd.b 15 21) ∧ u.reg (.spore j k) 2 = BitVec.ofNat 64 x.total ∧
        u.reg (.spore j k) 3 = BitVec.ofNat 64 (if m.home < 1024 then coreOf m.home else 256 + (m.home - 1024)) ∧
        u.reg (.spore j k) 4 = x.cmd.b ∧ SameMemory s u ∧
        ∃ v, exec (.sporeStart j k) s = exec (.copyComplete m.home) v ∧
          (v.ctx m.home).copies = setCopy (s.ctx m.home).copies { x with phase := .done })) ∧
  (∀ (s : State) (j : Nat) (cmd : Cmd),
    ((s.ctx j).grammar.load = none → exec (.grammarDescriptorLoad j) s = .next s) ∧
    ((s.ctx j).grammar.load = some cmd → s.chk j .load cmd.a 64 = .ok →
      let (bytes, s1) := s.readV j .load .l1 cmd.a 64
      (descriptorOk (wordsOf 8 bytes) = true → ∃ u, exec (.grammarDescriptorLoad j) s = .next u ∧
        (u.ctx j).grammar = Grammar.ofDescriptor (wordsOf 8 bytes) ∧
        (∀ k, cmd.tok.sig ≠ 0 → k = cmd.tok.sig.toNat →
          (u.ctx j).token k = BitVec.ofNat 16 (Nat.min 65535 (((s1.ctx j).token k).toNat + 1)))) ∧
      (descriptorOk (wordsOf 8 bytes) = false → cmd.seq = 0 → (s1.ctx j).handling = none → cmd.forker = .cox j →
        (s1.stream (.cox j)).status ≠ .stopped → ∃ u, exec (.grammarDescriptorLoad j) s = .next u ∧
          (u.ctx j).grammar.load = none ∧ (u.stream (.cox j)).status = .stopped ∧ (u.stream (.cox j)).pc = cmd.pc ∧
          ∃ r ∈ (u.ctx j).records, r.cls = 6 ∧ r.sub = 2 ∧ r.pc = cmd.pc)))

/-! ## Events: the array -/

/-- Leases and starts: the next eligible context is granted a free array after a handover of 2 cycles; a group whose
head has waited for 1,024 cycles in all loses it, and a lease outside a group ends in the first cycle in which its head
waits; the holder's head takes its token and its format word and starts, or stops the mxq with class 5 and the first
check that fails; MXLDP takes the shadow, reads piece by piece, and makes it FULL with its last byte; the operands of
the next entry are read piece by piece; a known-answer command that has waited for 65,536 cycles starts no more and
completes with status 7 (R98 to R101, R119 to R122, R127, R144, R147). That the head's wait is judged only while the port is open, and counted
over all waits of a group, is the model's reading (log 75), and so are the load of a shadow that an eviction has emptied
(log 74) and what counts as the wait of an MXKAT (log 77). -/
def Obligations.ArrayStarts : Prop :=
  (∀ (s : State) (c : Nat),
    ((s.crew c).lease.isSome = true ∨ (s.crew c).tileRuns = true ∨ s.nextHolder c = none →
      exec (.leaseGrant c) s = .next s) ∧
    (∀ h, (s.crew c).lease = none → (s.crew c).tileRuns = false → s.nextHolder c = some h → s.eligible h = true ∧ crewOf h = c ∧
      ∃ u, exec (.leaseGrant c) s = .next u ∧
        (u.crew c).lease = some { job := h, cmds := 0, rows := 0, group := none, groupRows := 0, waited := 0 } ∧
        (u.crew c).portFree = Nat.max (s.crew c).portFree (s.crewNow c) + 2 ∧ SameDirectory s u c ∧ SameMemory s u) ∧
    (∀ l, (s.crew c).lease = some l →
      (∀ n, l.group = some n → 1024 ≤ l.waited → ∃ u, exec (.groupWaitLimit c) s = .next u ∧ (u.crew c).lease = none ∧
        SameDirectory s u c) ∧
      (l.group = none ∨ l.waited < 1024 → exec (.groupWaitLimit c) s = .next s) ∧
      ((s.crew c).portOpen (s.crewNow c) = false ∨ s.headWaits l.job = false → s.leaseCycle c = s) ∧
      ((s.crew c).portOpen (s.crewNow c) = true → s.headWaits l.job = true → ((s.leaseCycle c).crew c).lease =
        (if l.group.isNone then none else some { l with waited := l.waited + 1 })))) ∧
  (∀ (s : State) (c : Nat) (l : Lease) (m : Mx) (x : Ctx), (s.crew c).lease = some l → crewOf l.job = c →
    (s.ctx l.job).head = some (m, x) → m.began = false → (s.ctx l.job).redoes = false → l.over = false →
    (s.startReady l.job m = false → exec (.matrixCommandStart c) s = .next s) ∧
    (s.startReady l.job m = true → s.startPoisoned l.job m = true → ∃ u y, exec (.matrixCommandStart c) s = .next u ∧
      (u.crew c).lease = none ∧ (u.ctx l.job).held.head? = some y ∧ y.stop = some .privileged ∧ y.mx = m) ∧
    (s.startReady l.job m = true → s.startPoisoned l.job m = false →
      let x1 := if m.tookTok then x else x.takeWait m.cmd.tok
      let f := if popsFmt m.cmd.opc then x1.fq.head? else none
      let x2 := if f.isSome then x1.popFmt else x1
      let s1 := s.setCtx l.job x2
      (∀ n, s1.startFault l.job m.cmd f = some n → ∃ u y r, exec (.matrixCommandStart c) s = .next u ∧
        (u.crew c).lease = none ∧ (u.ctx l.job).held.head? = some y ∧ y.stop = some .format ∧ y.mx.cmd = m.cmd ∧
        r ∈ (u.ctx l.job).records ∧ r.cls = 5 ∧ r.sub = BitVec.ofNat 8 n ∧ r.unit = .mxq) ∧
      (s1.startFault l.job m.cmd f = none → m.cmd.opc ≠ opMxgrp → m.cmd.opc ≠ opMxldp →
        ∃ u m', exec (.matrixCommandStart c) s = .next u ∧ (u.ctx l.job).mx = some m' ∧ m'.began = true ∧
          m'.cmd = m.cmd ∧ m'.fmt = f.getD 0 ∧ m'.pos = m.pos ∧
          m'.rows = (if m.cmd.opc = opMxmm ∨ m.cmd.opc = opMxga then (shM m.cmd.c + 31) / 32 * 32
            else if m.cmd.opc = opMxkat then 32 else 1)) ∧
      (s1.startFault l.job m.cmd f = none → m.cmd.opc = opMxldp → ∃ u, exec (.matrixCommandStart c) s = .next u ∧
        eState ((u.crew c).entry 16) = stLoading ∧ eOwner ((u.crew c).entry 16) = ownerNum l.job ∧
        (let ps := partPieces (ldpParts m.cmd (f.getD 0)).flatten
         (u.crew c).load = some { job := l.job, gen := (s.ctx l.job).gen, cmd := m.cmd, fmt := f.getD 0,
                                  start := s.crewNow c, left := ps, bytes := [], lines := [] }) ∧
        (∀ i, i ≠ 16 → (u.crew c).entry i = (s.crew c).entry i) ∧ SameMemory s u))) ∧
  (∀ (s : State) (j : Nat) (m : Mx) (x : Ctx), (s.ctx j).head = some (m, x) →
    (m.reads = false ∨ (s.ctx j).has m = true ∨ (s.ctx j).tokReady m = false → exec (.tileLineArrival j) s = .next s) ∧
    (m.reads = true → (s.ctx j).has m = false → (s.ctx j).tokReady m = true →
      ∀ f, (if m.began then some m.fmt else (s.ctx j).fq.head?) = some f →
      (m.began = true ∨ s.startFault j m.cmd (some f) = none) →
      let y := (s.ctx j).fetchNow m.cmd f m.pos
      (s.fetchCheck j y = .ok → ∃ u line, exec (.tileLineArrival j) s = .next u ∧
        let y1 := y.took m.cmd f (s.readPieces j .load .l2 (y.left.take 1)).1 line
        (y1.left = [] → (u.ctx j).fetched = some (y1.fetch m.cmd f)) ∧ (y1.left ≠ [] → (u.ctx j).fetching = some y1)) ∧
      (∀ e va, s.fetchCheck j y = .bad e va → (m.began = false → exec (.tileLineArrival j) s = .next s) ∧
        (m.began = true → ∃ u z, exec (.tileLineArrival j) s = .next u ∧
          (∀ l, (u.crew (crewOf j)).lease = some l → l.job ≠ j) ∧ (u.ctx j).held.head? = some z ∧
          z.stop = some .privileged)))) ∧
  (∀ (s : State) (c : Nat),
    ((s.crew c).load = none → exec (.shadowFull c) s = .next s) ∧
    ∀ l, (s.crew c).load = some l →
      let halted := (s.ctx l.job).held.any fun x => x.mx.cmd.seq == l.cmd.seq && x.mx.stopped
      let parts := splitParts (ldpParts l.cmd l.fmt) l.bytes
      (halted = true ∨ (l.left = [] ∧ s.crewNow c < l.start + ldpCycles l.cmd) → exec (.shadowFull c) s = .next s) ∧
      (halted = false → l.left ≠ [] → s.chkPieces l.job .load (l.left.take 1) = .ok → ∃ u k,
        exec (.shadowFull c) s = .next u ∧ (u.crew c).load = some { l with
          left := l.left.drop 1, bytes := l.bytes ++ (s.readPieces l.job .load .l2 (l.left.take 1)).1, lines := k } ∧
        ∀ i, (u.crew c).entry i = (s.crew c).entry i ∧ (u.crew c).plane i = (s.crew c).plane i) ∧
      (halted = false → l.left = [] → l.start + ldpCycles l.cmd ≤ s.crewNow c → ∃ u, exec (.shadowFull c) s = .next u ∧
        (u.crew c).load = none ∧ SameMemory s u ∧
        (eState ((s.crew c).entry 16) = stLoading → eState ((u.crew c).entry 16) = stFull ∧ (u.crew c).plane 16 =
          ldpPlane ((s.crew c).plane 16) l.cmd l.fmt (parts.getD 0 []) (parts.getD 1 []) (parts.getD 2 [])) ∧
        (eState ((s.crew c).entry 16) ≠ stLoading → (u.crew c).entry 16 = (s.crew c).entry 16) ∧
        ∀ i, i ≠ 16 → (u.crew c).entry i = (s.crew c).entry i ∧ (u.crew c).plane i = (s.crew c).plane i)) ∧
  (∀ (s : State) (j t : Nat) (m : Mx) (x : Ctx), (s.ctx j).mxWaitFrom = some t → (s.ctx j).head = some (m, x) →
    let ended := m.cmd.opc = opMxkat ∧ m.began = false ∧ (s.ctx j).tokReady m = true ∧ t + 65536 ≤ s.crewNow (crewOf j)
    (¬ ended → exec (.mxkatTimeout j) s = .next s) ∧
    (ended → s.startReady j m = false ∧ ∃ u, exec (.mxkatTimeout j) s = .next u ∧
      fieldOf (u.ctx j).mxst 0 4 = 7 ∧ fieldOf (u.ctx j).mxst 48 16 = m.cmd.seq % 2 ^ 16 ∧ (u.ctx j).mx = none))

/-- What passes the entry port: MXEVP, MXPIN and MXSWP act on the directory at their entry, with the status of Table
6.6, and leave it as it is when they refuse; MXTSM opens a window; MXDIR and MXDRG take what they will store; a row of
MXMM and a token of MXGA meet the plane that their handle selects, a null one passes, and a miss or a mismatch stops the
mxq with class 4 (R91 to R97, R111, R129 to R135, R139 to R142). A forced eviction that was requested before this cycle
enters ahead of them, the earliest request first, and of two of one cycle that of the lower-numbered service core; the
WRSYS that waited for it performs in its entry cycle, and the plane of an error goes in the same way (R94, R134, R364). That MXGA's planes and MXDRG's values are taken in the entry's own step is the model's reading (log 80),
and so are the victims under the handle 0xFFFF, HALF entries among them (log 58). -/
def Obligations.ArrayEntries : Prop :=
  (∀ (s : State) (c : Nat),
    ((s.crew c).lease = none ∨ s.entryOpen c = false → exec (.rowEntry c) s = .next s) ∧
    (s.entryOpen c = true ↔
      s.ticks c = true ∧ (s.crew c).portOpen (s.crewNow c) = true ∧ (s.crew c).fevDue (s.crewNow c) = none)) ∧
  (∀ (s : State) (c : Nat) (l : Lease) (m : Mx), PortServes s c l m → m.cmd.opc = opMxevp ∨ m.cmd.opc = opMxpin →
    let x := s.crew c
    let at_ := x.find (s.partOf l.job) m.cmd.handle
    (at_ = none → ∃ u, exec (.rowEntry c) s = .next u ∧ EntersWith s u l.job m 4 ∧ SameDirectory s u c) ∧
    (∀ j, at_ = some j → m.cmd.opc = opMxevp →
      (ePin (x.entry j) ≠ 0 → ∃ u, exec (.rowEntry c) s = .next u ∧ EntersWith s u l.job m 1 ∧ SameDirectory s u c) ∧
      (ePin (x.entry j) = 0 → ∃ u, exec (.rowEntry c) s = .next u ∧ EntersWith s u l.job m 0 ∧
        (∀ i, (u.crew c).entry i = if j ≤ i ∧ i < j + eSlots (x.entry j) then emptyEntry else x.entry i))) ∧
    (∀ j, at_ = some j → m.cmd.opc = opMxpin →
      let full := if m.cmd.mod0 = true then ePin (x.entry j) = 0 else ePin (x.entry j) = 255
      (full → ∃ u, exec (.rowEntry c) s = .next u ∧ EntersWith s u l.job m 6 ∧ SameDirectory s u c) ∧
      (¬ full → ∃ u, exec (.rowEntry c) s = .next u ∧ EntersWith s u l.job m 0 ∧
        ePin ((u.crew c).entry j) = (if m.cmd.mod0 = true then ePin (x.entry j) - 1 else ePin (x.entry j) + 1) ∧
        (∀ i, i ≠ j → (u.crew c).entry i = x.entry i)))) ∧
  (∀ (s : State) (c : Nat) (l : Lease) (m : Mx), PortServes s c l m → m.cmd.opc = opMxswp → s.swapOk l.job m.cmd = true →
    let x := s.crew c
    let p := s.partOf l.job
    let j := m.cmd.slot
    let hnd := m.cmd.handle
    (m.cmd.mod0 = false → x.swapStatus l.job p j hnd ≠ 0 → ∃ u, exec (.rowEntry c) s = .next u ∧
      EntersWith s u l.job m (x.swapStatus l.job p j hnd) ∧ SameDirectory s u c) ∧
    (m.cmd.mod0 = false → x.swapStatus l.job p j hnd = 0 → eKind (x.entry 16) ≠ 1 → ∃ u, exec (.rowEntry c) s = .next u ∧
      EntersWith s u l.job m 0 ∧ (u.crew c).plane j = x.plane 16 ∧ (u.crew c).plane 16 = x.plane j ∧
      eState ((u.crew c).entry j) = stLive ∧ eHandle ((u.crew c).entry j) = hnd ∧
      eFmt ((u.crew c).entry j) = eFmt (x.entry 16) ∧ (u.crew c).lastSwap = some (s.crewNow c) ∧
      eState ((u.crew c).entry 16) = (if eState (x.entry j) = stLive then stFull else stEmpty)) ∧
    (m.cmd.mod0 = true → x.gradStatus p (j / 4) hnd ≠ 0 → ∃ u, exec (.rowEntry c) s = .next u ∧
      EntersWith s u l.job m (x.gradStatus p (j / 4) hnd) ∧ SameDirectory s u c) ∧
    (m.cmd.mod0 = true → x.gradStatus p (j / 4) hnd = 0 → ∃ u, exec (.rowEntry c) s = .next u ∧ EntersWith s u l.job m 0 ∧
      eState ((u.crew c).entry (4 * (j / 4))) = stLive ∧ eKind ((u.crew c).entry (4 * (j / 4))) = 2 ∧
      (∀ i, 1 ≤ i → i < 4 → eState ((u.crew c).entry (4 * (j / 4) + i)) = stCovered) ∧
      ∀ i, i < 4 → ((u.crew c).plane (4 * (j / 4) + i)).w = 0)) ∧
  (∀ (s : State) (c : Nat) (l : Lease) (m : Mx), PortServes s c l m →
    (m.cmd.opc = opMxtsm → ∃ u w, exec (.rowEntry c) s = .next u ∧ (u.ctx l.job).window = some w ∧ w.openAt = s.crewNow c ∧
      w.first = m.cmd.a.toNat % 256 ∧ w.count = m.cmd.a.toNat / 256 % 512 ∧ w.kept = [] ∧ w.left = 0 ∧
      SameDirectory s u c) ∧
    (m.cmd.opc = opMxdir → ∃ u m', exec (.rowEntry c) s = .next u ∧ m' ∈ (u.ctx l.job).mxTail ∧ m'.cmd = m.cmd ∧
      m'.out = [s.dirValue l.job m.cmd] ∧ SameDirectory s u c) ∧
    (∀ j, m.cmd.opc = opMxdrg → (s.crew c).find (s.partOf l.job) m.cmd.handle = some j →
      eState ((s.crew c).entry j) = stLive → eKind ((s.crew c).entry j) = 2 → fmtO m.fmt = 7 →
      ∃ u m', exec (.rowEntry c) s = .next u ∧ m' ∈ (u.ctx l.job).mxTail ∧ m'.cmd = m.cmd ∧ m'.status = 0 ∧
        m'.out = (drgCells m.cmd m.fmt).map fun y => BitVec.ofNat 64 ((s.crew c).grad j y.1 y.2))) ∧
  (∀ (s : State) (c : Nat) (l : Lease) (m : Mx) (t : Fetch), PortServes s c l m → m.cmd.opc = opMxmm →
    ((s.crew c).lastGa && decide (s.crewNow c ≤ (s.crew c).lastDrain)) = false → m.pos < shM m.cmd.c →
    (s.ctx l.job).carried m = some t →
    let x := s.crew c
    let wide := wideFmt (fmtA m.fmt)
    (t.handle = 0xFFFF → ∃ u, exec (.rowEntry c) s = .next u ∧ (u.crew c).flights = x.flights ∧
      (u.crew c).portFree = s.crewNow c + 1 ∧ SameDirectory s u c) ∧
    (∀ j, t.handle ≠ 0xFFFF → x.select (s.partOf l.job) t.handle.toNat = some j → x.mmMismatch j m.cmd m.fmt = false →
      let r := x.rowResult j m.fmt (shK m.cmd.c) (shN m.cmd.c) t
      let fl : Flight := ⟨s.crewNow c + (if wide then 531 else 528), .mm, l.job, (s.ctx l.job).gen, m.cmd, m.fmt, t.idx,
        some j, r.1, r.2, x.planeBad j, false⟩
      ∃ u, exec (.rowEntry c) s = .next u ∧ (u.crew c).portFree = s.crewNow c + (if wide then 4 else 1) ∧
        (u.crew c).flights = x.flights ++ [fl] ∧ SameDirectory s u c) ∧
    (t.handle ≠ 0xFFFF → x.select (s.partOf l.job) t.handle.toNat = none → ∃ u y, exec (.rowEntry c) s = .next u ∧
      (u.crew c).lease = none ∧ (u.ctx l.job).held.head? = some y ∧ y.stop = some .miss ∧ y.code = 1 ∧
      y.mx.handle = t.handle ∧ (u.crew c).flights = x.flights) ∧
    (∀ j, t.handle ≠ 0xFFFF → x.select (s.partOf l.job) t.handle.toNat = some j → x.mmMismatch j m.cmd m.fmt = true →
      ∃ u y, exec (.rowEntry c) s = .next u ∧ (u.crew c).lease = none ∧ (u.ctx l.job).held.head? = some y ∧
        y.stop = some .miss ∧ y.code = 2)) ∧
  (∀ (s : State) (c : Nat) (l : Lease) (m : Mx) (t : Fetch) (j : Nat), PortServes s c l m → m.cmd.opc = opMxga →
    (!(s.crew c).lastGa && decide (s.crewNow c ≤ (s.crew c).lastDrain)) = false → m.pos < shM m.cmd.c →
    (s.ctx l.job).carried m = some t → t.handle ≠ 0xFFFF →
    (s.crew c).select (s.partOf l.job) t.handle.toNat = some j → eKind ((s.crew c).entry j) = 2 →
    ∃ u, exec (.rowEntry c) s = .next u ∧
      (u.crew c).planes = ((s.crew c).token j m.fmt (shK m.cmd.c) (shN m.cmd.c) t).1.planes ∧
      (u.crew c).flights.length = (s.crew c).flights.length + 1 ∧ (u.crew c).lastGa = true) ∧
  (∀ (s : State) (c : Nat) (v : Word),
    let x := s.crew c
    let js := x.victims (fieldOf v 16 6) (fieldOf v 0 16)
    let shadow := fieldOf v 0 16 = 0xFFFF ∧ eState (x.entry 16) ≠ stEmpty ∧ ePart (x.entry 16) = fieldOf v 16 6
    let enters := fun (l : List FevReq) (also : State → Prop) => ∃ u, exec (.forcedEviction c v) s = .next u ∧
      (u.crew c).portFree = s.crewNow c + 1 ∧
      fieldOf (u.crew c).fev 62 2 = (if js ≠ [] ∨ shadow then 1 else 2) ∧
      fieldOf (u.crew c).fev 16 6 = fieldOf v 16 6 ∧ fieldOf (u.crew c).fev 0 16 = fieldOf v 0 16 ∧
      (∀ j ∈ js, (u.crew c).entry j = emptyEntry) ∧ (shadow → (u.crew c).entry 16 = emptyEntry) ∧
      (u.crew c).fevs = l ∧ (u.crew c).lease = x.lease ∧ SameMemory s u ∧ also u
    (x.portOpen (s.crewNow c) = false → exec (.forcedEviction c v) s = .next s ∧ s.fevNext c = s) ∧
    (x.portOpen (s.crewNow c) = true →
      (∀ r n w, x.fevDue (s.crewNow c) = some r → r.why = .write n w →
        (w ≠ v → exec (.forcedEviction c v) s = .next s) ∧
        (w = v → enters (x.fevs.erase r) fun u => (u.stream (.svc n)).pc = (s.stream (.svc n)).pc + 8)) ∧
      (∀ r j, x.fevDue (s.crewNow c) = some r → r.why = .error j → exec (.forcedEviction c v) s = .next s ∧
        let y := (s.fevNext c).crew c
        y.portFree = s.crewNow c + 1 ∧ y.fevs = x.fevs.erase r ∧ y.lease = x.lease ∧ SameMemory s (s.fevNext c) ∧
        (j = 16 ∨ (j < 16 ∧ eBound (x.entry j) = true) → y.entry j = emptyEntry)) ∧
      (x.fevDue (s.crewNow c) = none → x.fevs ≠ [] → exec (.forcedEviction c v) s = .next s) ∧
      (x.fevs = [] → enters [] fun _ => True)) ∧
    (∀ r, x.fevDue (s.crewNow c) = some r → r ∈ x.fevs ∧ r.at_ < s.crewNow c ∧
      ∀ q ∈ x.fevs, q.at_ < s.crewNow c →
        q = r ∨ r.at_ < q.at_ ∨ (r.at_ = q.at_ ∧ r.why.rank < q.why.rank)))

/-- What leaves the array: an entry in flight that drains writes its results into the accumulator row and nothing into
any other, behind the turn that its job's lanes have in the cycle; the rows of an MXTSM become zero; a flagged row of an
open window starts a replay: nothing of the window is written, its rows are zero a cycle later and enter again from the
second cycle on; a command completes with its token, its MXST and its TSF entry; an idle array runs a known-answer tile,
an entry a row, and a wrong sum is an integrity event that starts re-binning; one that no idle slot has admitted in
65,536 cycles is dropped, which is the model's reading (log 20) (R107, R110 to R113, R120, R126, R144). -/
def Obligations.ArrayDrains : Prop :=
  (∀ (s : State) (c : Nat),
    (firstDue (s.crewNow c) (s.crew c).flights = none → ∀ b, exec (.rowDrain c b) s = .next s) ∧
    (∀ f, firstDue (s.crewNow c) (s.crew c).flights = some f →
      (s.mayRun (.vec f.job) = true → ∀ b, exec (.rowDrain c b) s = .next s) ∧
      (s.mayRun (.vec f.job) = false → ∀ b, ∃ u, exec (.rowDrain c b) s = .next u)) ∧
    (∀ f, firstDue (s.crewNow c) (s.crew c).flights = some f → s.mayRun (.vec f.job) = false → f.dead = true → ∀ b,
      ∃ u, exec (.rowDrain c b) s = .next u ∧ (u.crew c).flights = (s.crew c).flights.erase f ∧ SameLocal s u) ∧
    (∀ f, firstDue (s.crewNow c) (s.crew c).flights = some f → s.mayRun (.vec f.job) = false → f.dead = false →
      f.kind = .mm → (s.ctx f.job).window = none →
      f.iev = false → s.drainPoisoned f = false →
      let k := (s.ctx f.job).accBase + shRow0 f.cmd.c + f.row
      let old := (s.core (coreOf f.job)).tile.get k 0
      ∃ u, exec (.rowDrain c false) s = .next u ∧ (u.crew c).flights = (s.crew c).flights.erase f ∧
        (u.core (coreOf f.job)).tile.get k 0 = (drainRow f.fmt f.cmd.accum f.cmd.h1 (shN f.cmd.c) f.res old).1 ∧
        (∀ i, i ≠ k → (u.core (coreOf f.job)).tile.get i 0 = (s.core (coreOf f.job)).tile.get i 0) ∧
        (∀ g, g ≠ coreOf f.job → u.core g = s.core g) ∧ SameMemory s u) ∧
    (∀ f, firstDue (s.crewNow c) (s.crew c).flights = some f → s.mayRun (.vec f.job) = false → f.dead = false → f.kind = .tsm → ∀ b,
      ∃ u, exec (.rowDrain c b) s = .next u ∧
        ∀ i, i < f.cmd.a.toNat / 256 % 512 → u.row f.job (f.cmd.a.toNat % 256 + i) = 0) ∧
    (∀ f w, firstDue (s.crewNow c) (s.crew c).flights = some f → s.mayRun (.vec f.job) = false → f.dead = false →
      f.kind = .mm → crewOf f.job = c →
      (s.ctx f.job).window = some w → (s.ctx f.job).redoing = [] → f.iev = false → w.replaying = false → w.holds f = true →
      w.first ≤ shRow0 f.cmd.c + f.row → shRow0 f.cmd.c + f.row < w.first + w.count →
      ∃ u, exec (.rowDrain c true) s = .next u ∧ (u.ctx f.job).window = some { w with replaying := true } ∧ SameLocal s u ∧
        (u.ctx f.job).redoing = [⟨w.first, w.count, w.kept, w.kept, s.crewNow c + 2, false⟩] ∧
        (∀ g ∈ (u.crew c).flights, g.job = f.job → g.gen = (s.ctx f.job).gen → g.kind = .mm → w.holds g = true → g.dead = true) ∧
        ∀ i, i < w.count → (u.replayZero f.job).row f.job (w.first + i) = 0)) ∧
  (∀ (s : State) (c : Nat),
    (s.mxWork c = [] → exec (.matrixCommandComplete c) s = .next s) ∧
    (∀ h m, s.mxWork c = [(h, m)] → m.storing = false →
      let bad := m.cmd.opc = opMxkat ∧ m.status ≠ 7 ∧ m.sum ≠ m.cmd.b
      let st := if bad then 8 else m.status.toNat
      ∃ u, exec (.matrixCommandComplete c) s = .next u ∧
        (writesMxst m.cmd.opc = true → fieldOf (u.ctx h).mxst 0 4 = st ∧
          fieldOf (u.ctx h).mxst 48 16 = m.cmd.seq % 2 ^ 16 ∧
          fieldOf (u.ctx h).mxst 8 1 = (if 1 ≤ st ∧ st ≤ 6 then 1 else fieldOf (s.ctx h).mxst 8 1)) ∧
        (m.cmd.opc = opMxmm → (u.ctx h).tsfNew =
          (s.ctx h).tsfNew ++ [(0, s.crewNow (crewOf h) + 24, tsfWord m (shRow0 m.cmd.c) (shM m.cmd.c - 1))]) ∧
        (∀ k, m.again = false → m.cmd.tok.sig ≠ 0 → k = m.cmd.tok.sig.toNat →
          (u.ctx h).token k = BitVec.ofNat 16 (Nat.min 65535 (((s.ctx h).token k).toNat + 1))))) ∧
  (∀ (s : State) (c : Nat) (t : BitVec 6),
    (s.arrayIdle c = false → exec (.knownAnswerSlot c t) s = .next s) ∧
    (s.arrayIdle c = true → s.assisted 5 = false → ∃ u, exec (.knownAnswerSlot c t) s = .next u ∧
      (u.crew c).tile = some { tile := t.toNat, from_ := s.crewNow c, pos := 0, sum := 0, last := 0 } ∧ (u.crew c).portFree = (s.crew c).portFree ∧
      SameDirectory s u c ∧ SameMemory s u)) ∧
  (∀ (s : State) (c : Nat) (t : TileRun), (s.crew c).tile = some t →
    let x := s.crew c
    let now := s.crewNow c
    let u := s.tileCycle c
    let late := t.pos = 0 ∧ t.from_ + 65536 ≤ now
    (late → (u.crew c).tile = none ∧ (u.crew c).portFree = x.portFree ∧ (u.crew c).binState = x.binState) ∧
    (t.pos < 32 → ¬ late → x.portOpen now = true → (t.pos = 0 → s.slotIdle c = true) → ¬ (x.lastGa = true ∧ now ≤ x.lastDrain) →
      (u.crew c).portFree = now + 1 ∧ SameMemory s u ∧ SameDirectory s u c ∧
      let sum := t.sum + katSum t.tile t.pos (rowCodes 1 256 (s.rawRead (poolAddr t.tile t.pos) 256))
      (u.crew c).tile = some { t with pos := t.pos + 1, sum := sum, last := now }) ∧
    (32 ≤ t.pos → t.last + 529 ≤ now →
      (t.sum = s.readWord (poolSum t.tile) → (u.crew c).tile = none ∧ (u.crew c).binState = x.binState ∧ SameMemory s u) ∧
      (t.sum ≠ s.readWord (poolSum t.tile) → x.binState = 0 → s.assisted 5 = false → (u.crew c).binState = 1 ∧
        (u.crew c).step = .draining s.now ∧
        (u.crew c).binFails = Nat.min 255 (x.binFails + 1) ∧
        fieldOf u.evl1 32 32 = (fieldOf s.evl1 32 32 + 1) % 2 ^ 32)))
end

