-- ==== Sys2Proof/Laws/Fields.lean ====
section
/-! SUPPORT. Laws/Fields.lean: fields of words, and words as bytes. -/

namespace Sys2Proof.Machine

theorem fieldOf_testBit (w : Word) (lo len i : Nat) :
    (fieldOf w lo len).testBit i = (decide (i < len) && w.getLsbD (lo + i)) := by
  rw [fieldOf, Nat.testBit_mod_two_pow, Nat.testBit_div_two_pow, Nat.add_comm, BitVec.getLsbD]

theorem fieldOf_lt (w : Word) (lo len : Nat) : fieldOf w lo len < 2 ^ len := Nat.mod_lt _ (Nat.two_pow_pos len)

theorem withField_getLsbD (w : Word) (lo len x i : Nat) (hi : i < 64) :
    (withField w lo len x).getLsbD i =
      if lo ≤ i ∧ i < lo + len then x.testBit (i - lo) else w.getLsbD i := by
  simp only [withField, BitVec.getLsbD_or, BitVec.getLsbD_and, BitVec.getLsbD_not, BitVec.getLsbD_ofNat, hi,
    Nat.testBit_mul_two_pow, Nat.testBit_two_pow_sub_one, Nat.testBit_mod_two_pow, decide_true, Bool.true_and]
  by_cases h1 : lo ≤ i
  · by_cases h2 : i - lo < len
    · simp [h1, h2, show i < lo + len by omega]
    · simp [h1, h2, show ¬ i < lo + len by omega]
  · simp [h1]

/-- A field reads as it was written. -/
theorem fieldOf_withField (w : Word) (lo len x : Nat) (h : lo + len ≤ 64) :
    fieldOf (withField w lo len x) lo len = x % 2 ^ len := by
  apply Nat.eq_of_testBit_eq
  intro i
  rw [fieldOf_testBit, Nat.testBit_mod_two_pow]
  by_cases hi : i < len
  · simp [hi, withField_getLsbD w lo len x (lo + i) (by omega)]
  · simp [hi]

/-- A field apart from the one written is as before. -/
theorem fieldOf_withField_other (w : Word) (lo len x lo' len' : Nat) (h : lo' + len' ≤ 64)
    (ha : lo' + len' ≤ lo ∨ lo + len ≤ lo') : fieldOf (withField w lo len x) lo' len' = fieldOf w lo' len' := by
  apply Nat.eq_of_testBit_eq
  intro i
  rw [fieldOf_testBit, fieldOf_testBit]
  by_cases hi : i < len'
  · rw [withField_getLsbD w lo len x (lo' + i) (by omega), if_neg (by omega)]
  · simp [hi]

@[simp] theorem bytesLE_length (n x : Nat) : (bytesLE n x).length = n := by
  induction n generalizing x with
  | zero => rfl
  | succ n ih => simp [bytesLE, ih]

theorem natLE_bytesLE (n x : Nat) : natLE (bytesLE n x) = x % 256 ^ n := by
  induction n generalizing x with
  | zero => simp [bytesLE, natLE, Nat.mod_one]
  | succ n ih =>
    simp only [bytesLE, natLE, ih, BitVec.toNat_ofNat]
    rw [Nat.pow_succ 256 n, Nat.mul_comm (256 ^ n) 256, Nat.mod_mul]

/-- A word reads back from its eight bytes (R8). -/
@[simp] theorem wordLE_bytesLE (w : Word) : wordLE (bytesLE 8 w.toNat) = w := by
  apply BitVec.eq_of_toNat_eq
  rw [wordLE, natLE_bytesLE, BitVec.toNat_ofNat]
  have := w.isLt
  omega

end Sys2Proof.Machine
end

