-- ==== Sys2Proof/Laws/Aes.lean ====
section
/-! SUPPORT. Laws/Aes.lean: the lengths of what the AES operations give: blocks of 16 bytes, lines of 128. -/

namespace Sys2Proof.Machine

theorem xorBytes_length (a b : List Byte) : (xorBytes a b).length = Nat.min a.length b.length := by
  simp [xorBytes]

/-- Every word of a list has four bytes. -/
def Words4 (ws : List (List Byte)) : Prop := ∀ w ∈ ws, w.length = 4

theorem Words4.getD {ws : List (List Byte)} (h : Words4 ws) {i : Nat} (hi : i < ws.length) : (ws.getD i []).length = 4 := by
  rw [List.getD_eq_getElem?_getD, List.getElem?_eq_getElem hi]
  exact h _ (List.getElem_mem hi)

theorem nextKeyWord_length {ws : List (List Byte)} (h : Words4 ws) (hl : 8 ≤ ws.length) (i : Nat) (r : Byte) :
    (nextKeyWord i r ws).length = 4 := by
  have h0 := h.getD (i := 0) (by omega)
  have h7 := h.getD (i := 7) (by omega)
  simp only [nextKeyWord, xorBytes_length, h7]
  split
  · simp only [xorBytes_length, List.length_map, List.length_append, List.length_drop, List.length_take, h0]; rfl
  · split <;> simp only [List.length_map, h0] <;> rfl

theorem expandKey_words (k : Nat) {i : Nat} {r : Byte} {ws : List (List Byte)} (h : Words4 ws) (hl : 8 ≤ ws.length) :
    Words4 (expandKey k i r ws) ∧ (expandKey k i r ws).length = ws.length + k := by
  induction k generalizing i r ws with
  | zero => exact ⟨h, rfl⟩
  | succ k ih =>
    have hw : Words4 (nextKeyWord i r ws :: ws) := by
      intro w hm
      rcases List.mem_cons.mp hm with rfl | hm
      · exact nextKeyWord_length h hl i r
      · exact h w hm
    have := ih (i := i + 1) (r := if i % 8 = 0 then gfDouble r else r) hw (by simp; omega)
    exact ⟨this.1, by rw [expandKey, this.2]; simp; omega⟩

theorem Words4.flatten {ws : List (List Byte)} (h : Words4 ws) : ws.flatten.length = 4 * ws.length := by
  induction ws with
  | nil => rfl
  | cons w r ih =>
    rw [List.flatten_cons, List.length_append, h w (List.mem_cons_self ..), ih fun x hx => h x (List.mem_cons_of_mem _ hx)]
    simp; omega

/-- The round keys of a key of 32 bytes: 15 of 16 bytes each. -/
theorem roundKeys_length {key : List Byte} (h : key.length = 32) :
    (roundKeys key).length = 15 ∧ ∀ k ∈ roundKeys key, k.length = 16 := by
  refine ⟨by simp [roundKeys], fun k hk => ?_⟩
  simp only [roundKeys, List.mem_map, List.mem_range] at hk
  obtain ⟨r, hr, rfl⟩ := hk
  have hw : Words4 ((List.range 8).map fun i => (key.drop (4 * i)).take 4).reverse := by
    intro w hm
    simp only [List.mem_reverse, List.mem_map, List.mem_range] at hm
    obtain ⟨i, hi, rfl⟩ := hm
    simp only [List.length_take, List.length_drop, h]; omega
  obtain ⟨h1, h2⟩ := expandKey_words 52 (i := 8) (r := 1) hw (by simp)
  generalize expandKey 52 8 1 _ = ws at h1 h2
  have h3 : Words4 ((ws.reverse.drop (4 * r)).take 4) := fun w hm =>
    h1 w (List.mem_reverse.mp (List.mem_of_mem_drop (List.mem_of_mem_take hm)))
  rw [h3.flatten]
  simp only [List.length_take, List.length_drop, List.length_reverse, h2]
  simp; omega

theorem aesUnround_length (last : Bool) (s k : List Byte) : (aesUnround last s k).length = 16 := by
  simp [aesUnround, invShiftRows]

theorem aesUnrounds_length (last : Bool) {s : List Byte} {ks : List (List Byte)} (hs : s.length = 16)
    (hk : ∀ k ∈ ks, k.length = 16) : (aesUnrounds last s ks).length = 16 := by
  induction ks generalizing last s with
  | nil => exact hs
  | cons k r ih =>
    cases r with
    | nil => simp only [aesUnrounds, xorBytes_length, hs, hk k (List.mem_cons_self ..)]; rfl
    | cons k' r =>
      exact ih false (aesUnround_length last s k) fun x hx => hk x (List.mem_cons_of_mem _ hx)

/-- A line under a key is a line. -/
theorem xtsDecrypt_length (key : BitVec 512) (num : Nat) {l : List Byte} (h : l.length = 128) :
    (xtsDecrypt key num l).length = 128 := by
  have hb : ∀ t k, k < 8 → (xorBytes (aes256Inv (bytesLE 32 key.toNat) (xorBytes ((l.drop (16 * k)).take 16) (bytesLE 16 t)))
      (bytesLE 16 t)).length = 16 := by
    intro t k hk
    rw [xorBytes_length, bytesLE_length, aes256Inv, aesUnrounds_length _ _ fun x hx => (roundKeys_length (by simp)).2 x
      (List.mem_reverse.mp hx)]
    · rfl
    · simp only [xorBytes_length, bytesLE_length, List.length_take, List.length_drop, h]
      show Nat.min (Nat.min 16 (128 - 16 * k)) 16 = 16
      simp only [Nat.min_def]; split <;> split <;> omega
  simp only [xtsDecrypt, xtsLine, xtsTweaks, List.zipIdx, List.flatMap_cons, List.flatMap_nil, List.length_append]
  simp only [hb _ _ (show (0 : Nat) < 8 by omega), hb _ _ (show (0 + 1 : Nat) < 8 by omega),
    hb _ _ (show (0 + 1 + 1 : Nat) < 8 by omega), hb _ _ (show (0 + 1 + 1 + 1 : Nat) < 8 by omega),
    hb _ _ (show (0 + 1 + 1 + 1 + 1 : Nat) < 8 by omega), hb _ _ (show (0 + 1 + 1 + 1 + 1 + 1 : Nat) < 8 by omega),
    hb _ _ (show (0 + 1 + 1 + 1 + 1 + 1 + 1 : Nat) < 8 by omega),
    hb _ _ (show (0 + 1 + 1 + 1 + 1 + 1 + 1 + 1 : Nat) < 8 by omega), List.length_nil]

end Sys2Proof.Machine
end

