-- ==== Sys2Proof/Laws/State.lean ====
section
/-! SUPPORT. Laws/State.lean: how the tables and the state read back after an update. -/

namespace Sys2Proof

/-! ## Tables -/

namespace Tab

variable {α : Type}

@[simp] theorem get_nil (k : Nat) (d : α) : Tab.get ([] : Tab α) k d = d := rfl

@[simp] theorem get_set_same (t : Tab α) (k : Nat) (x d : α) : Tab.get (Tab.set t k x) k d = x := by
  induction t with
  | nil => simp [Tab.set, Tab.get]
  | cons e r ih =>
    obtain ⟨i, y⟩ := e
    simp only [Tab.set]
    split
    · simp [Tab.get]
    · split
      · simp [Tab.get]
      · simp [Tab.get, *]

theorem get_set_other (t : Tab α) (k k' : Nat) (x d : α) (n : k' ≠ k) :
    Tab.get (Tab.set t k x) k' d = Tab.get t k' d := by
  induction t with
  | nil => simp [Tab.set, Tab.get, n.symm]
  | cons e r ih =>
    obtain ⟨i, y⟩ := e
    simp only [Tab.set]
    split
    · subst i; simp [Tab.get, n.symm]
    · split
      · simp [Tab.get, n.symm]
      · simp only [Tab.get, ih]

theorem get_set (t : Tab α) (k k' : Nat) (x d : α) :
    Tab.get (Tab.set t k x) k' d = if k' = k then x else Tab.get t k' d := by
  split
  · subst k'; simp
  · exact get_set_other t k k' x d ‹_›

end Tab

namespace Machine.State

variable (s : State)

/-! ## A table of the state after an update of another, and after its own -/

@[simp] theorem setCox_acc (t : Thread) (c : Cox) (k : Nat) : (s.setCox t c).acc k = s.acc k := rfl
@[simp] theorem setCox_vec (t : Thread) (c : Cox) (k : Nat) : (s.setCox t c).vec k = s.vec k := rfl
@[simp] theorem setCox_ctx (t : Thread) (c : Cox) (k : Nat) : (s.setCox t c).ctx k = s.ctx k := rfl
@[simp] theorem setCox_svc (t : Thread) (c : Cox) (k : Nat) : (s.setCox t c).svc k = s.svc k := rfl
@[simp] theorem setCox_core (t : Thread) (c : Cox) (k : Nat) : (s.setCox t c).core k = s.core k := rfl
@[simp] theorem setCox_crew (t : Thread) (c : Cox) (k : Nat) : (s.setCox t c).crew k = s.crew k := rfl
@[simp] theorem setCox_part (t : Thread) (c : Cox) (k : Nat) : (s.setCox t c).part k = s.part k := rfl
@[simp] theorem setCox_die (t : Thread) (c : Cox) (k : Nat) : (s.setCox t c).die k = s.die k := rfl
@[simp] theorem setCox_slice (t : Thread) (c : Cox) (k : Nat) : (s.setCox t c).slice k = s.slice k := rfl
@[simp] theorem setCox_zone (t : Thread) (c : Cox) (k : Nat) : (s.setCox t c).zone k = s.zone k := rfl
@[simp] theorem setCox_cox (t : Thread) (c : Cox) : (s.setCox t c).cox t = c := by simp [State.setCox, State.cox]
theorem setCox_cox_other (t : Thread) (c : Cox) (k : Thread) (hk : k.key ≠ t.key) : (s.setCox t c).cox k = s.cox k := by
  simp [State.setCox, State.cox, Tab.get_set_other _ _ _ _ _ hk]
@[simp] theorem setAcc_cox (j : Nat) (x : Acc) (k : Thread) : (s.setAcc j x).cox k = s.cox k := rfl
@[simp] theorem setAcc_vec (j : Nat) (x : Acc) (k : Nat) : (s.setAcc j x).vec k = s.vec k := rfl
@[simp] theorem setAcc_ctx (j : Nat) (x : Acc) (k : Nat) : (s.setAcc j x).ctx k = s.ctx k := rfl
@[simp] theorem setAcc_svc (j : Nat) (x : Acc) (k : Nat) : (s.setAcc j x).svc k = s.svc k := rfl
@[simp] theorem setAcc_core (j : Nat) (x : Acc) (k : Nat) : (s.setAcc j x).core k = s.core k := rfl
@[simp] theorem setAcc_crew (j : Nat) (x : Acc) (k : Nat) : (s.setAcc j x).crew k = s.crew k := rfl
@[simp] theorem setAcc_part (j : Nat) (x : Acc) (k : Nat) : (s.setAcc j x).part k = s.part k := rfl
@[simp] theorem setAcc_die (j : Nat) (x : Acc) (k : Nat) : (s.setAcc j x).die k = s.die k := rfl
@[simp] theorem setAcc_slice (j : Nat) (x : Acc) (k : Nat) : (s.setAcc j x).slice k = s.slice k := rfl
@[simp] theorem setAcc_zone (j : Nat) (x : Acc) (k : Nat) : (s.setAcc j x).zone k = s.zone k := rfl
@[simp] theorem setAcc_acc (j : Nat) (x : Acc) : (s.setAcc j x).acc j = x := by simp [State.setAcc, State.acc]
theorem setAcc_acc_other (j : Nat) (x : Acc) (k : Nat) (hk : k ≠ j) : (s.setAcc j x).acc k = s.acc k := by
  simp [State.setAcc, State.acc, Tab.get_set_other _ _ _ _ _ hk]
@[simp] theorem setVec_cox (j : Nat) (x : Vec) (k : Thread) : (s.setVec j x).cox k = s.cox k := rfl
@[simp] theorem setVec_acc (j : Nat) (x : Vec) (k : Nat) : (s.setVec j x).acc k = s.acc k := rfl
@[simp] theorem setVec_ctx (j : Nat) (x : Vec) (k : Nat) : (s.setVec j x).ctx k = s.ctx k := rfl
@[simp] theorem setVec_svc (j : Nat) (x : Vec) (k : Nat) : (s.setVec j x).svc k = s.svc k := rfl
@[simp] theorem setVec_core (j : Nat) (x : Vec) (k : Nat) : (s.setVec j x).core k = s.core k := rfl
@[simp] theorem setVec_crew (j : Nat) (x : Vec) (k : Nat) : (s.setVec j x).crew k = s.crew k := rfl
@[simp] theorem setVec_part (j : Nat) (x : Vec) (k : Nat) : (s.setVec j x).part k = s.part k := rfl
@[simp] theorem setVec_die (j : Nat) (x : Vec) (k : Nat) : (s.setVec j x).die k = s.die k := rfl
@[simp] theorem setVec_slice (j : Nat) (x : Vec) (k : Nat) : (s.setVec j x).slice k = s.slice k := rfl
@[simp] theorem setVec_zone (j : Nat) (x : Vec) (k : Nat) : (s.setVec j x).zone k = s.zone k := rfl
@[simp] theorem setVec_vec (j : Nat) (x : Vec) : (s.setVec j x).vec j = x := by simp [State.setVec, State.vec]
theorem setVec_vec_other (j : Nat) (x : Vec) (k : Nat) (hk : k ≠ j) : (s.setVec j x).vec k = s.vec k := by
  simp [State.setVec, State.vec, Tab.get_set_other _ _ _ _ _ hk]
@[simp] theorem setCtx_cox (h : Nat) (x : Ctx) (k : Thread) : (s.setCtx h x).cox k = s.cox k := rfl
@[simp] theorem setCtx_acc (h : Nat) (x : Ctx) (k : Nat) : (s.setCtx h x).acc k = s.acc k := rfl
@[simp] theorem setCtx_vec (h : Nat) (x : Ctx) (k : Nat) : (s.setCtx h x).vec k = s.vec k := rfl
@[simp] theorem setCtx_svc (h : Nat) (x : Ctx) (k : Nat) : (s.setCtx h x).svc k = s.svc k := rfl
@[simp] theorem setCtx_core (h : Nat) (x : Ctx) (k : Nat) : (s.setCtx h x).core k = s.core k := rfl
@[simp] theorem setCtx_crew (h : Nat) (x : Ctx) (k : Nat) : (s.setCtx h x).crew k = s.crew k := rfl
@[simp] theorem setCtx_part (h : Nat) (x : Ctx) (k : Nat) : (s.setCtx h x).part k = s.part k := rfl
@[simp] theorem setCtx_die (h : Nat) (x : Ctx) (k : Nat) : (s.setCtx h x).die k = s.die k := rfl
@[simp] theorem setCtx_slice (h : Nat) (x : Ctx) (k : Nat) : (s.setCtx h x).slice k = s.slice k := rfl
@[simp] theorem setCtx_zone (h : Nat) (x : Ctx) (k : Nat) : (s.setCtx h x).zone k = s.zone k := rfl
@[simp] theorem setCtx_ctx (h : Nat) (x : Ctx) : (s.setCtx h x).ctx h = x := by simp [State.setCtx, State.ctx]
theorem setCtx_ctx_other (h : Nat) (x : Ctx) (k : Nat) (hk : k ≠ h) : (s.setCtx h x).ctx k = s.ctx k := by
  simp [State.setCtx, State.ctx, Tab.get_set_other _ _ _ _ _ hk]
@[simp] theorem setSvc_cox (n : Nat) (x : Service) (k : Thread) : (s.setSvc n x).cox k = s.cox k := rfl
@[simp] theorem setSvc_acc (n : Nat) (x : Service) (k : Nat) : (s.setSvc n x).acc k = s.acc k := rfl
@[simp] theorem setSvc_vec (n : Nat) (x : Service) (k : Nat) : (s.setSvc n x).vec k = s.vec k := rfl
@[simp] theorem setSvc_ctx (n : Nat) (x : Service) (k : Nat) : (s.setSvc n x).ctx k = s.ctx k := rfl
@[simp] theorem setSvc_core (n : Nat) (x : Service) (k : Nat) : (s.setSvc n x).core k = s.core k := rfl
@[simp] theorem setSvc_crew (n : Nat) (x : Service) (k : Nat) : (s.setSvc n x).crew k = s.crew k := rfl
@[simp] theorem setSvc_part (n : Nat) (x : Service) (k : Nat) : (s.setSvc n x).part k = s.part k := rfl
@[simp] theorem setSvc_die (n : Nat) (x : Service) (k : Nat) : (s.setSvc n x).die k = s.die k := rfl
@[simp] theorem setSvc_slice (n : Nat) (x : Service) (k : Nat) : (s.setSvc n x).slice k = s.slice k := rfl
@[simp] theorem setSvc_zone (n : Nat) (x : Service) (k : Nat) : (s.setSvc n x).zone k = s.zone k := rfl
@[simp] theorem setSvc_svc (n : Nat) (x : Service) : (s.setSvc n x).svc n = x := by simp [State.setSvc, State.svc]
theorem setSvc_svc_other (n : Nat) (x : Service) (k : Nat) (hk : k ≠ n) : (s.setSvc n x).svc k = s.svc k := by
  simp [State.setSvc, State.svc, Tab.get_set_other _ _ _ _ _ hk]
@[simp] theorem setCore_cox (g : Nat) (x : CoreSt) (k : Thread) : (s.setCore g x).cox k = s.cox k := rfl
@[simp] theorem setCore_acc (g : Nat) (x : CoreSt) (k : Nat) : (s.setCore g x).acc k = s.acc k := rfl
@[simp] theorem setCore_vec (g : Nat) (x : CoreSt) (k : Nat) : (s.setCore g x).vec k = s.vec k := rfl
@[simp] theorem setCore_ctx (g : Nat) (x : CoreSt) (k : Nat) : (s.setCore g x).ctx k = s.ctx k := rfl
@[simp] theorem setCore_svc (g : Nat) (x : CoreSt) (k : Nat) : (s.setCore g x).svc k = s.svc k := rfl
@[simp] theorem setCore_crew (g : Nat) (x : CoreSt) (k : Nat) : (s.setCore g x).crew k = s.crew k := rfl
@[simp] theorem setCore_part (g : Nat) (x : CoreSt) (k : Nat) : (s.setCore g x).part k = s.part k := rfl
@[simp] theorem setCore_die (g : Nat) (x : CoreSt) (k : Nat) : (s.setCore g x).die k = s.die k := rfl
@[simp] theorem setCore_slice (g : Nat) (x : CoreSt) (k : Nat) : (s.setCore g x).slice k = s.slice k := rfl
@[simp] theorem setCore_zone (g : Nat) (x : CoreSt) (k : Nat) : (s.setCore g x).zone k = s.zone k := rfl
@[simp] theorem setCore_core (g : Nat) (x : CoreSt) : (s.setCore g x).core g = x := by simp [State.setCore, State.core]
theorem setCore_core_other (g : Nat) (x : CoreSt) (k : Nat) (hk : k ≠ g) : (s.setCore g x).core k = s.core k := by
  simp [State.setCore, State.core, Tab.get_set_other _ _ _ _ _ hk]
@[simp] theorem setCrew_cox (c : Nat) (x : Crew) (k : Thread) : (s.setCrew c x).cox k = s.cox k := rfl
@[simp] theorem setCrew_acc (c : Nat) (x : Crew) (k : Nat) : (s.setCrew c x).acc k = s.acc k := rfl
@[simp] theorem setCrew_vec (c : Nat) (x : Crew) (k : Nat) : (s.setCrew c x).vec k = s.vec k := rfl
@[simp] theorem setCrew_ctx (c : Nat) (x : Crew) (k : Nat) : (s.setCrew c x).ctx k = s.ctx k := rfl
@[simp] theorem setCrew_svc (c : Nat) (x : Crew) (k : Nat) : (s.setCrew c x).svc k = s.svc k := rfl
@[simp] theorem setCrew_core (c : Nat) (x : Crew) (k : Nat) : (s.setCrew c x).core k = s.core k := rfl
@[simp] theorem setCrew_part (c : Nat) (x : Crew) (k : Nat) : (s.setCrew c x).part k = s.part k := rfl
@[simp] theorem setCrew_die (c : Nat) (x : Crew) (k : Nat) : (s.setCrew c x).die k = s.die k := rfl
@[simp] theorem setCrew_slice (c : Nat) (x : Crew) (k : Nat) : (s.setCrew c x).slice k = s.slice k := rfl
@[simp] theorem setCrew_zone (c : Nat) (x : Crew) (k : Nat) : (s.setCrew c x).zone k = s.zone k := rfl
@[simp] theorem setCrew_crew (c : Nat) (x : Crew) : (s.setCrew c x).crew c = x := by simp [State.setCrew, State.crew]
theorem setCrew_crew_other (c : Nat) (x : Crew) (k : Nat) (hk : k ≠ c) : (s.setCrew c x).crew k = s.crew k := by
  simp [State.setCrew, State.crew, Tab.get_set_other _ _ _ _ _ hk]
@[simp] theorem setPart_cox (p : Nat) (x : Part) (k : Thread) : (s.setPart p x).cox k = s.cox k := rfl
@[simp] theorem setPart_acc (p : Nat) (x : Part) (k : Nat) : (s.setPart p x).acc k = s.acc k := rfl
@[simp] theorem setPart_vec (p : Nat) (x : Part) (k : Nat) : (s.setPart p x).vec k = s.vec k := rfl
@[simp] theorem setPart_ctx (p : Nat) (x : Part) (k : Nat) : (s.setPart p x).ctx k = s.ctx k := rfl
@[simp] theorem setPart_svc (p : Nat) (x : Part) (k : Nat) : (s.setPart p x).svc k = s.svc k := rfl
@[simp] theorem setPart_core (p : Nat) (x : Part) (k : Nat) : (s.setPart p x).core k = s.core k := rfl
@[simp] theorem setPart_crew (p : Nat) (x : Part) (k : Nat) : (s.setPart p x).crew k = s.crew k := rfl
@[simp] theorem setPart_die (p : Nat) (x : Part) (k : Nat) : (s.setPart p x).die k = s.die k := rfl
@[simp] theorem setPart_slice (p : Nat) (x : Part) (k : Nat) : (s.setPart p x).slice k = s.slice k := rfl
@[simp] theorem setPart_zone (p : Nat) (x : Part) (k : Nat) : (s.setPart p x).zone k = s.zone k := rfl
@[simp] theorem setPart_part (p : Nat) (x : Part) : (s.setPart p x).part p = x := by simp [State.setPart, State.part]
theorem setPart_part_other (p : Nat) (x : Part) (k : Nat) (hk : k ≠ p) : (s.setPart p x).part k = s.part k := by
  simp [State.setPart, State.part, Tab.get_set_other _ _ _ _ _ hk]
@[simp] theorem setDie_cox (d : Nat) (x : Die) (k : Thread) : (s.setDie d x).cox k = s.cox k := rfl
@[simp] theorem setDie_acc (d : Nat) (x : Die) (k : Nat) : (s.setDie d x).acc k = s.acc k := rfl
@[simp] theorem setDie_vec (d : Nat) (x : Die) (k : Nat) : (s.setDie d x).vec k = s.vec k := rfl
@[simp] theorem setDie_ctx (d : Nat) (x : Die) (k : Nat) : (s.setDie d x).ctx k = s.ctx k := rfl
@[simp] theorem setDie_svc (d : Nat) (x : Die) (k : Nat) : (s.setDie d x).svc k = s.svc k := rfl
@[simp] theorem setDie_core (d : Nat) (x : Die) (k : Nat) : (s.setDie d x).core k = s.core k := rfl
@[simp] theorem setDie_crew (d : Nat) (x : Die) (k : Nat) : (s.setDie d x).crew k = s.crew k := rfl
@[simp] theorem setDie_part (d : Nat) (x : Die) (k : Nat) : (s.setDie d x).part k = s.part k := rfl
@[simp] theorem setDie_slice (d : Nat) (x : Die) (k : Nat) : (s.setDie d x).slice k = s.slice k := rfl
@[simp] theorem setDie_zone (d : Nat) (x : Die) (k : Nat) : (s.setDie d x).zone k = s.zone k := rfl
@[simp] theorem setDie_die (d : Nat) (x : Die) : (s.setDie d x).die d = x := by simp [State.setDie, State.die]
theorem setDie_die_other (d : Nat) (x : Die) (k : Nat) (hk : k ≠ d) : (s.setDie d x).die k = s.die k := by
  simp [State.setDie, State.die, Tab.get_set_other _ _ _ _ _ hk]
@[simp] theorem setSlice_cox (i : Nat) (x : Slice) (k : Thread) : (s.setSlice i x).cox k = s.cox k := rfl
@[simp] theorem setSlice_acc (i : Nat) (x : Slice) (k : Nat) : (s.setSlice i x).acc k = s.acc k := rfl
@[simp] theorem setSlice_vec (i : Nat) (x : Slice) (k : Nat) : (s.setSlice i x).vec k = s.vec k := rfl
@[simp] theorem setSlice_ctx (i : Nat) (x : Slice) (k : Nat) : (s.setSlice i x).ctx k = s.ctx k := rfl
@[simp] theorem setSlice_svc (i : Nat) (x : Slice) (k : Nat) : (s.setSlice i x).svc k = s.svc k := rfl
@[simp] theorem setSlice_core (i : Nat) (x : Slice) (k : Nat) : (s.setSlice i x).core k = s.core k := rfl
@[simp] theorem setSlice_crew (i : Nat) (x : Slice) (k : Nat) : (s.setSlice i x).crew k = s.crew k := rfl
@[simp] theorem setSlice_part (i : Nat) (x : Slice) (k : Nat) : (s.setSlice i x).part k = s.part k := rfl
@[simp] theorem setSlice_die (i : Nat) (x : Slice) (k : Nat) : (s.setSlice i x).die k = s.die k := rfl
@[simp] theorem setSlice_zone (i : Nat) (x : Slice) (k : Nat) : (s.setSlice i x).zone k = s.zone k := rfl
@[simp] theorem setSlice_slice (i : Nat) (x : Slice) : (s.setSlice i x).slice i = x := by simp [State.setSlice, State.slice]
theorem setSlice_slice_other (i : Nat) (x : Slice) (k : Nat) (hk : k ≠ i) : (s.setSlice i x).slice k = s.slice k := by
  simp [State.setSlice, State.slice, Tab.get_set_other _ _ _ _ _ hk]
@[simp] theorem setZone_cox (z : Nat) (x : Zone) (k : Thread) : (s.setZone z x).cox k = s.cox k := rfl
@[simp] theorem setZone_acc (z : Nat) (x : Zone) (k : Nat) : (s.setZone z x).acc k = s.acc k := rfl
@[simp] theorem setZone_vec (z : Nat) (x : Zone) (k : Nat) : (s.setZone z x).vec k = s.vec k := rfl
@[simp] theorem setZone_ctx (z : Nat) (x : Zone) (k : Nat) : (s.setZone z x).ctx k = s.ctx k := rfl
@[simp] theorem setZone_svc (z : Nat) (x : Zone) (k : Nat) : (s.setZone z x).svc k = s.svc k := rfl
@[simp] theorem setZone_core (z : Nat) (x : Zone) (k : Nat) : (s.setZone z x).core k = s.core k := rfl
@[simp] theorem setZone_crew (z : Nat) (x : Zone) (k : Nat) : (s.setZone z x).crew k = s.crew k := rfl
@[simp] theorem setZone_part (z : Nat) (x : Zone) (k : Nat) : (s.setZone z x).part k = s.part k := rfl
@[simp] theorem setZone_die (z : Nat) (x : Zone) (k : Nat) : (s.setZone z x).die k = s.die k := rfl
@[simp] theorem setZone_slice (z : Nat) (x : Zone) (k : Nat) : (s.setZone z x).slice k = s.slice k := rfl
@[simp] theorem setZone_zone (z : Nat) (x : Zone) : (s.setZone z x).zone z = x := by simp [State.setZone, State.zone]
theorem setZone_zone_other (z : Nat) (x : Zone) (k : Nat) (hk : k ≠ z) : (s.setZone z x).zone k = s.zone k := by
  simp [State.setZone, State.zone, Tab.get_set_other _ _ _ _ _ hk]

/-! ## Fields outside the tables -/

@[simp] theorem setCox_sched (t : Thread) (c : Cox) : (s.setCox t c).sched = s.sched := rfl
@[simp] theorem setCox_cur (t : Thread) (c : Cox) : (s.setCox t c).cur = s.cur := rfl
@[simp] theorem setCox_slow (t : Thread) (c : Cox) : (s.setCox t c).slow = s.slow := rfl
@[simp] theorem setCox_free (t : Thread) (c : Cox) : (s.setCox t c).free = s.free := rfl
@[simp] theorem setCox_now (t : Thread) (c : Cox) : (s.setCox t c).now = s.now := rfl
@[simp] theorem setCox_mem (t : Thread) (c : Cox) : (s.setCox t c).mem = s.mem := rfl
@[simp] theorem setCox_kept (t : Thread) (c : Cox) : (s.setCox t c).kept = s.kept := rfl
@[simp] theorem setCox_poison (t : Thread) (c : Cox) : (s.setCox t c).poison = s.poison := rfl
@[simp] theorem setCox_watches (t : Thread) (c : Cox) : (s.setCox t c).watches = s.watches := rfl
@[simp] theorem setCox_waitRecs (t : Thread) (c : Cox) : (s.setCox t c).waitRecs = s.waitRecs := rfl
@[simp] theorem setCox_clQueue (t : Thread) (c : Cox) : (s.setCox t c).clQueue = s.clQueue := rfl
@[simp] theorem setCox_reserved (t : Thread) (c : Cox) : (s.setCox t c).reserved = s.reserved := rfl
@[simp] theorem setCox_hams (t : Thread) (c : Cox) : (s.setCox t c).hams = s.hams := rfl
@[simp] theorem setCox_hamsAt (t : Thread) (c : Cox) : (s.setCox t c).hamsAt = s.hamsAt := rfl
@[simp] theorem setCox_hamsWas (t : Thread) (c : Cox) : (s.setCox t c).hamsWas = s.hamsWas := rfl
@[simp] theorem setCox_hagt (t : Thread) (c : Cox) : (s.setCox t c).hagt = s.hagt := rfl
@[simp] theorem setCox_linkUp (t : Thread) (c : Cox) : (s.setCox t c).linkUp = s.linkUp := rfl
@[simp] theorem setCox_fotb (t : Thread) (c : Cox) : (s.setCox t c).fotb = s.fotb := rfl
@[simp] theorem setCox_evl0 (t : Thread) (c : Cox) : (s.setCox t c).evl0 = s.evl0 := rfl
@[simp] theorem setCox_evl1 (t : Thread) (c : Cox) : (s.setCox t c).evl1 = s.evl1 := rfl
@[simp] theorem setCox_fdst (t : Thread) (c : Cox) : (s.setCox t c).fdst = s.fdst := rfl
@[simp] theorem setCox_dwin (t : Thread) (c : Cox) : (s.setCox t c).dwin = s.dwin := rfl
@[simp] theorem setCox_hostReqs (t : Thread) (c : Cox) : (s.setCox t c).hostReqs = s.hostReqs := rfl
@[simp] theorem setCox_nextReq (t : Thread) (c : Cox) : (s.setCox t c).nextReq = s.nextReq := rfl
@[simp] theorem setCox_refusedWalks (t : Thread) (c : Cox) : (s.setCox t c).refusedWalks = s.refusedWalks := rfl
@[simp] theorem setCox_corrected (t : Thread) (c : Cox) : (s.setCox t c).corrected = s.corrected := rfl
@[simp] theorem setCox_corrAt (t : Thread) (c : Cox) : (s.setCox t c).corrAt = s.corrAt := rfl
@[simp] theorem setCox_remote (t : Thread) (c : Cox) : (s.setCox t c).remote = s.remote := rfl
@[simp] theorem setCox_remoteFot (t : Thread) (c : Cox) : (s.setCox t c).remoteFot = s.remoteFot := rfl
@[simp] theorem setCox_reach (t : Thread) (c : Cox) : (s.setCox t c).reach = s.reach := rfl
@[simp] theorem setCox_posted (t : Thread) (c : Cox) : (s.setCox t c).posted = s.posted := rfl
@[simp] theorem setCox_replies (t : Thread) (c : Cox) : (s.setCox t c).replies = s.replies := rfl
@[simp] theorem setCox_boot (t : Thread) (c : Cox) : (s.setCox t c).boot = s.boot := rfl
@[simp] theorem setCox_boots (t : Thread) (c : Cox) : (s.setCox t c).boots = s.boots := rfl
@[simp] theorem setAcc_sched (j : Nat) (x : Acc) : (s.setAcc j x).sched = s.sched := rfl
@[simp] theorem setAcc_cur (j : Nat) (x : Acc) : (s.setAcc j x).cur = s.cur := rfl
@[simp] theorem setAcc_slow (j : Nat) (x : Acc) : (s.setAcc j x).slow = s.slow := rfl
@[simp] theorem setAcc_free (j : Nat) (x : Acc) : (s.setAcc j x).free = s.free := rfl
@[simp] theorem setAcc_now (j : Nat) (x : Acc) : (s.setAcc j x).now = s.now := rfl
@[simp] theorem setAcc_mem (j : Nat) (x : Acc) : (s.setAcc j x).mem = s.mem := rfl
@[simp] theorem setAcc_kept (j : Nat) (x : Acc) : (s.setAcc j x).kept = s.kept := rfl
@[simp] theorem setAcc_poison (j : Nat) (x : Acc) : (s.setAcc j x).poison = s.poison := rfl
@[simp] theorem setAcc_watches (j : Nat) (x : Acc) : (s.setAcc j x).watches = s.watches := rfl
@[simp] theorem setAcc_waitRecs (j : Nat) (x : Acc) : (s.setAcc j x).waitRecs = s.waitRecs := rfl
@[simp] theorem setAcc_clQueue (j : Nat) (x : Acc) : (s.setAcc j x).clQueue = s.clQueue := rfl
@[simp] theorem setAcc_reserved (j : Nat) (x : Acc) : (s.setAcc j x).reserved = s.reserved := rfl
@[simp] theorem setAcc_hams (j : Nat) (x : Acc) : (s.setAcc j x).hams = s.hams := rfl
@[simp] theorem setAcc_hamsAt (j : Nat) (x : Acc) : (s.setAcc j x).hamsAt = s.hamsAt := rfl
@[simp] theorem setAcc_hamsWas (j : Nat) (x : Acc) : (s.setAcc j x).hamsWas = s.hamsWas := rfl
@[simp] theorem setAcc_hagt (j : Nat) (x : Acc) : (s.setAcc j x).hagt = s.hagt := rfl
@[simp] theorem setAcc_linkUp (j : Nat) (x : Acc) : (s.setAcc j x).linkUp = s.linkUp := rfl
@[simp] theorem setAcc_fotb (j : Nat) (x : Acc) : (s.setAcc j x).fotb = s.fotb := rfl
@[simp] theorem setAcc_evl0 (j : Nat) (x : Acc) : (s.setAcc j x).evl0 = s.evl0 := rfl
@[simp] theorem setAcc_evl1 (j : Nat) (x : Acc) : (s.setAcc j x).evl1 = s.evl1 := rfl
@[simp] theorem setAcc_fdst (j : Nat) (x : Acc) : (s.setAcc j x).fdst = s.fdst := rfl
@[simp] theorem setAcc_dwin (j : Nat) (x : Acc) : (s.setAcc j x).dwin = s.dwin := rfl
@[simp] theorem setAcc_hostReqs (j : Nat) (x : Acc) : (s.setAcc j x).hostReqs = s.hostReqs := rfl
@[simp] theorem setAcc_nextReq (j : Nat) (x : Acc) : (s.setAcc j x).nextReq = s.nextReq := rfl
@[simp] theorem setAcc_refusedWalks (j : Nat) (x : Acc) : (s.setAcc j x).refusedWalks = s.refusedWalks := rfl
@[simp] theorem setAcc_corrected (j : Nat) (x : Acc) : (s.setAcc j x).corrected = s.corrected := rfl
@[simp] theorem setAcc_corrAt (j : Nat) (x : Acc) : (s.setAcc j x).corrAt = s.corrAt := rfl
@[simp] theorem setAcc_remote (j : Nat) (x : Acc) : (s.setAcc j x).remote = s.remote := rfl
@[simp] theorem setAcc_remoteFot (j : Nat) (x : Acc) : (s.setAcc j x).remoteFot = s.remoteFot := rfl
@[simp] theorem setAcc_reach (j : Nat) (x : Acc) : (s.setAcc j x).reach = s.reach := rfl
@[simp] theorem setAcc_posted (j : Nat) (x : Acc) : (s.setAcc j x).posted = s.posted := rfl
@[simp] theorem setAcc_replies (j : Nat) (x : Acc) : (s.setAcc j x).replies = s.replies := rfl
@[simp] theorem setAcc_boot (j : Nat) (x : Acc) : (s.setAcc j x).boot = s.boot := rfl
@[simp] theorem setAcc_boots (j : Nat) (x : Acc) : (s.setAcc j x).boots = s.boots := rfl
@[simp] theorem setVec_sched (j : Nat) (x : Vec) : (s.setVec j x).sched = s.sched := rfl
@[simp] theorem setVec_cur (j : Nat) (x : Vec) : (s.setVec j x).cur = s.cur := rfl
@[simp] theorem setVec_slow (j : Nat) (x : Vec) : (s.setVec j x).slow = s.slow := rfl
@[simp] theorem setVec_free (j : Nat) (x : Vec) : (s.setVec j x).free = s.free := rfl
@[simp] theorem setVec_now (j : Nat) (x : Vec) : (s.setVec j x).now = s.now := rfl
@[simp] theorem setVec_mem (j : Nat) (x : Vec) : (s.setVec j x).mem = s.mem := rfl
@[simp] theorem setVec_kept (j : Nat) (x : Vec) : (s.setVec j x).kept = s.kept := rfl
@[simp] theorem setVec_poison (j : Nat) (x : Vec) : (s.setVec j x).poison = s.poison := rfl
@[simp] theorem setVec_watches (j : Nat) (x : Vec) : (s.setVec j x).watches = s.watches := rfl
@[simp] theorem setVec_waitRecs (j : Nat) (x : Vec) : (s.setVec j x).waitRecs = s.waitRecs := rfl
@[simp] theorem setVec_clQueue (j : Nat) (x : Vec) : (s.setVec j x).clQueue = s.clQueue := rfl
@[simp] theorem setVec_reserved (j : Nat) (x : Vec) : (s.setVec j x).reserved = s.reserved := rfl
@[simp] theorem setVec_hams (j : Nat) (x : Vec) : (s.setVec j x).hams = s.hams := rfl
@[simp] theorem setVec_hamsAt (j : Nat) (x : Vec) : (s.setVec j x).hamsAt = s.hamsAt := rfl
@[simp] theorem setVec_hamsWas (j : Nat) (x : Vec) : (s.setVec j x).hamsWas = s.hamsWas := rfl
@[simp] theorem setVec_hagt (j : Nat) (x : Vec) : (s.setVec j x).hagt = s.hagt := rfl
@[simp] theorem setVec_linkUp (j : Nat) (x : Vec) : (s.setVec j x).linkUp = s.linkUp := rfl
@[simp] theorem setVec_fotb (j : Nat) (x : Vec) : (s.setVec j x).fotb = s.fotb := rfl
@[simp] theorem setVec_evl0 (j : Nat) (x : Vec) : (s.setVec j x).evl0 = s.evl0 := rfl
@[simp] theorem setVec_evl1 (j : Nat) (x : Vec) : (s.setVec j x).evl1 = s.evl1 := rfl
@[simp] theorem setVec_fdst (j : Nat) (x : Vec) : (s.setVec j x).fdst = s.fdst := rfl
@[simp] theorem setVec_dwin (j : Nat) (x : Vec) : (s.setVec j x).dwin = s.dwin := rfl
@[simp] theorem setVec_hostReqs (j : Nat) (x : Vec) : (s.setVec j x).hostReqs = s.hostReqs := rfl
@[simp] theorem setVec_nextReq (j : Nat) (x : Vec) : (s.setVec j x).nextReq = s.nextReq := rfl
@[simp] theorem setVec_refusedWalks (j : Nat) (x : Vec) : (s.setVec j x).refusedWalks = s.refusedWalks := rfl
@[simp] theorem setVec_corrected (j : Nat) (x : Vec) : (s.setVec j x).corrected = s.corrected := rfl
@[simp] theorem setVec_corrAt (j : Nat) (x : Vec) : (s.setVec j x).corrAt = s.corrAt := rfl
@[simp] theorem setVec_remote (j : Nat) (x : Vec) : (s.setVec j x).remote = s.remote := rfl
@[simp] theorem setVec_remoteFot (j : Nat) (x : Vec) : (s.setVec j x).remoteFot = s.remoteFot := rfl
@[simp] theorem setVec_reach (j : Nat) (x : Vec) : (s.setVec j x).reach = s.reach := rfl
@[simp] theorem setVec_posted (j : Nat) (x : Vec) : (s.setVec j x).posted = s.posted := rfl
@[simp] theorem setVec_replies (j : Nat) (x : Vec) : (s.setVec j x).replies = s.replies := rfl
@[simp] theorem setVec_boot (j : Nat) (x : Vec) : (s.setVec j x).boot = s.boot := rfl
@[simp] theorem setVec_boots (j : Nat) (x : Vec) : (s.setVec j x).boots = s.boots := rfl
@[simp] theorem setCtx_sched (h : Nat) (x : Ctx) : (s.setCtx h x).sched = s.sched := rfl
@[simp] theorem setCtx_cur (h : Nat) (x : Ctx) : (s.setCtx h x).cur = s.cur := rfl
@[simp] theorem setCtx_slow (h : Nat) (x : Ctx) : (s.setCtx h x).slow = s.slow := rfl
@[simp] theorem setCtx_free (h : Nat) (x : Ctx) : (s.setCtx h x).free = s.free := rfl
@[simp] theorem setCtx_now (h : Nat) (x : Ctx) : (s.setCtx h x).now = s.now := rfl
@[simp] theorem setCtx_mem (h : Nat) (x : Ctx) : (s.setCtx h x).mem = s.mem := rfl
@[simp] theorem setCtx_kept (h : Nat) (x : Ctx) : (s.setCtx h x).kept = s.kept := rfl
@[simp] theorem setCtx_poison (h : Nat) (x : Ctx) : (s.setCtx h x).poison = s.poison := rfl
@[simp] theorem setCtx_watches (h : Nat) (x : Ctx) : (s.setCtx h x).watches = s.watches := rfl
@[simp] theorem setCtx_waitRecs (h : Nat) (x : Ctx) : (s.setCtx h x).waitRecs = s.waitRecs := rfl
@[simp] theorem setCtx_clQueue (h : Nat) (x : Ctx) : (s.setCtx h x).clQueue = s.clQueue := rfl
@[simp] theorem setCtx_reserved (h : Nat) (x : Ctx) : (s.setCtx h x).reserved = s.reserved := rfl
@[simp] theorem setCtx_hams (h : Nat) (x : Ctx) : (s.setCtx h x).hams = s.hams := rfl
@[simp] theorem setCtx_hamsAt (h : Nat) (x : Ctx) : (s.setCtx h x).hamsAt = s.hamsAt := rfl
@[simp] theorem setCtx_hamsWas (h : Nat) (x : Ctx) : (s.setCtx h x).hamsWas = s.hamsWas := rfl
@[simp] theorem setCtx_hagt (h : Nat) (x : Ctx) : (s.setCtx h x).hagt = s.hagt := rfl
@[simp] theorem setCtx_linkUp (h : Nat) (x : Ctx) : (s.setCtx h x).linkUp = s.linkUp := rfl
@[simp] theorem setCtx_fotb (h : Nat) (x : Ctx) : (s.setCtx h x).fotb = s.fotb := rfl
@[simp] theorem setCtx_evl0 (h : Nat) (x : Ctx) : (s.setCtx h x).evl0 = s.evl0 := rfl
@[simp] theorem setCtx_evl1 (h : Nat) (x : Ctx) : (s.setCtx h x).evl1 = s.evl1 := rfl
@[simp] theorem setCtx_fdst (h : Nat) (x : Ctx) : (s.setCtx h x).fdst = s.fdst := rfl
@[simp] theorem setCtx_dwin (h : Nat) (x : Ctx) : (s.setCtx h x).dwin = s.dwin := rfl
@[simp] theorem setCtx_hostReqs (h : Nat) (x : Ctx) : (s.setCtx h x).hostReqs = s.hostReqs := rfl
@[simp] theorem setCtx_nextReq (h : Nat) (x : Ctx) : (s.setCtx h x).nextReq = s.nextReq := rfl
@[simp] theorem setCtx_refusedWalks (h : Nat) (x : Ctx) : (s.setCtx h x).refusedWalks = s.refusedWalks := rfl
@[simp] theorem setCtx_corrected (h : Nat) (x : Ctx) : (s.setCtx h x).corrected = s.corrected := rfl
@[simp] theorem setCtx_corrAt (h : Nat) (x : Ctx) : (s.setCtx h x).corrAt = s.corrAt := rfl
@[simp] theorem setCtx_remote (h : Nat) (x : Ctx) : (s.setCtx h x).remote = s.remote := rfl
@[simp] theorem setCtx_remoteFot (h : Nat) (x : Ctx) : (s.setCtx h x).remoteFot = s.remoteFot := rfl
@[simp] theorem setCtx_reach (h : Nat) (x : Ctx) : (s.setCtx h x).reach = s.reach := rfl
@[simp] theorem setCtx_posted (h : Nat) (x : Ctx) : (s.setCtx h x).posted = s.posted := rfl
@[simp] theorem setCtx_replies (h : Nat) (x : Ctx) : (s.setCtx h x).replies = s.replies := rfl
@[simp] theorem setCtx_boot (h : Nat) (x : Ctx) : (s.setCtx h x).boot = s.boot := rfl
@[simp] theorem setCtx_boots (h : Nat) (x : Ctx) : (s.setCtx h x).boots = s.boots := rfl
@[simp] theorem setSvc_sched (n : Nat) (x : Service) : (s.setSvc n x).sched = s.sched := rfl
@[simp] theorem setSvc_cur (n : Nat) (x : Service) : (s.setSvc n x).cur = s.cur := rfl
@[simp] theorem setSvc_slow (n : Nat) (x : Service) : (s.setSvc n x).slow = s.slow := rfl
@[simp] theorem setSvc_free (n : Nat) (x : Service) : (s.setSvc n x).free = s.free := rfl
@[simp] theorem setSvc_now (n : Nat) (x : Service) : (s.setSvc n x).now = s.now := rfl
@[simp] theorem setSvc_mem (n : Nat) (x : Service) : (s.setSvc n x).mem = s.mem := rfl
@[simp] theorem setSvc_kept (n : Nat) (x : Service) : (s.setSvc n x).kept = s.kept := rfl
@[simp] theorem setSvc_poison (n : Nat) (x : Service) : (s.setSvc n x).poison = s.poison := rfl
@[simp] theorem setSvc_watches (n : Nat) (x : Service) : (s.setSvc n x).watches = s.watches := rfl
@[simp] theorem setSvc_waitRecs (n : Nat) (x : Service) : (s.setSvc n x).waitRecs = s.waitRecs := rfl
@[simp] theorem setSvc_clQueue (n : Nat) (x : Service) : (s.setSvc n x).clQueue = s.clQueue := rfl
@[simp] theorem setSvc_reserved (n : Nat) (x : Service) : (s.setSvc n x).reserved = s.reserved := rfl
@[simp] theorem setSvc_hams (n : Nat) (x : Service) : (s.setSvc n x).hams = s.hams := rfl
@[simp] theorem setSvc_hamsAt (n : Nat) (x : Service) : (s.setSvc n x).hamsAt = s.hamsAt := rfl
@[simp] theorem setSvc_hamsWas (n : Nat) (x : Service) : (s.setSvc n x).hamsWas = s.hamsWas := rfl
@[simp] theorem setSvc_hagt (n : Nat) (x : Service) : (s.setSvc n x).hagt = s.hagt := rfl
@[simp] theorem setSvc_linkUp (n : Nat) (x : Service) : (s.setSvc n x).linkUp = s.linkUp := rfl
@[simp] theorem setSvc_fotb (n : Nat) (x : Service) : (s.setSvc n x).fotb = s.fotb := rfl
@[simp] theorem setSvc_evl0 (n : Nat) (x : Service) : (s.setSvc n x).evl0 = s.evl0 := rfl
@[simp] theorem setSvc_evl1 (n : Nat) (x : Service) : (s.setSvc n x).evl1 = s.evl1 := rfl
@[simp] theorem setSvc_fdst (n : Nat) (x : Service) : (s.setSvc n x).fdst = s.fdst := rfl
@[simp] theorem setSvc_dwin (n : Nat) (x : Service) : (s.setSvc n x).dwin = s.dwin := rfl
@[simp] theorem setSvc_hostReqs (n : Nat) (x : Service) : (s.setSvc n x).hostReqs = s.hostReqs := rfl
@[simp] theorem setSvc_nextReq (n : Nat) (x : Service) : (s.setSvc n x).nextReq = s.nextReq := rfl
@[simp] theorem setSvc_refusedWalks (n : Nat) (x : Service) : (s.setSvc n x).refusedWalks = s.refusedWalks := rfl
@[simp] theorem setSvc_corrected (n : Nat) (x : Service) : (s.setSvc n x).corrected = s.corrected := rfl
@[simp] theorem setSvc_corrAt (n : Nat) (x : Service) : (s.setSvc n x).corrAt = s.corrAt := rfl
@[simp] theorem setSvc_remote (n : Nat) (x : Service) : (s.setSvc n x).remote = s.remote := rfl
@[simp] theorem setSvc_remoteFot (n : Nat) (x : Service) : (s.setSvc n x).remoteFot = s.remoteFot := rfl
@[simp] theorem setSvc_reach (n : Nat) (x : Service) : (s.setSvc n x).reach = s.reach := rfl
@[simp] theorem setSvc_posted (n : Nat) (x : Service) : (s.setSvc n x).posted = s.posted := rfl
@[simp] theorem setSvc_replies (n : Nat) (x : Service) : (s.setSvc n x).replies = s.replies := rfl
@[simp] theorem setSvc_boot (n : Nat) (x : Service) : (s.setSvc n x).boot = s.boot := rfl
@[simp] theorem setSvc_boots (n : Nat) (x : Service) : (s.setSvc n x).boots = s.boots := rfl
@[simp] theorem setCore_sched (g : Nat) (x : CoreSt) : (s.setCore g x).sched = s.sched := rfl
@[simp] theorem setCore_cur (g : Nat) (x : CoreSt) : (s.setCore g x).cur = s.cur := rfl
@[simp] theorem setCore_slow (g : Nat) (x : CoreSt) : (s.setCore g x).slow = s.slow := rfl
@[simp] theorem setCore_free (g : Nat) (x : CoreSt) : (s.setCore g x).free = s.free := rfl
@[simp] theorem setCore_now (g : Nat) (x : CoreSt) : (s.setCore g x).now = s.now := rfl
@[simp] theorem setCore_mem (g : Nat) (x : CoreSt) : (s.setCore g x).mem = s.mem := rfl
@[simp] theorem setCore_kept (g : Nat) (x : CoreSt) : (s.setCore g x).kept = s.kept := rfl
@[simp] theorem setCore_poison (g : Nat) (x : CoreSt) : (s.setCore g x).poison = s.poison := rfl
@[simp] theorem setCore_watches (g : Nat) (x : CoreSt) : (s.setCore g x).watches = s.watches := rfl
@[simp] theorem setCore_waitRecs (g : Nat) (x : CoreSt) : (s.setCore g x).waitRecs = s.waitRecs := rfl
@[simp] theorem setCore_clQueue (g : Nat) (x : CoreSt) : (s.setCore g x).clQueue = s.clQueue := rfl
@[simp] theorem setCore_reserved (g : Nat) (x : CoreSt) : (s.setCore g x).reserved = s.reserved := rfl
@[simp] theorem setCore_hams (g : Nat) (x : CoreSt) : (s.setCore g x).hams = s.hams := rfl
@[simp] theorem setCore_hamsAt (g : Nat) (x : CoreSt) : (s.setCore g x).hamsAt = s.hamsAt := rfl
@[simp] theorem setCore_hamsWas (g : Nat) (x : CoreSt) : (s.setCore g x).hamsWas = s.hamsWas := rfl
@[simp] theorem setCore_hagt (g : Nat) (x : CoreSt) : (s.setCore g x).hagt = s.hagt := rfl
@[simp] theorem setCore_linkUp (g : Nat) (x : CoreSt) : (s.setCore g x).linkUp = s.linkUp := rfl
@[simp] theorem setCore_fotb (g : Nat) (x : CoreSt) : (s.setCore g x).fotb = s.fotb := rfl
@[simp] theorem setCore_evl0 (g : Nat) (x : CoreSt) : (s.setCore g x).evl0 = s.evl0 := rfl
@[simp] theorem setCore_evl1 (g : Nat) (x : CoreSt) : (s.setCore g x).evl1 = s.evl1 := rfl
@[simp] theorem setCore_fdst (g : Nat) (x : CoreSt) : (s.setCore g x).fdst = s.fdst := rfl
@[simp] theorem setCore_dwin (g : Nat) (x : CoreSt) : (s.setCore g x).dwin = s.dwin := rfl
@[simp] theorem setCore_hostReqs (g : Nat) (x : CoreSt) : (s.setCore g x).hostReqs = s.hostReqs := rfl
@[simp] theorem setCore_nextReq (g : Nat) (x : CoreSt) : (s.setCore g x).nextReq = s.nextReq := rfl
@[simp] theorem setCore_refusedWalks (g : Nat) (x : CoreSt) : (s.setCore g x).refusedWalks = s.refusedWalks := rfl
@[simp] theorem setCore_corrected (g : Nat) (x : CoreSt) : (s.setCore g x).corrected = s.corrected := rfl
@[simp] theorem setCore_corrAt (g : Nat) (x : CoreSt) : (s.setCore g x).corrAt = s.corrAt := rfl
@[simp] theorem setCore_remote (g : Nat) (x : CoreSt) : (s.setCore g x).remote = s.remote := rfl
@[simp] theorem setCore_remoteFot (g : Nat) (x : CoreSt) : (s.setCore g x).remoteFot = s.remoteFot := rfl
@[simp] theorem setCore_reach (g : Nat) (x : CoreSt) : (s.setCore g x).reach = s.reach := rfl
@[simp] theorem setCore_posted (g : Nat) (x : CoreSt) : (s.setCore g x).posted = s.posted := rfl
@[simp] theorem setCore_replies (g : Nat) (x : CoreSt) : (s.setCore g x).replies = s.replies := rfl
@[simp] theorem setCore_boot (g : Nat) (x : CoreSt) : (s.setCore g x).boot = s.boot := rfl
@[simp] theorem setCore_boots (g : Nat) (x : CoreSt) : (s.setCore g x).boots = s.boots := rfl
@[simp] theorem setCrew_sched (c : Nat) (x : Crew) : (s.setCrew c x).sched = s.sched := rfl
@[simp] theorem setCrew_cur (c : Nat) (x : Crew) : (s.setCrew c x).cur = s.cur := rfl
@[simp] theorem setCrew_slow (c : Nat) (x : Crew) : (s.setCrew c x).slow = s.slow := rfl
@[simp] theorem setCrew_free (c : Nat) (x : Crew) : (s.setCrew c x).free = s.free := rfl
@[simp] theorem setCrew_now (c : Nat) (x : Crew) : (s.setCrew c x).now = s.now := rfl
@[simp] theorem setCrew_mem (c : Nat) (x : Crew) : (s.setCrew c x).mem = s.mem := rfl
@[simp] theorem setCrew_kept (c : Nat) (x : Crew) : (s.setCrew c x).kept = s.kept := rfl
@[simp] theorem setCrew_poison (c : Nat) (x : Crew) : (s.setCrew c x).poison = s.poison := rfl
@[simp] theorem setCrew_watches (c : Nat) (x : Crew) : (s.setCrew c x).watches = s.watches := rfl
@[simp] theorem setCrew_waitRecs (c : Nat) (x : Crew) : (s.setCrew c x).waitRecs = s.waitRecs := rfl
@[simp] theorem setCrew_clQueue (c : Nat) (x : Crew) : (s.setCrew c x).clQueue = s.clQueue := rfl
@[simp] theorem setCrew_reserved (c : Nat) (x : Crew) : (s.setCrew c x).reserved = s.reserved := rfl
@[simp] theorem setCrew_hams (c : Nat) (x : Crew) : (s.setCrew c x).hams = s.hams := rfl
@[simp] theorem setCrew_hamsAt (c : Nat) (x : Crew) : (s.setCrew c x).hamsAt = s.hamsAt := rfl
@[simp] theorem setCrew_hamsWas (c : Nat) (x : Crew) : (s.setCrew c x).hamsWas = s.hamsWas := rfl
@[simp] theorem setCrew_hagt (c : Nat) (x : Crew) : (s.setCrew c x).hagt = s.hagt := rfl
@[simp] theorem setCrew_linkUp (c : Nat) (x : Crew) : (s.setCrew c x).linkUp = s.linkUp := rfl
@[simp] theorem setCrew_fotb (c : Nat) (x : Crew) : (s.setCrew c x).fotb = s.fotb := rfl
@[simp] theorem setCrew_evl0 (c : Nat) (x : Crew) : (s.setCrew c x).evl0 = s.evl0 := rfl
@[simp] theorem setCrew_evl1 (c : Nat) (x : Crew) : (s.setCrew c x).evl1 = s.evl1 := rfl
@[simp] theorem setCrew_fdst (c : Nat) (x : Crew) : (s.setCrew c x).fdst = s.fdst := rfl
@[simp] theorem setCrew_dwin (c : Nat) (x : Crew) : (s.setCrew c x).dwin = s.dwin := rfl
@[simp] theorem setCrew_hostReqs (c : Nat) (x : Crew) : (s.setCrew c x).hostReqs = s.hostReqs := rfl
@[simp] theorem setCrew_nextReq (c : Nat) (x : Crew) : (s.setCrew c x).nextReq = s.nextReq := rfl
@[simp] theorem setCrew_refusedWalks (c : Nat) (x : Crew) : (s.setCrew c x).refusedWalks = s.refusedWalks := rfl
@[simp] theorem setCrew_corrected (c : Nat) (x : Crew) : (s.setCrew c x).corrected = s.corrected := rfl
@[simp] theorem setCrew_corrAt (c : Nat) (x : Crew) : (s.setCrew c x).corrAt = s.corrAt := rfl
@[simp] theorem setCrew_remote (c : Nat) (x : Crew) : (s.setCrew c x).remote = s.remote := rfl
@[simp] theorem setCrew_remoteFot (c : Nat) (x : Crew) : (s.setCrew c x).remoteFot = s.remoteFot := rfl
@[simp] theorem setCrew_reach (c : Nat) (x : Crew) : (s.setCrew c x).reach = s.reach := rfl
@[simp] theorem setCrew_posted (c : Nat) (x : Crew) : (s.setCrew c x).posted = s.posted := rfl
@[simp] theorem setCrew_replies (c : Nat) (x : Crew) : (s.setCrew c x).replies = s.replies := rfl
@[simp] theorem setCrew_boot (c : Nat) (x : Crew) : (s.setCrew c x).boot = s.boot := rfl
@[simp] theorem setCrew_boots (c : Nat) (x : Crew) : (s.setCrew c x).boots = s.boots := rfl
@[simp] theorem setPart_sched (p : Nat) (x : Part) : (s.setPart p x).sched = s.sched := rfl
@[simp] theorem setPart_cur (p : Nat) (x : Part) : (s.setPart p x).cur = s.cur := rfl
@[simp] theorem setPart_slow (p : Nat) (x : Part) : (s.setPart p x).slow = s.slow := rfl
@[simp] theorem setPart_free (p : Nat) (x : Part) : (s.setPart p x).free = s.free := rfl
@[simp] theorem setPart_now (p : Nat) (x : Part) : (s.setPart p x).now = s.now := rfl
@[simp] theorem setPart_mem (p : Nat) (x : Part) : (s.setPart p x).mem = s.mem := rfl
@[simp] theorem setPart_kept (p : Nat) (x : Part) : (s.setPart p x).kept = s.kept := rfl
@[simp] theorem setPart_poison (p : Nat) (x : Part) : (s.setPart p x).poison = s.poison := rfl
@[simp] theorem setPart_watches (p : Nat) (x : Part) : (s.setPart p x).watches = s.watches := rfl
@[simp] theorem setPart_waitRecs (p : Nat) (x : Part) : (s.setPart p x).waitRecs = s.waitRecs := rfl
@[simp] theorem setPart_clQueue (p : Nat) (x : Part) : (s.setPart p x).clQueue = s.clQueue := rfl
@[simp] theorem setPart_reserved (p : Nat) (x : Part) : (s.setPart p x).reserved = s.reserved := rfl
@[simp] theorem setPart_hams (p : Nat) (x : Part) : (s.setPart p x).hams = s.hams := rfl
@[simp] theorem setPart_hamsAt (p : Nat) (x : Part) : (s.setPart p x).hamsAt = s.hamsAt := rfl
@[simp] theorem setPart_hamsWas (p : Nat) (x : Part) : (s.setPart p x).hamsWas = s.hamsWas := rfl
@[simp] theorem setPart_hagt (p : Nat) (x : Part) : (s.setPart p x).hagt = s.hagt := rfl
@[simp] theorem setPart_linkUp (p : Nat) (x : Part) : (s.setPart p x).linkUp = s.linkUp := rfl
@[simp] theorem setPart_fotb (p : Nat) (x : Part) : (s.setPart p x).fotb = s.fotb := rfl
@[simp] theorem setPart_evl0 (p : Nat) (x : Part) : (s.setPart p x).evl0 = s.evl0 := rfl
@[simp] theorem setPart_evl1 (p : Nat) (x : Part) : (s.setPart p x).evl1 = s.evl1 := rfl
@[simp] theorem setPart_fdst (p : Nat) (x : Part) : (s.setPart p x).fdst = s.fdst := rfl
@[simp] theorem setPart_dwin (p : Nat) (x : Part) : (s.setPart p x).dwin = s.dwin := rfl
@[simp] theorem setPart_hostReqs (p : Nat) (x : Part) : (s.setPart p x).hostReqs = s.hostReqs := rfl
@[simp] theorem setPart_nextReq (p : Nat) (x : Part) : (s.setPart p x).nextReq = s.nextReq := rfl
@[simp] theorem setPart_refusedWalks (p : Nat) (x : Part) : (s.setPart p x).refusedWalks = s.refusedWalks := rfl
@[simp] theorem setPart_corrected (p : Nat) (x : Part) : (s.setPart p x).corrected = s.corrected := rfl
@[simp] theorem setPart_corrAt (p : Nat) (x : Part) : (s.setPart p x).corrAt = s.corrAt := rfl
@[simp] theorem setPart_remote (p : Nat) (x : Part) : (s.setPart p x).remote = s.remote := rfl
@[simp] theorem setPart_remoteFot (p : Nat) (x : Part) : (s.setPart p x).remoteFot = s.remoteFot := rfl
@[simp] theorem setPart_reach (p : Nat) (x : Part) : (s.setPart p x).reach = s.reach := rfl
@[simp] theorem setPart_posted (p : Nat) (x : Part) : (s.setPart p x).posted = s.posted := rfl
@[simp] theorem setPart_replies (p : Nat) (x : Part) : (s.setPart p x).replies = s.replies := rfl
@[simp] theorem setPart_boot (p : Nat) (x : Part) : (s.setPart p x).boot = s.boot := rfl
@[simp] theorem setPart_boots (p : Nat) (x : Part) : (s.setPart p x).boots = s.boots := rfl
@[simp] theorem setDie_sched (d : Nat) (x : Die) : (s.setDie d x).sched = s.sched := rfl
@[simp] theorem setDie_cur (d : Nat) (x : Die) : (s.setDie d x).cur = s.cur := rfl
@[simp] theorem setDie_slow (d : Nat) (x : Die) : (s.setDie d x).slow = s.slow := rfl
@[simp] theorem setDie_free (d : Nat) (x : Die) : (s.setDie d x).free = s.free := rfl
@[simp] theorem setDie_now (d : Nat) (x : Die) : (s.setDie d x).now = s.now := rfl
@[simp] theorem setDie_mem (d : Nat) (x : Die) : (s.setDie d x).mem = s.mem := rfl
@[simp] theorem setDie_kept (d : Nat) (x : Die) : (s.setDie d x).kept = s.kept := rfl
@[simp] theorem setDie_poison (d : Nat) (x : Die) : (s.setDie d x).poison = s.poison := rfl
@[simp] theorem setDie_watches (d : Nat) (x : Die) : (s.setDie d x).watches = s.watches := rfl
@[simp] theorem setDie_waitRecs (d : Nat) (x : Die) : (s.setDie d x).waitRecs = s.waitRecs := rfl
@[simp] theorem setDie_clQueue (d : Nat) (x : Die) : (s.setDie d x).clQueue = s.clQueue := rfl
@[simp] theorem setDie_reserved (d : Nat) (x : Die) : (s.setDie d x).reserved = s.reserved := rfl
@[simp] theorem setDie_hams (d : Nat) (x : Die) : (s.setDie d x).hams = s.hams := rfl
@[simp] theorem setDie_hamsAt (d : Nat) (x : Die) : (s.setDie d x).hamsAt = s.hamsAt := rfl
@[simp] theorem setDie_hamsWas (d : Nat) (x : Die) : (s.setDie d x).hamsWas = s.hamsWas := rfl
@[simp] theorem setDie_hagt (d : Nat) (x : Die) : (s.setDie d x).hagt = s.hagt := rfl
@[simp] theorem setDie_linkUp (d : Nat) (x : Die) : (s.setDie d x).linkUp = s.linkUp := rfl
@[simp] theorem setDie_fotb (d : Nat) (x : Die) : (s.setDie d x).fotb = s.fotb := rfl
@[simp] theorem setDie_evl0 (d : Nat) (x : Die) : (s.setDie d x).evl0 = s.evl0 := rfl
@[simp] theorem setDie_evl1 (d : Nat) (x : Die) : (s.setDie d x).evl1 = s.evl1 := rfl
@[simp] theorem setDie_fdst (d : Nat) (x : Die) : (s.setDie d x).fdst = s.fdst := rfl
@[simp] theorem setDie_dwin (d : Nat) (x : Die) : (s.setDie d x).dwin = s.dwin := rfl
@[simp] theorem setDie_hostReqs (d : Nat) (x : Die) : (s.setDie d x).hostReqs = s.hostReqs := rfl
@[simp] theorem setDie_nextReq (d : Nat) (x : Die) : (s.setDie d x).nextReq = s.nextReq := rfl
@[simp] theorem setDie_refusedWalks (d : Nat) (x : Die) : (s.setDie d x).refusedWalks = s.refusedWalks := rfl
@[simp] theorem setDie_corrected (d : Nat) (x : Die) : (s.setDie d x).corrected = s.corrected := rfl
@[simp] theorem setDie_corrAt (d : Nat) (x : Die) : (s.setDie d x).corrAt = s.corrAt := rfl
@[simp] theorem setDie_remote (d : Nat) (x : Die) : (s.setDie d x).remote = s.remote := rfl
@[simp] theorem setDie_remoteFot (d : Nat) (x : Die) : (s.setDie d x).remoteFot = s.remoteFot := rfl
@[simp] theorem setDie_reach (d : Nat) (x : Die) : (s.setDie d x).reach = s.reach := rfl
@[simp] theorem setDie_posted (d : Nat) (x : Die) : (s.setDie d x).posted = s.posted := rfl
@[simp] theorem setDie_replies (d : Nat) (x : Die) : (s.setDie d x).replies = s.replies := rfl
@[simp] theorem setDie_boot (d : Nat) (x : Die) : (s.setDie d x).boot = s.boot := rfl
@[simp] theorem setDie_boots (d : Nat) (x : Die) : (s.setDie d x).boots = s.boots := rfl
@[simp] theorem setSlice_sched (i : Nat) (x : Slice) : (s.setSlice i x).sched = s.sched := rfl
@[simp] theorem setSlice_cur (i : Nat) (x : Slice) : (s.setSlice i x).cur = s.cur := rfl
@[simp] theorem setSlice_slow (i : Nat) (x : Slice) : (s.setSlice i x).slow = s.slow := rfl
@[simp] theorem setSlice_free (i : Nat) (x : Slice) : (s.setSlice i x).free = s.free := rfl
@[simp] theorem setSlice_now (i : Nat) (x : Slice) : (s.setSlice i x).now = s.now := rfl
@[simp] theorem setSlice_mem (i : Nat) (x : Slice) : (s.setSlice i x).mem = s.mem := rfl
@[simp] theorem setSlice_kept (i : Nat) (x : Slice) : (s.setSlice i x).kept = s.kept := rfl
@[simp] theorem setSlice_poison (i : Nat) (x : Slice) : (s.setSlice i x).poison = s.poison := rfl
@[simp] theorem setSlice_watches (i : Nat) (x : Slice) : (s.setSlice i x).watches = s.watches := rfl
@[simp] theorem setSlice_waitRecs (i : Nat) (x : Slice) : (s.setSlice i x).waitRecs = s.waitRecs := rfl
@[simp] theorem setSlice_clQueue (i : Nat) (x : Slice) : (s.setSlice i x).clQueue = s.clQueue := rfl
@[simp] theorem setSlice_reserved (i : Nat) (x : Slice) : (s.setSlice i x).reserved = s.reserved := rfl
@[simp] theorem setSlice_hams (i : Nat) (x : Slice) : (s.setSlice i x).hams = s.hams := rfl
@[simp] theorem setSlice_hamsAt (i : Nat) (x : Slice) : (s.setSlice i x).hamsAt = s.hamsAt := rfl
@[simp] theorem setSlice_hamsWas (i : Nat) (x : Slice) : (s.setSlice i x).hamsWas = s.hamsWas := rfl
@[simp] theorem setSlice_hagt (i : Nat) (x : Slice) : (s.setSlice i x).hagt = s.hagt := rfl
@[simp] theorem setSlice_linkUp (i : Nat) (x : Slice) : (s.setSlice i x).linkUp = s.linkUp := rfl
@[simp] theorem setSlice_fotb (i : Nat) (x : Slice) : (s.setSlice i x).fotb = s.fotb := rfl
@[simp] theorem setSlice_evl0 (i : Nat) (x : Slice) : (s.setSlice i x).evl0 = s.evl0 := rfl
@[simp] theorem setSlice_evl1 (i : Nat) (x : Slice) : (s.setSlice i x).evl1 = s.evl1 := rfl
@[simp] theorem setSlice_fdst (i : Nat) (x : Slice) : (s.setSlice i x).fdst = s.fdst := rfl
@[simp] theorem setSlice_dwin (i : Nat) (x : Slice) : (s.setSlice i x).dwin = s.dwin := rfl
@[simp] theorem setSlice_hostReqs (i : Nat) (x : Slice) : (s.setSlice i x).hostReqs = s.hostReqs := rfl
@[simp] theorem setSlice_nextReq (i : Nat) (x : Slice) : (s.setSlice i x).nextReq = s.nextReq := rfl
@[simp] theorem setSlice_refusedWalks (i : Nat) (x : Slice) : (s.setSlice i x).refusedWalks = s.refusedWalks := rfl
@[simp] theorem setSlice_corrected (i : Nat) (x : Slice) : (s.setSlice i x).corrected = s.corrected := rfl
@[simp] theorem setSlice_corrAt (i : Nat) (x : Slice) : (s.setSlice i x).corrAt = s.corrAt := rfl
@[simp] theorem setSlice_remote (i : Nat) (x : Slice) : (s.setSlice i x).remote = s.remote := rfl
@[simp] theorem setSlice_remoteFot (i : Nat) (x : Slice) : (s.setSlice i x).remoteFot = s.remoteFot := rfl
@[simp] theorem setSlice_reach (i : Nat) (x : Slice) : (s.setSlice i x).reach = s.reach := rfl
@[simp] theorem setSlice_posted (i : Nat) (x : Slice) : (s.setSlice i x).posted = s.posted := rfl
@[simp] theorem setSlice_replies (i : Nat) (x : Slice) : (s.setSlice i x).replies = s.replies := rfl
@[simp] theorem setSlice_boot (i : Nat) (x : Slice) : (s.setSlice i x).boot = s.boot := rfl
@[simp] theorem setSlice_boots (i : Nat) (x : Slice) : (s.setSlice i x).boots = s.boots := rfl
@[simp] theorem setZone_sched (z : Nat) (x : Zone) : (s.setZone z x).sched = s.sched := rfl
@[simp] theorem setZone_cur (z : Nat) (x : Zone) : (s.setZone z x).cur = s.cur := rfl
@[simp] theorem setZone_slow (z : Nat) (x : Zone) : (s.setZone z x).slow = s.slow := rfl
@[simp] theorem setZone_free (z : Nat) (x : Zone) : (s.setZone z x).free = s.free := rfl
@[simp] theorem setZone_now (z : Nat) (x : Zone) : (s.setZone z x).now = s.now := rfl
@[simp] theorem setZone_mem (z : Nat) (x : Zone) : (s.setZone z x).mem = s.mem := rfl
@[simp] theorem setZone_kept (z : Nat) (x : Zone) : (s.setZone z x).kept = s.kept := rfl
@[simp] theorem setZone_poison (z : Nat) (x : Zone) : (s.setZone z x).poison = s.poison := rfl
@[simp] theorem setZone_watches (z : Nat) (x : Zone) : (s.setZone z x).watches = s.watches := rfl
@[simp] theorem setZone_waitRecs (z : Nat) (x : Zone) : (s.setZone z x).waitRecs = s.waitRecs := rfl
@[simp] theorem setZone_clQueue (z : Nat) (x : Zone) : (s.setZone z x).clQueue = s.clQueue := rfl
@[simp] theorem setZone_reserved (z : Nat) (x : Zone) : (s.setZone z x).reserved = s.reserved := rfl
@[simp] theorem setZone_hams (z : Nat) (x : Zone) : (s.setZone z x).hams = s.hams := rfl
@[simp] theorem setZone_hamsAt (z : Nat) (x : Zone) : (s.setZone z x).hamsAt = s.hamsAt := rfl
@[simp] theorem setZone_hamsWas (z : Nat) (x : Zone) : (s.setZone z x).hamsWas = s.hamsWas := rfl
@[simp] theorem setZone_hagt (z : Nat) (x : Zone) : (s.setZone z x).hagt = s.hagt := rfl
@[simp] theorem setZone_linkUp (z : Nat) (x : Zone) : (s.setZone z x).linkUp = s.linkUp := rfl
@[simp] theorem setZone_fotb (z : Nat) (x : Zone) : (s.setZone z x).fotb = s.fotb := rfl
@[simp] theorem setZone_evl0 (z : Nat) (x : Zone) : (s.setZone z x).evl0 = s.evl0 := rfl
@[simp] theorem setZone_evl1 (z : Nat) (x : Zone) : (s.setZone z x).evl1 = s.evl1 := rfl
@[simp] theorem setZone_fdst (z : Nat) (x : Zone) : (s.setZone z x).fdst = s.fdst := rfl
@[simp] theorem setZone_dwin (z : Nat) (x : Zone) : (s.setZone z x).dwin = s.dwin := rfl
@[simp] theorem setZone_hostReqs (z : Nat) (x : Zone) : (s.setZone z x).hostReqs = s.hostReqs := rfl
@[simp] theorem setZone_nextReq (z : Nat) (x : Zone) : (s.setZone z x).nextReq = s.nextReq := rfl
@[simp] theorem setZone_refusedWalks (z : Nat) (x : Zone) : (s.setZone z x).refusedWalks = s.refusedWalks := rfl
@[simp] theorem setZone_corrected (z : Nat) (x : Zone) : (s.setZone z x).corrected = s.corrected := rfl
@[simp] theorem setZone_corrAt (z : Nat) (x : Zone) : (s.setZone z x).corrAt = s.corrAt := rfl
@[simp] theorem setZone_remote (z : Nat) (x : Zone) : (s.setZone z x).remote = s.remote := rfl
@[simp] theorem setZone_remoteFot (z : Nat) (x : Zone) : (s.setZone z x).remoteFot = s.remoteFot := rfl
@[simp] theorem setZone_reach (z : Nat) (x : Zone) : (s.setZone z x).reach = s.reach := rfl
@[simp] theorem setZone_posted (z : Nat) (x : Zone) : (s.setZone z x).posted = s.posted := rfl
@[simp] theorem setZone_replies (z : Nat) (x : Zone) : (s.setZone z x).replies = s.replies := rfl
@[simp] theorem setZone_boot (z : Nat) (x : Zone) : (s.setZone z x).boot = s.boot := rfl
@[simp] theorem setZone_boots (z : Nat) (x : Zone) : (s.setZone z x).boots = s.boots := rfl

end Machine.State

end Sys2Proof
end

