-- ==== Sys2Proof/Laws/Memory.lean ====
section
/-! SUPPORT. Laws/Memory.lean: sparse memories: what a byte reads as after a write, and that every operation keeps the
canonical form, the moves of lines through the LLC slices and the changes of keys among them. -/

namespace Sys2Proof.Machine

variable {base : Nat → Byte}

/-! ## One byte -/

theorem memWfFrom_mono {lo lo' : Nat} {m : Memory} (h : memWfFrom base lo m = true) (hl : lo' ≤ lo) :
    memWfFrom base lo' m = true := by
  cases m with
  | nil => rfl
  | cons e r => simp only [memWfFrom, Bool.and_eq_true, decide_eq_true_eq] at h ⊢; exact ⟨⟨by omega, h.1.2⟩, h.2⟩

theorem memGet_below {lo a : Nat} {m : Memory} (h : memWfFrom base lo m = true) (ha : a < lo) : memGet base m a = base a := by
  cases m with
  | nil => rfl
  | cons e r =>
    simp only [memWfFrom, Bool.and_eq_true, decide_eq_true_eq] at h
    simp only [memGet]
    rw [if_pos (by omega)]

theorem memSet_wf {lo a : Nat} {m : Memory} (b : Byte) (h : memWfFrom base lo m = true) (hl : lo ≤ a) :
    memWfFrom base lo (memSet base m a b) = true := by
  induction m generalizing lo with
  | nil => by_cases hb : b = base a <;> simp [memSet, hb, memWfFrom, hl]
  | cons e r ih =>
    obtain ⟨k, v⟩ := e
    simp only [memWfFrom, Bool.and_eq_true, decide_eq_true_eq, bne_iff_ne, ne_eq] at h
    obtain ⟨⟨h1, h2⟩, h3⟩ := h
    simp only [memSet]
    split
    · split
      · simp [memWfFrom, h1, h2, h3]
      · simp only [memWfFrom, Bool.and_eq_true, decide_eq_true_eq, bne_iff_ne, ne_eq]
        exact ⟨⟨hl, ‹_›⟩, ⟨by omega, h2⟩, h3⟩
    · split
      · subst k
        split
        · exact memWfFrom_mono h3 (by omega)
        · simp [memWfFrom, *]
      · simp only [memWfFrom, Bool.and_eq_true, decide_eq_true_eq, bne_iff_ne, ne_eq]
        exact ⟨⟨h1, h2⟩, ih h3 (by omega)⟩

/-- A byte reads as what was written last. -/
theorem memGet_memSet {lo : Nat} {m : Memory} (a k : Nat) (b : Byte) (h : memWfFrom base lo m = true) :
    memGet base (memSet base m a b) k = if k = a then b else memGet base m k := by
  induction m generalizing lo with
  | nil =>
    simp only [memSet, memGet]
    split <;> split <;> simp_all [memGet]
  | cons e r ih =>
    obtain ⟨i, v⟩ := e
    simp only [memWfFrom, Bool.and_eq_true, decide_eq_true_eq, bne_iff_ne, ne_eq] at h
    obtain ⟨⟨h1, h2⟩, h3⟩ := h
    simp only [memSet]
    split
    · rename_i hai
      split
      · rename_i hb
        subst hb
        by_cases hk : k = a
        · subst k; simp [memGet, hai]
        · simp [hk]
      · by_cases hk : k = a
        · subst k; simp [memGet]
        · simp only [memGet, hk, if_false]
          by_cases hka : k < a
          · simp [hka, show k < i by omega]
          · simp [hka]
    · split
      · rename_i hai
        subst i
        by_cases hk : k = a
        · subst k
          split
          · rename_i hb; subst hb; simp [memGet_below h3]
          · simp [memGet]
        · simp only [hk, if_false, memGet]
          split
          · by_cases hka : k < a
            · simp [hka, memGet_below h3 (show k < a + 1 by omega)]
            · simp [hka]
          · simp only [memGet, hk, if_false]
      · simp only [memGet, ih h3]
        by_cases hk : k = a
        · subst k; simp [*]
        · simp [hk]

/-! ## Runs of bytes -/

theorem memWrite_wf {m : Memory} (a : Nat) (l : List Byte) (h : memWf base m = true) : memWf base (memWrite base m a l) = true := by
  induction l generalizing m a with
  | nil => exact h
  | cons b r ih => exact ih _ (memSet_wf b h (by omega))

theorem memGet_memWrite_other {m : Memory} {a k : Nat} {l : List Byte} (h : memWf base m = true)
    (hk : k < a ∨ a + l.length ≤ k) : memGet base (memWrite base m a l) k = memGet base m k := by
  induction l generalizing m a with
  | nil => rfl
  | cons b r ih =>
    simp only [List.length_cons] at hk
    rw [memWrite, ih (memSet_wf b h (by omega)) (by omega), memGet_memSet a k b h, if_neg (by omega)]

/-- A run of bytes reads back as it was written. -/
theorem memRead_memWrite {m : Memory} (a : Nat) (l : List Byte) (h : memWf base m = true) :
    memRead base (memWrite base m a l) a l.length = l := by
  induction l generalizing m a with
  | nil => rfl
  | cons b r ih =>
    simp only [memWrite, List.length_cons, memRead]
    rw [memGet_memWrite_other (memSet_wf b h (by omega)) (by omega), memGet_memSet a a b h, if_pos rfl,
      ih _ (memSet_wf b h (by omega))]

theorem memRead_congr {m m' : Memory} {a n : Nat} (h : ∀ k, a ≤ k → k < a + n → memGet base m k = memGet base m' k) :
    memRead base m a n = memRead base m' a n := by
  induction n generalizing a with
  | zero => rfl
  | succ n ih => simp only [memRead]; rw [h a (by omega) (by omega), ih fun k h1 h2 => h k (by omega) (by omega)]

theorem memRead_memWrite_other {m : Memory} {a k n : Nat} {l : List Byte} (h : memWf base m = true)
    (hk : k + n ≤ a ∨ a + l.length ≤ k) : memRead base (memWrite base m a l) k n = memRead base m k n :=
  memRead_congr fun i h1 h2 => memGet_memWrite_other h (by omega)

@[simp] theorem memRead_length (m : Memory) (a n : Nat) : (memRead base m a n).length = n := by
  induction n generalizing a with
  | zero => rfl
  | succ n ih => simp [memRead, ih]

/-- Memories in canonical form that read alike are equal data. -/
theorem memory_ext {lo : Nat} {m m' : Memory} (h : memWfFrom base lo m = true) (h' : memWfFrom base lo m' = true)
    (e : ∀ a, memGet base m a = memGet base m' a) : m = m' := by
  induction m generalizing lo m' with
  | nil =>
    cases m' with
    | nil => rfl
    | cons x r =>
      obtain ⟨k, v⟩ := x
      simp only [memWfFrom, Bool.and_eq_true, decide_eq_true_eq, bne_iff_ne, ne_eq] at h'
      have := e k
      simp only [memGet, Nat.lt_irrefl, if_false, if_true] at this
      exact absurd this.symm h'.1.2
  | cons x r ih =>
    obtain ⟨k, v⟩ := x
    simp only [memWfFrom, Bool.and_eq_true, decide_eq_true_eq, bne_iff_ne, ne_eq] at h
    cases m' with
    | nil =>
      have := e k
      simp only [memGet, Nat.lt_irrefl, if_false, if_true] at this
      exact absurd this h.1.2
    | cons x' r' =>
      obtain ⟨k', v'⟩ := x'
      simp only [memWfFrom, Bool.and_eq_true, decide_eq_true_eq, bne_iff_ne, ne_eq] at h'
      have hk : k = k' := by
        have h1 := e k
        have h2 := e k'
        simp only [memGet, Nat.lt_irrefl, if_false, if_true] at h1 h2
        rcases Nat.lt_trichotomy k k' with hlt | heq | hgt
        · rw [if_pos hlt] at h1; exact absurd h1 h.1.2
        · exact heq
        · rw [if_pos hgt] at h2; exact absurd h2.symm h'.1.2
      subst k'
      have hv : v = v' := by simpa [memGet] using e k
      subst v'
      rw [ih h.2 h'.2]
      intro a
      have ha := e a
      simp only [memGet] at ha
      by_cases h1 : a < k
      · rw [memGet_below h.2 (by omega), memGet_below h'.2 (by omega)]
      · by_cases h2 : a = k
        · rw [memGet_below h.2 (by omega), memGet_below h'.2 (by omega)]
        · simpa [h1, h2] using ha

theorem memWfFrom_filter {lo : Nat} {m : Memory} (p : Host.Cell → Bool) (h : memWfFrom base lo m = true) :
    memWfFrom base lo (m.filter p) = true := by
  induction m generalizing lo with
  | nil => rfl
  | cons x r ih =>
    obtain ⟨k, v⟩ := x
    simp only [memWfFrom, Bool.and_eq_true, decide_eq_true_eq, bne_iff_ne, ne_eq] at h
    simp only [List.filter_cons]
    split
    · simp only [memWfFrom, Bool.and_eq_true, decide_eq_true_eq, bne_iff_ne, ne_eq]
      exact ⟨h.1, ih h.2⟩
    · exact ih (memWfFrom_mono h.2 (by omega))

/-! ## The memories of a state -/

theorem reset_memWf : State.reset.memWf = true := by decide

theorem memWf_parts {s : State} (h : s.memWf = true) :
    Memory.wf s.mem = true ∧ Machine.memWf Config.remoteByte s.remote = true ∧
      ∀ c ∈ s.cores, Machine.memWf zeroByte c.2.spad = true := by
  simp only [State.memWf, Bool.and_eq_true, List.all_eq_true] at h
  exact ⟨h.1.1, h.1.2, h.2⟩

theorem rawWrite_memWf {s : State} (ra : Nat) (l : List Byte) (h : s.memWf = true) : (s.rawWrite ra l).memWf = true := by
  obtain ⟨h1, h2, h3⟩ := memWf_parts h
  unfold State.rawWrite
  split
  · simp only [State.memWf, Bool.and_eq_true, List.all_eq_true]
    exact ⟨⟨memWrite_wf ra l h1, h2⟩, h3⟩
  · simp only [State.memWf, Bool.and_eq_true, List.all_eq_true]
    exact ⟨⟨h1, memWrite_wf _ l h2⟩, h3⟩

/-- A state whose package memory is another, in canonical form. -/
theorem memWf_with {s : State} {m : Memory} (h : s.memWf = true) (hm : Memory.wf m = true) :
    ({ s with mem := m } : State).memWf = true := by
  obtain ⟨-, h2, h3⟩ := memWf_parts h
  simp only [State.memWf, Bool.and_eq_true, List.all_eq_true]
  exact ⟨⟨hm, h2⟩, h3⟩

theorem recrypt_wf {m : Memory} (n : Nat) (k0 k1 : BitVec 512) (h : Memory.wf m = true) :
    Memory.wf (recrypt m n k0 k1) = true := by
  unfold recrypt
  split
  · exact h
  · exact memWrite_wf _ _ h

theorem memWithout_wf {s : State} (x : Line) (h : s.memWf = true) : Memory.wf (s.memWithout x) = true := by
  unfold State.memWithout
  split
  · exact (memWf_parts h).1
  · exact recrypt_wf _ _ _ (memWf_parts h).1

theorem allocate_memWf {s : State} (pa w : Nat) (d : Bool) (h : s.memWf = true) : (s.allocate pa w d).memWf = true := by
  have e : (s.allocate pa w d).memWf = ({ s with mem := (s.allocate pa w d).mem } : State).memWf := rfl
  rw [e]
  refine memWf_with h ?_
  simp only [State.allocate, State.setSlice]
  split
  · exact memWithout_wf _ h
  · exact (memWf_parts h).1

/-- An access of an LLC slice keeps the canonical form. -/
theorem llc_memWf {s : State} (pa : Nat) (w : Bool) (h : s.memWf = true) : (s.llc pa w).memWf = true := by
  simp only [State.llc]
  split
  · exact h
  · split
    · split <;> exact h
    · split
      · exact allocate_memWf _ _ _ h
      · split
        · exact h
        · exact allocate_memWf _ _ _ h

theorem rekeyFrame_wf (old new : State) {m : Memory} (f : Nat) (h : Memory.wf m = true) :
    Memory.wf (rekeyFrame old new m f) = true := by
  simp only [rekeyFrame]
  split
  · exact h
  · generalize List.range 16384 = l
    induction l generalizing m with
    | nil => exact h
    | cons i r ih =>
      refine ih ?_
      dsimp only
      split
      · exact h
      · exact recrypt_wf _ _ _ h

/-- A change of keys keeps the canonical form. -/
theorem rekey_memWf {new : State} (old : State) (fs : List Nat) (h : new.memWf = true) : (new.rekey old fs).memWf = true := by
  have e : (new.rekey old fs).memWf = ({ new with mem := fs.foldl (rekeyFrame old new) new.mem } : State).memWf := rfl
  rw [e]
  refine memWf_with h ?_
  have hm := (memWf_parts h).1
  generalize new.mem = m at hm ⊢
  clear e
  induction fs generalizing m with
  | nil => exact hm
  | cons f r ih => exact ih _ (rekeyFrame_wf old new f hm)

theorem store_memWf {s : State} (ra : Nat) (l : List Byte) (h : s.memWf = true) : (s.store ra l).memWf = true :=
  rekey_memWf _ _ (rawWrite_memWf ra l (show ((s.llc ra true).unkeep ra l.length).memWf = true from llc_memWf ra true h))

/-- A run of bytes reads back where it was written. -/
theorem rawRead_rawWrite {s : State} (ra : Nat) (l : List Byte) (h : s.memWf = true) :
    (s.rawWrite ra l).rawRead ra l.length = l := by
  obtain ⟨h1, h2, -⟩ := memWf_parts h
  unfold State.rawWrite State.rawRead
  split
  · exact memRead_memWrite ra l h1
  · exact memRead_memWrite _ l h2

/-- Every other byte is as before. -/
theorem rawRead_rawWrite_other {s : State} {ra k n : Nat} {l : List Byte} (h : s.memWf = true)
    (hk : k + n ≤ ra ∨ ra + l.length ≤ k) : (s.rawWrite ra l).rawRead k n = s.rawRead k n := by
  obtain ⟨h1, h2, -⟩ := memWf_parts h
  unfold State.rawWrite State.rawRead
  split <;> split
  · exact memRead_memWrite_other h1 hk
  · rfl
  · rfl
  · exact memRead_memWrite_other h2 (by omega)

theorem rawRead_congr {s u : State} (hm : u.mem = s.mem) (hr : u.remote = s.remote) (a n : Nat) :
    u.rawRead a n = s.rawRead a n := by
  simp only [State.rawRead, hm, hr]

/-! ## Stores: what a byte reads as afterwards (R28, R357, R359) -/

theorem recrypt_same (m : Memory) (n : Nat) (k : BitVec 512) : recrypt m n k k = m := by simp [recrypt]

theorem State.Steady.memWithout {s : State} (S : s.Steady) {i k : Nat} {l : Line} (h : (s.slice i).ways.get k none = some l) :
    s.memWithout l = s.mem := by
  unfold State.memWithout
  rcases (S i k l h).2 with d | d
  · rw [if_pos d]
  · split
    · rfl
    · rw [d, recrypt_same]

/-- In a steady state an access of an LLC slice changes no memory. -/
theorem State.Steady.llc_mem {s : State} (S : s.Steady) (pa : Nat) (w : Bool) :
    (s.llc pa w).mem = s.mem ∧ (s.llc pa w).remote = s.remote := by
  have A : ∀ (u : State), u.mem = s.mem → u.remote = s.remote → u.Steady → ∀ i d, (u.allocate pa i d).mem = s.mem ∧
      (u.allocate pa i d).remote = s.remote := by
    intro u hm hr hu i d
    refine ⟨?_, hr⟩
    simp only [State.allocate, State.setSlice]
    split
    · rename_i l hl; rw [State.Steady.memWithout hu hl, hm]
    · exact hm
  simp only [State.llc]
  split
  · exact ⟨rfl, rfl⟩
  · split
    · split <;> exact ⟨rfl, rfl⟩
    · split
      · exact A s rfl rfl S _ _
      · split
        · exact ⟨rfl, rfl⟩
        · exact A (s.pick (s.eligibleWays pa).length).2 rfl rfl S _ w

theorem place_dram {pa : Nat} (h : place pa = .dram) : pa < 2 ^ 38 := by
  unfold place at h
  split at h
  · assumption
  · repeat' split at h
    all_goals cases h

/-- A state stays steady while its slices, keys and frame ownership bytes are as before. -/
theorem State.Steady.of {s u : State} (S : s.Steady) (hs : u.slices = s.slices) (hp : u.parts = s.parts)
    (hf : u.fotb = s.fotb) (hb : u.boots = s.boots)
    (hm : ∀ f, f < 131072 → memGet baseByte u.mem (fieldOf s.fotb 12 28 * 4096 + f) =
      memGet baseByte s.mem (fieldOf s.fotb 12 28 * 4096 + f)) : u.Steady := by
  intro i k l h
  obtain ⟨hn, hd⟩ := S i k l (by simpa only [State.slice, hs] using h)
  have e : u.lineKey (128 * l.num) = s.lineKey (128 * l.num) := by
    simp only [State.lineKey, State.frameOwner, State.part, hp, hf, hb, hm _ (show 128 * l.num / 2 ^ 21 < 131072 by omega)]
  exact ⟨hn, by rwa [e]⟩

theorem State.Steady.congr {s u : State} (S : s.Steady) (hs : u.slices = s.slices) (hm : u.mem = s.mem)
    (hp : u.parts = s.parts) (hf : u.fotb = s.fotb) (hb : u.boots = s.boots) : u.Steady :=
  S.of hs hp hf hb fun f _ => by rw [hm]

/-- An access of an LLC slice keeps the state steady. -/
theorem State.Steady.llc {s : State} (S : s.Steady) (pa : Nat) (w : Bool) : (s.llc pa w).Steady := by
  have hk : ∀ u : State, u.mem = s.mem → u.parts = s.parts → u.fotb = s.fotb → u.boots = s.boots → ∀ a,
      u.lineKey a = s.lineKey a := by
    intro u hm hp hf hb a
    simp only [State.lineKey, State.frameOwner, State.part, hm, hp, hf, hb]
  have A : ∀ (u : State), u.mem = s.mem → u.parts = s.parts → u.fotb = s.fotb → u.boots = s.boots → u.slices = s.slices →
      pa < 2 ^ 38 → ∀ i d, (u.allocate pa i d).Steady := by
    intro u hm hp hf hb hs hpa i d j k l h
    have hu : u.Steady := S.congr hs hm hp hf hb
    have e : (u.allocate pa i d).lineKey (128 * l.num) = s.lineKey (128 * l.num) := by
      refine hk (u.allocate pa i d) ?_ hp hf hb _
      simp only [State.allocate, State.setSlice]
      split
      · rename_i l hl; rw [State.Steady.memWithout hu hl, hm]
      · exact hm
    rw [e]
    simp only [State.allocate, State.setSlice, State.slice, Tab.get_set] at h
    by_cases hj : j = homeSlice pa
    · rw [if_pos hj, Tab.get_set] at h
      split at h
      · cases h
        refine ⟨by show pa / 128 < 2 ^ 31; omega, .inr ?_⟩
        show u.lineKey pa = s.lineKey (128 * (pa / 128))
        rw [hk u hm hp hf hb]
        simp only [State.lineKey, State.frameOwner]
        rw [show 128 * (pa / 128) / 2 ^ 21 = pa / 2 ^ 21 by omega]
      · exact S _ k l (by simpa only [State.slice, hs] using h)
    · rw [if_neg hj] at h
      exact S _ k l (by simpa only [State.slice, hs] using h)
  simp only [State.llc]
  split
  · exact S
  · rename_i hp
    have hpa := place_dram (by simpa using hp)
    split
    · split
      · intro j k l h
        simp only [State.setSlice, State.slice, Tab.get_set] at h
        by_cases hj : j = homeSlice pa
        · rw [if_pos hj, Tab.get_set] at h
          split at h
          · obtain ⟨x, hx, rfl⟩ := Option.map_eq_some_iff.mp h
            exact ⟨(S _ _ x hx).1, .inl rfl⟩
          · exact S _ k l (by simpa only [State.slice] using h)
        · rw [if_neg hj] at h
          exact S _ k l (by simpa only [State.slice] using h)
      · exact S
    · split
      · exact A s rfl rfl rfl rfl rfl hpa _ _
      · split
        · exact S
        · exact A (s.pick _).2 rfl rfl rfl rfl rfl hpa _ _

theorem rekey_nil (new old : State) : new.rekey old [] = new := rfl

/-- What a store wrote reads back, where the bytes are none of the frame ownership table's. -/
theorem store_rawRead {s : State} (ra : Nat) (l : List Byte) (h : s.memWf = true) (hf : s.fotFrames ra l.length = []) :
    (s.store ra l).rawRead ra l.length = l := by
  simp only [State.store, hf, rekey_nil]
  exact (rawRead_congr rfl rfl _ _).trans (rawRead_rawWrite ra l
    (show ((s.llc ra true).unkeep ra l.length).memWf = true from llc_memWf ra true h))

/-- Every other byte is as before, in a steady state. -/
theorem store_rawRead_other {s : State} {ra k n : Nat} {l : List Byte} (h : s.memWf = true) (S : s.Steady)
    (hf : s.fotFrames ra l.length = []) (hk : k + n ≤ ra ∨ ra + l.length ≤ k) :
    (s.store ra l).rawRead k n = s.rawRead k n := by
  simp only [State.store, hf, rekey_nil]
  exact (rawRead_congr rfl rfl _ _).trans ((rawRead_rawWrite_other
    (show ((s.llc ra true).unkeep ra l.length).memWf = true from llc_memWf ra true h) hk).trans
    (rawRead_congr (S.llc_mem ra true).1 (S.llc_mem ra true).2 _ _))

theorem rawWrite_same (s : State) (ra : Nat) (l : List Byte) : (s.rawWrite ra l).slices = s.slices ∧
    (s.rawWrite ra l).parts = s.parts ∧ (s.rawWrite ra l).fotb = s.fotb ∧ (s.rawWrite ra l).boots = s.boots := by
  unfold State.rawWrite; split <;> exact ⟨rfl, rfl, rfl, rfl⟩

theorem llc_fotb (s : State) (pa : Nat) (w : Bool) : (s.llc pa w).fotb = s.fotb := by
  simp only [State.llc]
  split
  · rfl
  · split
    · split <;> rfl
    · split
      · rfl
      · split <;> rfl

/-- A store outside the frame ownership table keeps the state steady. -/
theorem store_steady {s : State} (ra : Nat) (l : List Byte) (h : s.memWf = true) (S : s.Steady)
    (hf : s.fotFrames ra l.length = []) : (s.store ra l).Steady := by
  simp only [State.store, hf, rekey_nil]
  have ⟨e1, e2, e3, e4⟩ := rawWrite_same ((s.llc ra true).unkeep ra l.length) ra l
  refine (S.llc ra true).of e1 e2 e3 e4 fun f hlt => ?_
  have hm := llc_memWf ra true h
  rw [llc_fotb]
  show memGet baseByte (((s.llc ra true).unkeep ra l.length).rawWrite ra l).mem _ = _
  unfold State.rawWrite
  split
  · refine memGet_memWrite_other (memWf_parts hm).1 ?_
    unfold State.fotFrames at hf
    simp only at hf
    split at hf
    · omega
    · by_cases hr : ra ≤ fieldOf s.fotb 12 28 * 4096 + f
      · by_cases hn : fieldOf s.fotb 12 28 * 4096 + f < ra + l.length
        · have hx := List.filterMap_eq_nil_iff.mp hf (fieldOf s.fotb 12 28 * 4096 + f - ra) (List.mem_range.mpr (by omega))
          rw [if_pos (by omega)] at hx
          cases hx
        · omega
      · omega
  · rfl

/-! ## Loads and stores through the caches (R28) -/

/-- The caches before the LLC hold no state that a byte of memory depends on. -/
theorem setL1_same (s : State) (h : Nat) (c : Cache) : (s.setL1 h c).slices = s.slices ∧ (s.setL1 h c).mem = s.mem ∧
    (s.setL1 h c).parts = s.parts ∧ (s.setL1 h c).fotb = s.fotb ∧ (s.setL1 h c).boots = s.boots ∧
    (s.setL1 h c).remote = s.remote := by
  unfold State.setL1; split <;> exact ⟨rfl, rfl, rfl, rfl, rfl, rfl⟩

theorem setL2_same (s : State) (h : Nat) (c : Cache) : (s.setL2 h c).slices = s.slices ∧ (s.setL2 h c).mem = s.mem ∧
    (s.setL2 h c).parts = s.parts ∧ (s.setL2 h c).fotb = s.fotb ∧ (s.setL2 h c).boots = s.boots ∧
    (s.setL2 h c).remote = s.remote := by
  unfold State.setL2; split <;> exact ⟨rfl, rfl, rfl, rfl, rfl, rfl⟩

theorem victim_same (s : State) (c : Cache) (n : Nat) (held : List Nat) (ln : Nat) :
    (s.victim c n held ln).2.slices = s.slices ∧ (s.victim c n held ln).2.mem = s.mem ∧
    (s.victim c n held ln).2.parts = s.parts ∧ (s.victim c n held ln).2.fotb = s.fotb ∧
    (s.victim c n held ln).2.boots = s.boots ∧ (s.victim c n held ln).2.remote = s.remote := by
  unfold State.victim; split <;> exact ⟨rfl, rfl, rfl, rfl, rfl, rfl⟩

theorem enterL1_same (s : State) (h ln : Nat) : (s.enterL1 h ln).slices = s.slices ∧ (s.enterL1 h ln).mem = s.mem ∧
    (s.enterL1 h ln).parts = s.parts ∧ (s.enterL1 h ln).fotb = s.fotb ∧ (s.enterL1 h ln).boots = s.boots ∧
    (s.enterL1 h ln).remote = s.remote := by
  simp only [State.enterL1, setL1_same, victim_same, and_self]

theorem enterL2_same (s : State) (h ln : Nat) : (s.enterL2 h ln).slices = s.slices ∧ (s.enterL2 h ln).mem = s.mem ∧
    (s.enterL2 h ln).parts = s.parts ∧ (s.enterL2 h ln).fotb = s.fotb ∧ (s.enterL2 h ln).boots = s.boots ∧
    (s.enterL2 h ln).remote = s.remote := by
  simp only [State.enterL2, setL2_same, victim_same, and_self]

theorem keep_same (s : State) (c : CacheOf) (ln : Nat) (b : Option (List Byte)) : (s.keep c ln b).slices = s.slices ∧
    (s.keep c ln b).mem = s.mem ∧ (s.keep c ln b).parts = s.parts ∧ (s.keep c ln b).fotb = s.fotb ∧
    (s.keep c ln b).boots = s.boots ∧ (s.keep c ln b).remote = s.remote := by
  unfold State.keep; split <;> exact ⟨rfl, rfl, rfl, rfl, rfl, rfl⟩

/-- A lookup enters the line into caches, which hold no state that a byte of memory depends on, and may then access its LLC
slice. -/
theorem lookup_cases (s : State) (h ra : Nat) (lv : Tier) : ∃ u : State, (u.slices = s.slices ∧ u.mem = s.mem ∧
    u.parts = s.parts ∧ u.fotb = s.fotb ∧ u.boots = s.boots ∧ u.remote = s.remote) ∧
    (s.lookup h ra lv = u ∨ s.lookup h ra lv = u.llc ra false) := by
  simp only [State.lookup]
  split
  · exact ⟨s, ⟨rfl, rfl, rfl, rfl, rfl, rfl⟩, .inl rfl⟩
  · split
    · split
      · refine ⟨_, ?_, .inl rfl⟩
        split <;> simp only [keep_same, enterL1_same, and_self]
      · refine ⟨_, ?_, .inr rfl⟩
        split <;> simp only [keep_same, enterL1_same, enterL2_same, and_self]
    · refine ⟨_, ?_, .inr rfl⟩
      split <;> simp only [keep_same, enterL1_same, and_self]

/-- A lookup of a line changes no byte, in a steady state. -/
theorem lookup_keeps {s : State} (S : s.Steady) (h ra : Nat) (lv : Tier) (a n : Nat) :
    (s.lookup h ra lv).rawRead a n = s.rawRead a n := by
  obtain ⟨u, ⟨e1, e2, e3, e4, e5, e6⟩, e | e⟩ := lookup_cases s h ra lv <;> rw [e]
  · exact rawRead_congr e2 e6 _ _
  · have L := (S.congr e1 e2 e3 e4 e5).llc_mem ra false
    exact rawRead_congr (L.1.trans e2) (L.2.trans e6) _ _

/-- A lookup keeps the state steady. -/
theorem lookup_steady {s : State} (S : s.Steady) (h ra : Nat) (lv : Tier) : (s.lookup h ra lv).Steady := by
  obtain ⟨u, ⟨e1, e2, e3, e4, e5, -⟩, e | e⟩ := lookup_cases s h ra lv <;> rw [e]
  · exact S.congr e1 e2 e3 e4 e5
  · exact (S.congr e1 e2 e3 e4 e5).llc ra false

/-- A load of memory of this package reads the first copy of its line. -/
theorem loadAt_local (s : State) (h : Nat) {ra : Nat} (n : Nat) (lv : Tier) (hr : ra < 2 ^ 40) :
    s.loadAt h ra n lv = (s.lookBytes h ra n lv, s.lookup h ra lv) := if_pos hr

/-- Where no cache keeps bytes of its own, that copy holds the bytes of memory. -/
theorem lookBytes_raw {s : State} (k : s.kept = []) (h ra n : Nat) (lv : Tier) :
    s.lookBytes h ra n lv = s.rawRead ra n := by
  have e : ∀ c ln, s.keptOf c ln = none := by intro c ln; simp [State.keptOf, k]
  simp only [State.lookBytes, State.keptFor, State.l2Kept, e, ite_self]

/-- A load at the home reads the bytes of memory. -/
theorem lookBytes_home (s : State) (h ra n : Nat) : s.lookBytes h ra n .home = s.rawRead ra n := by
  simp [State.lookBytes, State.keptFor]

/-- A store into memory of this package performs at once. -/
theorem storeAt_local (s : State) (t : Thread) (e : Option Cmd) {ra : Nat} (l : List Byte) (hr : ra < 2 ^ 40) :
    s.storeAt t e ra l = s.store ra l := if_pos hr

theorem tab_mem_set {α : Type} {t : Tab α} {k : Nat} {x : α} {e : Nat × α} (h : e ∈ Tab.set t k x) : e ∈ t ∨ e = (k, x) := by
  induction t with
  | nil => simp only [Tab.set, List.mem_singleton] at h; exact .inr h
  | cons y r ih =>
    obtain ⟨i, y⟩ := y
    simp only [Tab.set] at h
    split at h
    · rcases List.mem_cons.mp h with h | h
      · exact .inr h
      · exact .inl (.tail _ h)
    · split at h
      · rcases List.mem_cons.mp h with h | h
        · exact .inr h
        · exact .inl h
      · rcases List.mem_cons.mp h with h | h
        · exact .inl (h ▸ .head _)
        · rcases ih h with h | h
          · exact .inl (.tail _ h)
          · exact .inr h

theorem tab_get_mem {α : Type} (t : Tab α) (k : Nat) (d : α) : t.get k d = d ∨ ∃ i, (i, t.get k d) ∈ t := by
  induction t with
  | nil => exact .inl rfl
  | cons y r ih =>
    obtain ⟨i, y⟩ := y
    simp only [Tab.get]
    split
    · exact .inr ⟨i, .head _⟩
    · rcases ih with h | ⟨j, h⟩
      · exact .inl h
      · exact .inr ⟨j, .tail _ h⟩

/-- The scratchpad of every core is in canonical form. -/
theorem core_spad_wf {s : State} (g : Nat) (h : s.memWf = true) : Machine.memWf zeroByte (s.core g).spad = true := by
  rcases tab_get_mem s.cores g CoreSt.reset with e | ⟨i, e⟩
  · rw [State.core, e]; rfl
  · exact (memWf_parts h).2.2 _ e

theorem setCore_memWf {s : State} (g : Nat) (x : CoreSt) (h : s.memWf = true) (hx : Machine.memWf zeroByte x.spad = true) :
    (s.setCore g x).memWf = true := by
  obtain ⟨h1, h2, h3⟩ := memWf_parts h
  simp only [State.setCore, State.memWf, Bool.and_eq_true, List.all_eq_true]
  refine ⟨⟨h1, h2⟩, fun c hc => ?_⟩
  rcases tab_mem_set hc with hc | rfl
  · exact h3 c hc
  · exact hx

/-- A write to a job's scratchpad keeps the canonical form. -/
theorem spadWrite_memWf {s : State} (h off : Nat) (l : List Byte) (hw : s.memWf = true) : (s.spadWrite h off l).memWf = true := by
  simp only [State.spadWrite]
  exact setCore_memWf _ _ hw (memWrite_wf _ l (core_spad_wf _ hw))

end Sys2Proof.Machine
end

