-- ==== Sys2Proof/Laws/Lanes.lean ====
section
/-! SUPPORT. Laws/Lanes.lean: what the wrappers of the access and vector streams do with a word that issues, and what the
parser does with a good packet. -/

namespace Sys2Proof.Machine

/-- The wrapper runs the body of a word whose checks pass. -/
theorem laneForm_acc {s : State} {j : Nat} {h : LaneH} (R : AccReaches s j h) {ok1 ok2 head stall : Nat → Bool}
    (body : Nat → Out) (h1 : ok1 j = true) (h2 : ok2 j = true) (h3 : head j = true) (h4 : stall j = false) :
    laneForm s false h ok1 ok2 head stall body = body j := by
  obtain ⟨hc, hf⟩ := R
  have e : s.frames (.acc j) = (s.acc j).frames := rfl
  simp [laneForm, laneFormTo, hc, e, hf, h1, h2, h3, h4]

theorem laneForm_vec {s : State} {j : Nat} {h : LaneH} (R : VecReaches s j h) {ok1 ok2 head stall : Nat → Bool}
    (body : Nat → Out) (h1 : ok1 j = true) (h2 : ok2 j = true) (h3 : head j = true) (h4 : stall j = false) :
    laneForm s true h ok1 ok2 head stall body = body j := by
  obtain ⟨hc, hf⟩ := R
  have e : s.frames (.vec j) = (s.vec j).frames := rfl
  simp [laneForm, laneFormTo, hc, e, hf, h1, h2, h3, h4]

/-- A word that waits on one of its queues leaves the state as it is (R51, R53). -/
theorem laneForm_stalls {s : State} {j : Nat} {h : LaneH} (R : AccReaches s j h) {ok1 ok2 head stall : Nat → Bool}
    (body : Nat → Out) (h4 : stall j = true) : laneForm s false h ok1 ok2 head stall body = .next s := by
  obtain ⟨hc, hf⟩ := R
  have e : s.frames (.acc j) = (s.acc j).frames := rfl
  simp [laneForm, laneFormTo, hc, e, hf, h4]

/-- A word of the access stream that issues runs its body with the value of its predicate. -/
theorem accForm_issues {s : State} {j : Nat} {h : LaneH} {p : Bool} (I : AccIssues s j h p) {stall : Ctx → Bool}
    (body : Nat → Bool → Out) (hs : stall (s.ctx j) = false) : accForm s h true stall body = body j p := by
  rw [accForm, laneForm_acc I.reaches _ rfl rfl rfl hs, I.pred]

/-- A word of the vector stream that issues runs its body. -/
theorem vecForm_issues {s : State} {j : Nat} {h : LaneH} {f : VForm} (I : VecIssues s j h f) {extra : Nat → Bool}
    (body : Nat → Out) (he : extra j = true) : vecForm s h f extra body = body j := by
  rw [vecForm, laneForm_vec I.reaches _ (by simp [I.ok1, he]) I.ok2 I.head I.queues]
  simp [I.replay, I.clean]

/-- A good packet of a kind that the event takes is read and acted on, once the parser has noted its turn. -/
theorem packetTurn_good {s : State} {p q kind : Nat} {w : List Word} {l : List Nat} (G : PacketGood s p q kind w l)
    {mine : Nat → Bool} (hm : mine kind = true) (body : State → List Word → Out) :
    packetTurn s p q mine body = body ((s.taken p q).packetRead p q w) w := by
  obtain ⟨⟨runs, words, head, written, fresh, unread, next, once, ring⟩, plain, hw, there, clean, checks⟩ := G
  rw [Queue.headAddr] at there clean
  have ek : s.kindNow (s.queue p q) = kind := by simpa [State.kindNow, unread] using head
  have ew : s.packetNow (s.queue p q) = w := by simpa [State.packetNow, unread, plain] using words
  have len : ¬ w.length < 32 := by simp [← words, State.headWords, ring, wordsOf]
  have bad : s.packetBad p q = 0 := by
    have cl : s.poisoned (ringAddr l (s.queue p q).logn (s.queue p q).head) (s.packetBytes (s.queue p q)) = false := by
      rw [← clean, State.packetBytes, ek]
      by_cases hk : kind ≤ 5
      · simp [plain, unread, hk, Nat.not_lt.mpr hk]
      · simp [hk, Nat.not_le.mp hk]
    simp [State.packetBad, unread, ring, there, cl, ew, len, checks]
  have takes : s.parserTakes p q = true := by simp [State.parserTakes, next, once]
  have go : packetGoesOn (s.taken p q) p q body = body ((s.taken p q).packetRead p q w) w := by
    have e1 : (s.taken p q).packetBad p q = 0 := bad
    have e2 : (s.taken p q).packetNow ((s.taken p q).queue p q) = w := ew
    have e3 : (s.taken p q).slow = false := plain
    simp [packetGoesOn, e1, e2, e3]
  simp [packetTurn, ek, written, hm, fresh, runs, hw, takes, go]

/-! ## Accumulator rows and scratchpad bytes of one job -/

theorem row_setRow (s : State) (h r r' : Nat) (x : Row) : (s.setRow h r x).row h r' = if r' = r then x else s.row h r' := by
  simp only [State.setRow, State.row, State.setCore_ctx, State.setCore_core, Tab.get_set]
  by_cases e : r' = r
  · simp [e]
  · rw [if_neg (by omega), if_neg e]

/-- What is written to a job's scratchpad reads back. -/
theorem spadRead_spadWrite {s : State} (h off : Nat) (l : List Byte) (hw : s.memWf = true) :
    (s.spadWrite h off l).spadRead h off l.length = l := by
  have e : (s.spadWrite h off l).spadRead h off l.length =
      memRead zeroByte (memWrite zeroByte (s.core (coreOf h)).spad ((s.ctx h).spadBase + off) l)
        ((s.ctx h).spadBase + off) l.length := by
    simp only [State.spadRead, State.spadWrite]
    exact congrArg (fun c : CoreSt => memRead zeroByte c.spad ((s.ctx h).spadBase + off) l.length)
      (State.setCore_core s (coreOf h) _)
  rw [e]
  exact memRead_memWrite _ l (core_spad_wf _ hw)

end Sys2Proof.Machine
end

