-- ==== Sys2Proof/Laws/Ops.lean ====
section
/-! SUPPORT. Laws/Ops.lean: what the shared operations do, said once: the issue of a stream's word, registers and their
shadows, the wrapper of cox words, memory in its canonical form. -/

namespace Sys2Proof.Machine

/-! ## Streams -/

/-- The thread is a cox stream: a job's cox, a spore or a service core. -/
def IsCox (t : Thread) : Prop := ∀ j, t ≠ .acc j ∧ t ≠ .vec j

theorem setStream_cox (s : State) (t : Thread) (r : Stream) (h : IsCox t) :
    s.setStream t r = s.setCox t { s.cox t with run := r } := by
  cases t <;> first | rfl | exact absurd rfl (h _).1 | exact absurd rfl (h _).2

theorem stream_cox (s : State) (t : Thread) (h : IsCox t) : s.stream t = (s.cox t).run := by
  cases t <;> first | rfl | exact absurd rfl (h _).1 | exact absurd rfl (h _).2

theorem issueTo_cox (s : State) (t : Thread) (pc : Word) (h : IsCox t) :
    s.issueTo t pc = s.setCox t { s.cox t with run := { (s.cox t).run with pc := pc, since := 0, hold := 0, occ := 0 } } := by
  rw [State.issueTo, setStream_cox _ _ _ h, stream_cox _ _ h]

theorem next_cox (s : State) (t : Thread) (h : IsCox t) :
    s.next t = s.setCox t { s.cox t with run := { (s.cox t).run with pc := (s.cox t).run.pc + 8, since := 0, hold := 0, occ := 0 } } := by
  rw [State.next, issueTo_cox _ _ _ h, stream_cox _ _ h]

/-! ## The wrapper of cox words -/

theorem legal_isCox {f : Form} {t : Thread} {l : List SReg} (h : f.legal t l = true) : IsCox t := by
  intro j; constructor <;> (intro e; subst e; simp [Form.legal] at h)

theorem Issues.isCox {s : State} {t : Thread} {f : Form} {h : CoxH} {l : List SReg} (I : Issues s t f h l) : IsCox t :=
  legal_isCox I.legal

/-- A word that issues runs its body. -/
theorem coxForm_issues {s : State} {t : Thread} {f : Form} {h : CoxH} {l : List SReg} (I : Issues s t f h l)
    (body : Thread → Out) : coxForm s f h l body = body t := by
  obtain ⟨rfl, hl, hm, hp⟩ := I
  unfold coxForm
  by_cases hq : f.priv = true
  · simp [hl, hp, hm hq]
  · simp [hl, hp, hq]

/-- A word whose predicate fails issues and does nothing else. -/
theorem coxForm_suppressed {s : State} {t : Thread} {f : Form} {h : CoxH} {l : List SReg} (I : Suppressed s t f h l)
    (body : Thread → Out) : coxForm s f h l body = .next (s.next t) := by
  obtain ⟨rfl, hl, hm, hp⟩ := I
  unfold coxForm
  by_cases hq : f.priv = true
  · simp [hl, hp, hm hq]
  · simp [hl, hp, hq]

theorem coxForm_illegal {s : State} {f : Form} {h : CoxH} {l : List SReg} (hl : f.legal s.cur l = false)
    (body : Thread → Out) : coxForm s f h l body = .next (s.fault s.cur illegal 0) := by
  simp [coxForm, hl]

theorem coxForm_privileged {s : State} {f : Form} {h : CoxH} {l : List SReg} (hl : f.legal s.cur l = true)
    (hp : f.priv = true) (hs : s.cur.isSvc = false) (body : Thread → Out) :
    coxForm s f h l body = .next (s.fault s.cur privileged 0) := by
  simp [coxForm, hl, hp, hs]

/-- Whatever the checks decide, a cox word has an outcome when its body has one. -/
theorem coxForm_goes {s : State} {f : Form} {h : CoxH} {l : List SReg} {body : Thread → Out} (hb : Goes (body s.cur)) :
    Goes (coxForm s f h l body) := by
  simp only [coxForm]
  split
  · exact ⟨_, rfl⟩
  · split
    · exact ⟨_, rfl⟩
    · split
      · exact hb
      · exact ⟨_, rfl⟩

/-- A word that computes a scalar and issues writes its result. -/
theorem coxResult_issues {s : State} {t : Thread} {h : CoxH} {d : SReg} {l : List SReg} (I : Issues s t .any h (d :: l))
    (f : List Word → Word) :
    coxResult s h d l f = .next (s.putResult t h d l (f (l.map fun r => s.srcOf t h r))) := by
  rw [coxResult, coxForm_issues I]
  simp [State.putResult, State.poisonOf, State.srcOf, Function.comp_def]

end Sys2Proof.Machine
end

