-- ==== Sys2Proof/Tests/Slice0.lean ====
section
/-! SUPPORT. Tests/Slice0.lean: words written out by hand, ill-formed terms, single steps on small states, and for each
statement states and operands that meet its hypotheses. -/

namespace Sys2Proof.Tests

open Sys2Proof.Machine

set_option maxRecDepth 20000
set_option exponentiation.threshold 9000

/-! ## Words written out from Tables 3.1 to 3.9 -/

/-- What a word alone is read as. -/
def word (m : OpMap) (w : Word) : Option Instr := (decode m w 0).toOption

/-- Why a word is refused. -/
def refusal (m : OpMap) (w : Word) : Option DecErr :=
  match decode m w 0 with
  | .ok _ => none
  | .error e => some e

/-- ADD s3, s1, s2: OPC 0x000, d 3, a 1, b 2. -/
theorem test_word_add : word .cox 0x00000000C1080000 = some (.add ⟨0, 0, 0⟩ 3 1 2) := by decide

/-- LDI s5, 7. -/
theorem test_word_ldi : word .cox 0x0000025140000007 = some (.ldi ⟨0, 0, 0⟩ 5 7) := by decide

/-- CMP.eq p1, s5, s0. -/
theorem test_word_cmp : word .cox 0x0000018045000000 = some (.cmp ⟨0, 0, 0⟩ .eq 1 5 0) := by decide

/-- ST s2, [s4 + 8]. -/
theorem test_word_st : word .cox 0x0000039084000008 = some (.st ⟨0, 0, 0⟩ 2 4 8) := by decide

/-- MXSWP s1, s2, wait t2, signal t3, `grad`. -/
theorem test_word_mxswp : word .cox 0x0000092230420001 = some (.mxswp ⟨0, 0, 0⟩ ⟨2, 3⟩ 1 2 true) := by decide

/-- CPY s1, s2, s3. -/
theorem test_word_cpy : word .cox 0x00000A0000420C00 = some (.cpy ⟨0, 0, 0⟩ ⟨0, 0⟩ 1 2 3 false false) := by decide

/-- AADD a1, a2, 16 in mode 1. -/
theorem test_word_aadd : word .acc 0x0000001088110010 = some (.aadd ⟨0, 0, 0, 0⟩ 1 2 (.imm 16)) := by decide

/-- VADD.f32 v1, v2, v3. -/
theorem test_word_vadd : word .vec 0x0000000008080600 = some (.vadd ⟨0, 0, 0, 0⟩ .f32 1 2 3) := by decide

/-- JOIN of VEC. -/
theorem test_word_join : word .vec 0x0000102000000000 = some (.vecJoin ⟨0, 0, 0, 0⟩) := by decide

/-! One word of each family, from Tables 3.2 to 3.9. -/

theorem test_word_bra : word .cox 0x00000289DFFFFFFD = some (.bra 0 true 1 true 2 0x1FFFFFFD) := by decide
theorem test_word_callv : word .cox 0x0000088005000021 = some (.callv ⟨0, 0, 0⟩ .mask 5 2) := by decide
theorem test_word_amo : word .cox 0x00000580420C0000 = some (.amoAdd ⟨0, 0, 0⟩ .acqrel 1 2 3) := by decide
theorem test_word_cas : word .cox 0x00000770420C0009 = some (.cas ⟨0, 0, 0⟩ .relDom 1 2 3 9) := by decide
theorem test_word_twait : word .cox 0x00000830C0000007 = some (.twait ⟨0, 0, 0⟩ 3 7) := by decide
theorem test_word_rdsys : word .cox 0x00000C21C0000203 = some (.rdsys ⟨0, 0, 0⟩ 7 0x203) := by decide
theorem test_word_fltrd : word .cox 0x00000C4040000005 = some (.fltrd ⟨0, 0, 0⟩ 1 5) := by decide
theorem test_word_trap : word .cox 0x00000C0000001234 = some (.trap ⟨0, 0, 0⟩ 0x1234) := by decide
theorem test_word_gmstep : word .cox 0x00000B1009000000 = some (.gmstep ⟨0, 0, 0⟩ 9) := by decide
theorem test_word_clreq : word .cox 0x00000BA120C40000 = some (.clreq ⟨0, 0, 0⟩ ⟨1, 2⟩ 3 4) := by decide
theorem test_word_rtacq : word .cox 0x00000A8051800000 = some (.rtacq ⟨0, 0, 0⟩ ⟨0, 5⟩ 6) := by decide
theorem test_word_ald : word .acc 0x000000810C02FFF8 = some (.ald ⟨0, 0, 0, 0⟩ 2 3 (.post 0xFFF8)) := by decide
theorem test_word_aloop : word .acc 0x000002008000000C = some (.aloop ⟨0, 0, 0, 0⟩ 1 12) := by decide
theorem test_word_vcvt : word .vec 0x00000C2008080000 = some (.vcvt ⟨0, 0, 0, 0⟩ .fromDm8 1 2) := by decide
theorem test_word_vcmp : word .vec 0x0000082018040400 = some (.vcmp ⟨0, 0, 0, 0⟩ .lt .f32 3 1 2) := by decide
theorem test_word_vmov : word .vec 0x000007386C000000 = some (.vmov ⟨0, 0, 0, 0⟩ 0x10D 0x100) := by decide
theorem test_word_vsel : word .vec 0x0000074008080604 = some (.vsel ⟨0, 0, 0, 0⟩ 1 2 3 4) := by decide
theorem test_word_vloop : word .vec 0x0000100000040200 = some (.vloop ⟨0, 0, 0, 0⟩ 0 1 1) := by decide

/-- The top fields of a cox word: IDLE 1, boost level 1, predicate ~p2, over ADD s3, s1, s2. -/
theorem test_word_header : word .cox 0x00514000C1080000 = some (.add ⟨1, 1, 10⟩ 3 1 2) := by decide

/-- A reserved bit that is not zero is refused by name (R48). -/
theorem test_word_reserved : refusal .cox 0x00000000C1080001 = some .reserved := by decide

/-- An opcode that the map does not assign (R57). -/
theorem test_word_unassigned : refusal .vec 0x00001FF000000000 = some .unassigned := by decide

/-- The word that the host numbers from bit 0, stored little-endian and decoded (R46). -/
theorem test_table_word : decodeTableWord 64 0x00000000C1080000 = some (.add ⟨0, 0, 0⟩ 3 1 2) := by decide

/-! ## Terms that no word may hold (R55, R60) -/

theorem test_ill_boost : (Instr.add ⟨0, 3, 0⟩ 3 1 2).wellFormed = false := by decide
theorem test_ill_plain : (Instr.st ⟨0, 1, 0⟩ 2 4 8).wellFormed = false := by decide
theorem test_ill_commit : (Instr.bra 0 false 0 false 3 0).wellFormed = false := by decide
theorem test_ill_cmp_p0 : (Instr.cmp ⟨0, 0, 0⟩ .eq 0 5 0).wellFormed = false := by decide
theorem test_ill_field : (Instr.bfx ⟨0, 0, 0⟩ 1 2 60 5).wellFormed = false := by decide
theorem test_ill_group : (Instr.callv ⟨0, 0, 0⟩ .scal 1 1).wellFormed = false := by decide
theorem test_ill_stride : (Instr.callv ⟨0, 0, 0⟩ .stride 1 0).wellFormed = false := by decide
theorem test_ill_itf : (Instr.vecJoin ⟨0, 3, 0, 0⟩).wellFormed = false := by decide
theorem test_ill_level : (Instr.vecJoin ⟨0, 1, 7, 0⟩).wellFormed = false := by decide
theorem test_ill_level0 : (Instr.vecJoin ⟨0, 0, 2, 0⟩).wellFormed = false := by decide
theorem test_ill_target : (Instr.ald ⟨0, 0, 0, 0⟩ 6 1 (.off 0)).wellFormed = false := by decide
theorem test_ill_count : (Instr.aloop ⟨0, 0, 0, 0⟩ 0 0).wellFormed = false := by decide
theorem test_ill_arms : (Instr.varm ⟨0, 0, 0, 0⟩ 9 0).wellFormed = false := by decide
theorem test_ill_lengths : (Instr.varm ⟨0, 0, 0, 0⟩ 1 0x100).wellFormed = false := by decide
theorem test_ill_source : (Instr.vmov ⟨0, 0, 0, 0⟩ 1 0x10E).wellFormed = false := by decide
theorem test_ill_destination : (Instr.vmov ⟨0, 0, 0, 0⟩ 0x10B 1).wellFormed = false := by decide
theorem test_ill_mask : (Instr.vkand ⟨0, 0, 0, 0⟩ 0 1 2).wellFormed = false := by decide
theorem test_ill_amax : (Instr.vamxr ⟨0, 0, 0, 0⟩ 1 5).wellFormed = false := by decide
theorem test_ill_pop_mask : (Instr.vlpop ⟨0, 0, 0, 0⟩ 1 0).wellFormed = false := by decide


/-! ## States for the tests -/

/-- The header of a cox word without IDLE, boost or predicate; one of boost level 1; one that is never true. -/
def h0 : CoxH := ⟨0, 0, 0⟩
def hb : CoxH := ⟨0, 1, 0⟩
def hn : CoxH := ⟨0, 0, 8⟩

/-- The header of a lane word without IDLE, iteration flag or predicate, and one under the predicate ~p0. -/
def l0 : LaneH := ⟨0, 0, 0, 0⟩
def ln : LaneH := ⟨0, 0, 0, 8⟩

/-- A loop-nest record of partition 1, queue 2, with 32 accumulator rows, 8,192 scratchpad bytes and two spores. -/
def nest : Nest :=
  { addr := 0x10000, part := 1, queue := 2, ring := 0, mbtag := 5, cool := 0, spores := 2, share := 1, group := 0, tier := 0,
    levels := 1, spad := 8192, accRows := 32, budget := 1000, ctl := 0x8000, acc := 0x9000, vec := 0xA000, handler := 0xB000,
    counter := 0xC000, trips := [2], ranks := [0], save := 0xD0000 }

def job : Job :=
  { nest := nest, seq := 1, image := none, spadBase := 0, spadLen := 8192, accBase := 0, phase := .running, owned := 0,
    budget := 1000, warned := false, killed := false }

/-- A translation of the first GiB of partition 1 to itself. -/
def page : Trans := { part := 1, va := 0, size := 3, pa := 0, r := true, w := true, x := true }

/-- SC0's machine after reset, with s1 to s4 set. -/
def svcS : State :=
  ((State.reset.setReg (.svc 0) 1 0x1000).setReg (.svc 0) 2 0x2000).setReg (.svc 0) 3 0x77

/-- A stream at a pc in a status. -/
def at_ (pc : Word) (st : Status) : Stream := { Stream.reset with pc := pc, status := st }

/-- The job runs in context 0 of core 0, and its cox is current; s1, s2, s3 hold 0x1000, 0x2000 and 0x77. -/
def jobS : State :=
  let s := { State.reset with cur := .cox 0 }
  let s1 := s.setCtx 0 { Ctx.reset with job := some job }
  let s2 := s1.setCox (.cox 0) { Cox.reset with run := at_ 0x8000 .ready }
  let s3 := (s2.setCrew 0 { Crew.reset with tlb := [page] }).setPart 1 { Part.reset with pd0 := 0x8000_0000_0000_0000 }
  ((s3.setReg (.cox 0) 1 0x1000).setReg (.cox 0) 2 0x2000).setReg (.cox 0) 3 0x77

/-- The job's context changed. -/
def jobC (f : Ctx → Ctx) : State := jobS.setCtx 0 (f (jobS.ctx 0))

/-- A cycle is planned; SC0 has had its turn in this one. -/
theorem test_hyps_turns : ({ svcS with sched := [.cycle] } : State).sched = [.cycle] ∧
    ({ svcS with sched := [.event .reset] } : State).sched = [.event .reset] ∧
    ({ svcS with sched := [.slowEvent .reset] } : State).sched = [.slowEvent .reset] ∧ Instr.reset.map = none ∧
    Instr.reset.wellFormed = true ∧ (svcS.setStream (.svc 0) { at_ 0 .ready with ran := 1 }).turned (.svc 0) = true := by decide
theorem test_reset_reads_zero : State.reset.reg (.svc 0) 5 = 0 := by decide

theorem test_issues_job : Issues jobS (.cox 0) .coxOnly h0 [1, 2] := by constructor <;> decide
theorem test_issues_any : Issues jobS (.cox 0) .any hb [3, 1, 2] := by constructor <;> decide
theorem test_issues_svc : Issues svcS (.svc 0) .svcOnly h0 [1] := by constructor <;> decide
theorem test_issues_svc_any : Issues svcS (.svc 0) .any h0 [2, 1] := by constructor <;> decide
theorem test_suppressed : Suppressed jobS (.cox 0) .any hn [3, 1, 2] := by constructor <;> decide

/-! ## Words and the step -/

/-- StepRunsDecoded: the word ADD s3, s1, s2 stands at SC0's pc. -/
def stepS : State := State.reset.rawWrite 0 (bytesLE 8 0x00000000C1080000)

theorem fetched {a : Chk × Word × Word × State} {c : Chk} {w w2 : Word} (h : a.1 = c ∧ a.2.1 = w ∧ a.2.2.1 = w2) :
    a = (c, w, w2, a.2.2.2) := by
  obtain ⟨rfl, rfl, rfl⟩ := h
  rfl

/-- A service core comes to a word in a state in which nothing is planned. -/
theorem comes_svc {s : State} {w : Word} (h : ((s.startTurn (.svc 0)).trapReady 0 = false ∧
      ((s.startTurn (.svc 0)).stream (.svc 0)).status = .ready) ∧
      (((s.startTurn (.svc 0)).fetch (.svc 0)).1 = .ok ∧ ((s.startTurn (.svc 0)).fetch (.svc 0)).2.1 = w ∧
        ((s.startTurn (.svc 0)).fetch (.svc 0)).2.2.1 = 0) ∧
      ((s.startTurn (.svc 0)).fetch (.svc 0)).2.2.2.due (.svc 0) w = true) :
    ComesTo (s.startTurn (.svc 0)) (.svc 0) w 0 ((s.startTurn (.svc 0)).fetch (.svc 0)).2.2.2 :=
  ⟨fun _ e => (by cases e), fun _ e => (by cases e; exact h.1.1), h.1.2, fetched h.2.1, h.2.2⟩

theorem test_gives_turn : GivesTurn stepS { stepS with slow := false } (.svc 0) :=
  .inr (.inr ⟨by decide, by decide, by decide, rfl⟩)
theorem test_has_cycle : HasCycle stepS (.svc 0) := ⟨by decide, fun _ e => by rcases e with e | ⟨_, e⟩ <;> cases e⟩
theorem test_comes : ComesTo (stepS.startTurn (.svc 0)) (.svc 0) 0x00000000C1080000 0
    ((stepS.startTurn (.svc 0)).fetch (.svc 0)).2.2.2 := comes_svc (by decide)
theorem test_hyps_step : word .cox 0x00000000C1080000 = some (.add h0 3 1 2) := by decide

theorem test_hyps_step_job : (jobC id).deliverable 0 = none := by decide

theorem test_hyps_fetch : stepS.chk 1024 .fetch 0 8 = .ok ∧ stepS.poisoned (stepS.addr 1024 .fetch 0) 8 = false ∧
    fOpc (stepS.fetchWord (.svc 0) 0).1 ≠ 0x021 ∧ fOpc (stepS.fetchWord (.svc 0) 0).1 ≠ 0x101 ∧
    stepS.buffered (.svc 0) = none ∧ stepS.kept = [] := by decide

/-- A word that does not decode at SC0's pc. -/
def illS : State := State.reset.rawWrite 0 (bytesLE 8 0x00000000C1080001)
theorem test_hyps_step_illegal : ComesTo (illS.startTurn (.svc 0)) (.svc 0) 0x00000000C1080001 0
    ((illS.startTurn (.svc 0)).fetch (.svc 0)).2.2.2 := comes_svc (by decide)
theorem test_hyps_refused : refusal .cox 0x00000000C1080001 = some .reserved ∧
    illS.laneStalls (.svc 0) 0x00000000C1080001 = false := by decide

theorem test_hyps_memory_form : State.reset.memWf = true := by decide
theorem test_step_goes : (match step stepS with | .next u => decide ((u.stream (.svc 0)).pc = 8) | _ => false) = true := by
  decide

theorem test_hyps_round_trip : (Instr.add h0 3 1 2).wellFormed = true ∧ (Instr.add h0 3 1 2).map = some .cox ∧
    (Instr.varm l0 2 0x0305).wellFormed = true ∧ (Instr.varm l0 2 0x0305).map = some .vec ∧
    (Instr.varm l0 2 0x0305).words = 2 := by decide

/-! ## Cox words -/

theorem test_hyps_scalar : (Instr.addImm h0 3 1 0xFFFFFF).wellFormed = true ∧
    ((Instr.addImm h0 3 1 0xFFFFFF).aluForm.map fun x => (x.1, x.2.1, x.2.2.1)) = some (h0, 3, [1]) := by decide

/-- DIV and REM by 4, by 0, and of −2^63 by −1. -/
theorem test_issues_division : Issues jobS (.cox 0) .any h0 [4, 1, 3] := by constructor <;> decide
theorem test_hyps_division : h0.bl = 0 ∧ (4 : SReg) ≠ 0 ∧ jobS.srcOf (.cox 0) h0 3 ≠ 0 ∧ jobS.srcOf (.cox 0) h0 0 = 0 ∧
    ¬((jobS.srcOf (.cox 0) h0 1).toInt = -(2 ^ 63) ∧ (jobS.srcOf (.cox 0) h0 3).toInt = -1) ∧
    ((jobS.setReg (.cox 0) 1 0x8000_0000_0000_0000).srcOf (.cox 0) h0 1).toInt = -(2 ^ 63) ∧
    ((jobS.setReg (.cox 0) 3 0xFFFF_FFFF_FFFF_FFFF).srcOf (.cox 0) h0 3).toInt = -1 := by decide

/-- The outcome's register. -/
def regOf (o : Out) (t : Thread) (r : SReg) : Option Word :=
  match o with
  | .next u => some (u.reg t r)
  | _ => none

/-- The pc that an outcome leaves. -/
def pcOf (o : Out) (t : Thread) : Option Word :=
  match o with
  | .next u => some (u.stream t).pc
  | _ => none

/-- The class, subcause and address of the first record of job 0 that an outcome leaves. -/
def recOf (o : Out) : Option (Byte × Byte × Word) :=
  match o with
  | .next u => (u.ctx 0).records.head?.map fun r => (r.cls, r.sub, r.addr)
  | _ => none

/-- The class and subcause of the first record in SC0's intake. -/
def intakeOf (o : Out) : Option (Byte × Byte) :=
  match o with
  | .next u => (u.svc 0).intake.head?.map fun r => (r.cls, r.sub)
  | _ => none

theorem test_add : regOf (exec (.add h0 4 1 2) jobS) (.cox 0) 4 = some 0x3000 := by decide
theorem test_add_imm_wraps : regOf (exec (.addImm h0 4 0 0xFFFFFF) jobS) (.cox 0) 4 = some 0xFFFF_FFFF_FFFF_FFFF := by decide
theorem test_sub : regOf (exec (.sub h0 4 1 2) jobS) (.cox 0) 4 = some 0xFFFF_FFFF_FFFF_F000 := by decide
theorem test_mulh : regOf (exec (.mulh h0 4 2 1) (jobS.setReg (.cox 0) 1 0xFFFF_FFFF_FFFF_FFFF)) (.cox 0) 4 =
    some 0xFFFF_FFFF_FFFF_FFFF := by decide
theorem test_div_by_zero : regOf (exec (.div h0 4 1 0) jobS) (.cox 0) 4 = some 0xFFFF_FFFF_FFFF_FFFF := by decide
theorem test_rem_sign : regOf (exec (.rem h0 4 1 2) ((jobS.setReg (.cox 0) 1 0xFFFF_FFFF_FFFF_FFF9).setReg (.cox 0) 2 4))
    (.cox 0) 4 = some 0xFFFF_FFFF_FFFF_FFFD := by decide
theorem test_sar : regOf (exec (.sarImm h0 4 1 4) (jobS.setReg (.cox 0) 1 0x8000_0000_0000_0000)) (.cox 0) 4 =
    some 0xF800_0000_0000_0000 := by decide
theorem test_shl_low6 : regOf (exec (.shl h0 4 3 1) (jobS.setReg (.cox 0) 1 65)) (.cox 0) 4 = some 0xEE := by decide
theorem test_clz_zero : regOf (exec (.clz h0 4 0) jobS) (.cox 0) 4 = some 64 := by decide
theorem test_popc : regOf (exec (.popc h0 4 3) jobS) (.cox 0) 4 = some 6 := by decide
theorem test_bfx : regOf (exec (.bfx h0 4 3 4 3) jobS) (.cox 0) 4 = some 7 := by decide
theorem test_bfi : regOf (exec (.bfi h0 4 3 0 8 3) jobS) (.cox 0) 4 = some 0x700 := by decide
theorem test_ldi : regOf (exec (.ldi h0 4 0x3FFFFFFF) jobS) (.cox 0) 4 = some 0xFFFF_FFFF_FFFF_FFFF := by decide
theorem test_ldih : regOf (exec (.ldih h0 3 1) jobS) (.cox 0) 3 = some 0x4000_0077 := by decide
theorem test_s0_takes_no_result : regOf (exec (.add h0 0 1 2) jobS) (.cox 0) 0 = some 0 := by decide
theorem test_min_signed : regOf (exec (.min h0 4 1 3) (jobS.setReg (.cox 0) 1 0xFFFF_FFFF_FFFF_FFFF)) (.cox 0) 4 =
    some 0xFFFF_FFFF_FFFF_FFFF := by decide
theorem test_suppressed_word : regOf (exec (.mul hn 4 1 2) jobS) (.cox 0) 4 = some 0 := by decide
theorem test_boosted_word : regOf (exec (.sub hb 4 1 2) jobS) (.cox 0) 4 = some 0 := by decide

/-- CMP.lt and SEL on p1. -/
theorem test_cmp_sel :
    (match exec (.cmp h0 .lt 1 1 2) jobS with
     | .next u => regOf (exec (.sel h0 4 1 2 false 1) u) (.cox 0) 4
     | _ => none) = some 0x1000 := by decide

/-- A shadow of s4 at level 1, one that is poisoned. -/
def shadowC : Cox := ({ Cox.reset with run := at_ 0x8000 .ready }).put 1 4 9 none
def poison : Poison := { pc := 0x8000, addr := 0x10, cls := 7, sub := 0 }
def poisonedC : Cox := shadowC.put 1 5 0 (some poison)

theorem test_hyps_commit : (shadowC.commit 1).2 = none ∧ (shadowC.commit 2).2 = none ∧
    (poisonedC.commit 1).2 = some poison := by decide
theorem test_commit_moves : ((shadowC.commit 1).1).reg 4 = 9 ∧ (poisonedC.commit 1).1.reg 4 = 9 := by decide

theorem test_hyps_illegal : (Instr.go h0 1 2).coxHead.isSome = true ∧ Form.coxOnly.legal (.svc 0) [1, 2] = false ∧
    Form.any.legal (.spore 0 1) [16] = false := by decide
theorem test_hyps_privileged : (Instr.halt h0).coxHead = some (.svcOnly, h0, []) ∧
    Form.svcOnly.legal (.cox 0) [] = true ∧ Form.svcOnly.priv = true := by decide

/-- BRA: p0 true against `taken`, with and without a commit. -/
theorem test_bra_taken : pcOf (exec (.bra 0 false 0 true 0 (-2)) jobS) (.cox 0) = some 0x7FF0 := by decide
theorem test_bra_fall : pcOf (exec (.bra 0 true 0 true 0 (-2)) jobS) (.cox 0) = some 0x8008 := by decide
theorem test_hyps_bra :
    let s := jobS.setCox (.cox 0) poisonedC
    ((s.cox (.cox 0)).commit 1).2 = some poison ∧ ((jobS.cox (.cox 0)).commit 1).2 = none := by decide
theorem test_jmp : pcOf (exec (.jmp h0 3) jobS) (.cox 0) = some 0x8018 := by decide

/-- The job's return stack holds n calls; its spill address is 0xE000. -/
def stackS (n : Nat) (spn : Nat) : State :=
  (jobC fun c => { c with cstk := cstkOf spn (0xE000 / 64) }).setCox (.cox 0)
    { jobS.cox (.cox 0) with stack := (List.range n).map fun i => BitVec.ofNat 64 (8 * i) }

theorem test_issues_call : Issues (stackS 16 3) (.cox 0) .noSpore h0 [] := by constructor <;> decide
theorem test_hyps_call : ((stackS 15 0).cox (.cox 0)).stack.length < 16 ∧
    16 ≤ ((stackS 16 65535).cox (.cox 0)).stack.length ∧ cstkSpn ((stackS 16 65535).ctx 0).cstk = 65535 ∧
    cstkSpn ((stackS 16 65534).ctx 0).cstk ≠ 65535 ∧
    (stackS 16 65534).chk 0 .store (BitVec.ofNat 64 (64 * cstkSpp ((stackS 16 65534).ctx 0).cstk)) 64 = .ok := by decide
theorem test_hyps_ret : ((stackS 1 0).cox (.cox 0)).stack = [0] ∧ ((stackS 0 0).cox (.cox 0)).stack = [] ∧
    cstkSpn ((stackS 0 0).ctx 0).cstk = 0 ∧ cstkSpn ((stackS 0 1).ctx 0).cstk ≠ 0 ∧
    (stackS 0 1).chk 0 .load (spillAddr (cstkSpp ((stackS 0 1).ctx 0).cstk + 2 ^ 42 - 1)) 64 = .ok := by decide
theorem test_call_spills : (match exec (.call h0 4) (stackS 16 3) with
    | .next u => ((u.cox (.cox 0)).stack.length, cstkSpn (u.ctx 0).cstk, cstkSpp (u.ctx 0).cstk, (u.stream (.cox 0)).pc,
        u.rawRead 0xE038 1)
    | _ => (0, 0, 0, 0, [])) = (9, 4, 0xE040 / 64, 0x8020, [0x40]) := by decide
theorem test_hyps_call_ret : ((jobS.stream (.cox 0)).pc &&& 7) = 0 ∧
    (match exec (.call h0 4) jobS with | .next u => decide ((u.stream (.cox 0)).pc = 0x8020 ∧ u.cur = .cox 0) | _ => false) = true := by
  decide
theorem test_ret_fills : (match exec (.ret h0) (stackS 0 1) with
    | .next u => ((u.cox (.cox 0)).stack.length, cstkSpn (u.ctx 0).cstk) | _ => (0, 0)) = (7, 0) := by decide
theorem test_ret_underflow : recOf (exec (.ret h0) (stackS 0 0)) = some (11, 2, 0) := by decide

/-! ## Cox words: memory -/

/-- s4 of SC0 holds a misaligned address. -/
def badS : State := svcS.setReg (.svc 0) 1 0x1004

/-- A poisoned piece of memory at 0x1000. -/
def poisonMemS : State := { svcS with poison := [0x100] }

/-- SC0 with its s1 a poisoned shadow of level 1. -/
def poisonRegS : State := svcS.setCox (.svc 0) ((svcS.cox (.svc 0)).put 1 1 0 (some poison))

theorem test_issues_load : Issues svcS (.svc 0) .any h0 [4, 1] := by constructor <;> decide
theorem test_issues_load_boosted : Issues badS (.svc 0) .any hb [4, 1] := by constructor <;> decide
theorem test_hyps_load : ((Instr.ldI16 h0 4 1 8).loadForm).isSome = true ∧ svcS.poisonOf (.svc 0) h0 [1] = none ∧
    svcS.chkCox (.svc 0) .load (svcS.srcOf (.svc 0) h0 1 + (8 : BitVec 24).signExtend 64) 8 = .ok ∧
    svcS.lineBusy (.svc 0) 0x1008 = false := by decide
theorem test_hyps_load_poison : poisonRegS.poisonOf (.svc 0) hb [1] = some poison := by decide
theorem test_hyps_load_boosted : badS.poisonOf (.svc 0) hb [1] = none ∧ hb.bl ≠ 0 ∧
    badS.chkCox (.svc 0) .load (badS.srcOf (.svc 0) hb 1 + (0 : BitVec 24).signExtend 64) 8 = .bad ⟨7, 0⟩ 0x1004 := by decide

/-- Bytes 0xFE 0xFF at 0x1008. -/
def memS : State := svcS.rawWrite 0x1008 [0xFE, 0xFF]

/-- The same machine in a slow turn; with the frame ownership table at 0x200000, away from the words. -/
def slowS : State := { svcS with slow := true }
def farS : State := { svcS with fotb := 0x200000 }
theorem test_hyps_late : slowS.slow = true ∧ svcS.slow = false ∧
    ((Instr.ldI16 h0 4 1 8).loadForm.map fun x => x.2.1.plain) = some true := by
  decide
theorem test_hyps_steady : farS.Steady ∧ svcS.Steady := ⟨fun _ _ _ h => (by cases h), fun _ _ _ h => (by cases h)⟩
theorem test_hyps_far : farS.fotFrames 0x1000 8 = [] ∧ svcS.fotFrames 0x30000 8 = [] ∧ farS.memWf = true := by decide
theorem test_late : (match exec (.ldI16 h0 4 1 8) slowS with
    | .next u => ((u.cox (.svc 0)).late.map fun l => (l.addr, l.size), (u.stream (.svc 0)).pc) | _ => ([], 0)) = ([(0x1008, 2)], 8) := by
  decide

/-- SC0's cache keeps the line of 0x1000 as it was before a change of keys. -/
def keptS : State :=
  { svcS with kept := [⟨.l1 (cacheUnit 1024), 0x20, List.replicate 128 7⟩] }.setL1 1024 { Cache.reset with lines := [0x20] }
theorem test_kept_line : keptS.keptFor 1024 0x20 .l1 = some (List.replicate 128 7) ∧
    regOf (exec (.ldN8 h0 4 1 8) keptS) (.svc 0) 4 = some 7 := by decide
/-- A .dom store of SC0 to the line of 0x1000 is on its way. -/
def domS : State := { svcS with posted := [⟨.svc 0, none, none, 0x1008, [1], true, []⟩] }
theorem test_hyps_load_waits : domS.domBusy (.svc 0) 0x1000 = true ∧ svcS.domBusy (.svc 0) 0x1000 = false ∧
    domS.lineBusy (.svc 0) 0x1000 = true ∧ inWindow 0x1008 = false ∧ inWindow 0x40_0000_0000 = true ∧ h0.bl.toNat = 0 ∧
    svcS.keptFor 1024 0x20 .l1 = none := by decide

theorem test_ld_signed : regOf (exec (.ldI16 h0 4 1 8) memS) (.svc 0) 4 = some 0xFFFF_FFFF_FFFF_FFFE := by decide
theorem test_ld_little_endian : regOf (exec (.ld h0 4 1 8) memS) (.svc 0) 4 = some 0xFFFE := by decide
theorem test_ld_below : regOf (exec (.ldN8 h0 4 1 7) memS) (.svc 0) 4 = some 0 := by decide
theorem test_ld_unsigned : regOf (exec (.ldN8 h0 4 1 9) memS) (.svc 0) 4 = some 0xFF := by decide

theorem test_issues_store : Issues svcS (.svc 0) .any h0 [3, 1] := by constructor <;> decide
theorem test_hyps_store : svcS.memWf = true ∧ ((Instr.stRel h0 3 1 0).storeForm).isSome = true ∧
    svcS.chkCox (.svc 0) .store (svcS.reg (.svc 0) 1 + (0 : BitVec 24).signExtend 64) 8 = .ok ∧
    svcS.released (.svc 0) true = true ∧ svcS.addr 1024 .store 0x1000 = 0x1000 := by decide

/-- A copy thread of SC0 lives. -/
def copyCmd : Cmd :=
  { opc := 0x0A0, tok := ⟨0, 0⟩, a := 0, b := 0, c := 0, mods := 0, pc := 0, forker := .svc 0, seq := 0, gen := 0 }
def liveS : State := svcS.setCtx 1024 { Ctx.reset with copies := [Copy.start copyCmd 0 0] }

/-- A remote store of SC0 is on its way. -/
def postedS : State := { svcS with posted := [⟨.svc 0, none, none, 2 ^ 41, [1], false, []⟩] }

theorem test_hyps_store_waits : liveS.released (.svc 0) false = false ∧ postedS.released (.svc 0) true = false := by decide

/-- Domain window 0 names device 1. -/
def remoteS : State := { svcS with dwin := [(0, 0x8001_0000_0000_0000)], reach := [1], remoteFot := [(2 ^ 19, 1)] }.setReg (.svc 0) 1 0x80_0000_0000

theorem test_issues_remote : Issues remoteS (.svc 0) .any h0 [3, 1] := by constructor <;> decide
theorem test_hyps_store_remote : remoteS.chkCox (.svc 0) .store 0x80_0000_0000 8 = .ok ∧
    2 ^ 40 ≤ remoteS.addr 1024 .store 0x80_0000_0000 := by decide
theorem test_hyps_store_dom : ((Instr.stDom h0 3 1 0).storeForm.map fun x => (x.2.1.rel, x.2.1.dom)) = some (false, true) ∧
    ((Instr.st h0 3 1 0).storeForm.map fun x => (x.2.1.rel, x.2.1.dom)) = some (false, false) := by decide
theorem test_st_dom_posts : (match exec (.stDom h0 3 1 0) remoteS with | .next u => u.posted.map (·.dom) | _ => []) = [true] := by
  decide
theorem test_st_posts : (match exec (.st h0 3 1 0) remoteS with | .next u => u.posted.length | _ => 0) = 1 := by decide
theorem test_st_bytes : (match exec (.stI16 h0 3 1 2) svcS with | .next u => u.rawRead 0x1000 5 | _ => []) =
    [0, 0, 0x77, 0, 0] := by decide

theorem test_issues_amo : Issues svcS (.svc 0) .any h0 [4, 1, 3] := by constructor <;> decide
theorem test_hyps_amo : ((Instr.amoAdd h0 .acqrelDom 4 1 3).amoForm.map fun x => (x.1, x.2.2.1)) = some (h0, [4, 1, 3]) ∧
    svcS.chkCox (.svc 0) .both (svcS.reg (.svc 0) 1) 8 = .ok ∧ svcS.lineBusy (.svc 0) 0x1000 = false ∧
    domS.lineBusy (.svc 0) 0x1008 = true ∧ remoteS.chkCox (.svc 0) .both (remoteS.reg (.svc 0) 1) 8 = .ok ∧
    Machine.AmoOrd.rel .acqrelDom = true ∧ Machine.AmoOrd.dom .acqrelDom = true := by decide
theorem test_amo_old : regOf (exec (.amoAdd h0 .plain 4 1 3) (svcS.rawWrite 0x1000 [5])) (.svc 0) 4 = some 5 := by decide
theorem test_amo_new : (match exec (.amoAdd h0 .plain 4 1 3) (svcS.rawWrite 0x1000 [5]) with
    | .next u => u.rawRead 0x1000 1 | _ => []) = [0x7C] := by decide
theorem test_cas_fails : (match exec (.cas h0 .plain 4 1 3 2) (svcS.rawWrite 0x1000 [5]) with
    | .next u => u.rawRead 0x1000 1 | _ => []) = [5] := by decide

theorem test_hyps_faulting : (0x1004 : Word).toNat % 8 ≠ 0 ∧ h0.bl = 0 ∧
    badS.chkCox (.svc 0) .load (badS.reg (.svc 0) 1 + (0 : BitVec 24).signExtend 64) 8 = .bad ⟨7, 0⟩ 0x1004 ∧
    badS.chkCox (.svc 0) .store (badS.reg (.svc 0) 1 + (0 : BitVec 24).signExtend 64) 8 = .bad ⟨7, 0⟩ 0x1004 ∧
    poisonMemS.chkCox (.svc 0) .both (poisonMemS.reg (.svc 0) 1) 8 = .bad ⟨18, 1⟩ 0x1000 ∧
    jobS.chkCox (.cox 0) .load (2 ^ 48) 8 = .bad ⟨16, 5⟩ (2 ^ 48) := by decide

/-- WAITA: the word differs, equals, is remote, its slice is full. -/
def waitS : State := svcS.setReg (.svc 0) 2 0
def fullS : State :=
  { waitS with watches := List.replicate 1024 { who := .svc 1, fence := none, addr := 0x1000, va := 0x1000, hit := none, touched := false } }
theorem test_issues_waita : Issues svcS (.svc 0) .any h0 [1, 2] := by constructor <;> decide
theorem test_hyps_waita : svcS.chkCox (.svc 0) .watch (svcS.reg (.svc 0) 1) 8 = .ok ∧
    svcS.readWord 0x1000 ≠ svcS.reg (.svc 0) 2 ∧ waitS.readWord 0x1000 = waitS.reg (.svc 0) 2 ∧
    waitS.watchCount (homeSlice 0x1000) < 1024 := by decide
theorem test_hyps_waita_full : 1024 ≤ fullS.watchCount (homeSlice 0x1000) := by decide
/-- SC0's store to the line that it waits on is on its way; it waits on a remote word. -/
theorem test_hyps_waita_line : ({ svcS with posted := [⟨.svc 0, none, none, 0x1000, [1], false, []⟩] } : State).lineBusy (.svc 0) 0x1000 = true ∧
    svcS.lineBusy (.svc 0) 0x1000 = false ∧ remoteS.chkCox (.svc 0) .watch 0x80_0000_0000 8 = .ok ∧
    2 ^ 40 ≤ remoteS.addr 1024 .watch 0x80_0000_0000 := by decide
theorem test_waita_parks : (match exec (.waita h0 1 2) waitS with
    | .next u => some ((u.stream (.svc 0)).status, u.watches.length) | _ => none) = some (.parked, 1) := by decide

theorem test_hyps_fence : svcS.forksDone (.svc 0) = true ∧ svcS.remoteDone (.svc 0) = true ∧
    liveS.forksDone (.svc 0) = false ∧ postedS.remoteDone (.svc 0) = false := by decide

/-- Queue 2 of partition 1 is RUNNING with its ring in the page at 0x40000; SC0 pushes the packet at 0x1000. -/
def ringS : State :=
  let s := (svcS.rawWrite 0x1000 [3]).setQueue 1 2 { Queue.reset with d0 := 0x401, ring := some [0x40000] }
  s.setReg (.svc 0) 2 0x12
theorem test_issues_wqpush : Issues ringS (.svc 0) .any h0 [1, 2] := by constructor <;> decide
theorem test_hyps_wqpush : ringS.forksDone (.svc 0) = true ∧ (ringS.reg (.svc 0) 1).toNat % 256 = 0 ∧
    ringS.chk 1024 .load (ringS.reg (.svc 0) 1) 256 = .ok ∧
    natLE ((((ringS.joinForks (.svc 0)).readV 1024 .load .l1 0x1000 256).1).take 1) % 16 ≠ 0 ∧
    (ringS.queue 1 2).state ≠ 0 ∧ (ringS.queue 1 2).ring = some [0x40000] ∧ (ringS.queue 1 2).room = true ∧
    fieldOf (ringS.reg (.svc 0) 2) 4 6 = 1 ∧ fieldOf (ringS.reg (.svc 0) 2) 0 4 = 2 := by decide
theorem test_wqpush : (match exec (.wqpush h0 1 2) ringS with
    | .next u => ((u.queue 1 2).tail, u.rawRead 0x40000 1) | _ => (0, [])) = (1, [3]) := by decide

/-! ## Cox words: streams, tokens, queues -/

/-- Both other streams of the job have joined. -/
def quietS : State :=
  (jobS.setAcc 0 { Acc.reset with run := at_ 0 .joined }).setVec 0 { Vec.reset with run := at_ 0 .joined }

/-- The job's queue is SUSPENDING. -/
def leaveS : State := quietS.setQueue 1 2 { Queue.reset with d0 := 0x402 }

theorem test_issues_go : Issues quietS (.cox 0) .coxOnly h0 [1, 2] := by constructor <;> decide
theorem test_hyps_go : jobS.quiet 0 = false ∧ quietS.quiet 0 = true := by decide
/-- A word in the mailbox keeps GO and NODE waiting. -/
theorem test_hyps_quiet_mail : (leaveS.setCtx 0 { leaveS.ctx 0 with mailbox := [⟨9, 0, true, false⟩] }).quiet 0 = false := by
  decide
theorem test_go : (match exec (.go h0 1 2) quietS with
    | .next u => ((u.acc 0).run.pc, (u.vec 0).run.pc) | _ => (0, 0)) = (0x1000, 0x2000) := by decide
theorem test_join : (match exec (.join h0) jobS with | .next u => some (u.stream (.cox 0)).status | _ => none) = some .joined := by
  decide
theorem test_hyps_node : jobS.leaving 0 = false ∧ leaveS.leaving 0 = true ∧ leaveS.quiet 0 = true ∧
    (leaveS.setAcc 0 Acc.reset).leaving 0 = true ∧ (leaveS.setAcc 0 Acc.reset).quiet 0 = false ∧
    (leaveS.ctx 0).job = some job ∧ leaveS.chk 0 .store (job.nest.save + BitVec.ofNat 64 0) 128 = .ok := by decide
theorem test_node_leaves : (match exec (.node h0) leaveS with | .next u => (u.ctx 0).job.isNone | _ => false) = true := by decide

/-- t1 holds 5. -/
def tokS : State := jobC fun c => c.setToken 1 5
theorem test_issues_tok : Issues tokS (.cox 0) .any h0 [] := by constructor <;> decide
theorem test_hyps_twait : (tokS.ctx 0).token 1 < 6 ∧ (5 : BitVec 16) ≤ (tokS.ctx 0).token 1 ∧ (0 : BitVec 16) < 5 := by decide
/-- The head of the holder's mxq, and that of the cpq, take of t1 in this cycle. -/
def takesS (mx : Bool) : State :=
  let c1 : Cmd := { opc := 0x096, tok := ⟨1, 0⟩, a := 0, b := 0, c := 0, mods := 0, pc := 0x8000, forker := .cox 0, seq := 0, gen := 0 }
  let s := jobC fun c => if mx then { c.setToken 1 5 with mxq := [c1] } else { c.setToken 1 5 with cpq := [{ c1 with opc := 0x0A0 }] }
  s.setCrew 0 { s.crew 0 with lease := some ⟨0, 0, 0, none, 0, 0⟩ }
theorem test_hyps_twait_engine : (takesS true).mxTakes 0 1 = true ∧ (takesS false).cpTakes 0 1 = true ∧
    tokS.mxTakes 0 1 = false ∧ tokS.cpTakes 0 1 = false := by decide
theorem test_twait_behind : (match exec (.twait h0 1 5) (takesS true) with
    | .next u => ((u.ctx 0).token 1, (u.stream (.cox 0)).pc) | _ => (9, 0)) = (5, 0x8000) := by decide
theorem test_twait : (match exec (.twait h0 1 5) tokS with | .next u => (u.ctx 0).token 1 | _ => 9) = 0 := by decide
theorem test_tsig_stops : (match exec (.tsig h0 1 65535) tokS with | .next u => (u.ctx 0).token 1 | _ => 0) = 65535 := by decide

def aCall : Call := { ty := .scal, payload := 7, g := 0 }
def callS (n : Nat) : State := jobC fun c => { c with cqv := List.replicate n aCall, cqa := List.replicate n aCall,
                                                      fq := List.replicate (n / 4) 0 }
theorem test_issues_call_words : Issues (callS 63) (.cox 0) .coxOnly h0 [1] := by constructor <;> decide
theorem test_hyps_calls : ((callS 63).ctx 0).cqv.length < 64 ∧ 64 ≤ ((callS 64).ctx 0).cqv.length ∧
    ((callS 63).ctx 0).cqa.length < 64 ∧ 64 ≤ ((callS 64).ctx 0).cqa.length ∧
    ((callS 63).ctx 0).fq.length < 16 ∧ ((callS 63).ctx 0).held = [] ∧ 16 ≤ ((callS 64).ctx 0).fq.length := by decide
theorem test_callv : (match exec (.callv h0 .scal 3 0) jobS with | .next u => (u.ctx 0).cqv | _ => []) =
    [{ ty := .scal, payload := 0x77, g := 0 }] := by decide
theorem test_calla : (match exec (.calla h0 .stride 3 4) jobS with | .next u => (u.ctx 0).cqa | _ => []) =
    [{ ty := .stride, payload := 0x77, g := 4 }] := by decide
theorem test_fmtp : (match exec (.fmtp h0 3) jobS with | .next u => (u.ctx 0).fq | _ => []) = [0x77] := by decide

def rqS : State := jobC fun c => { c with rq := [0x55, 0x66], mailbox := [{ value := 9, at_ := 0, ready := true, bad := false }] }
theorem test_issues_rqp : Issues rqS (.cox 0) .coxOnly h0 [4] := by constructor <;> decide
theorem test_hyps_rqp : (jobS.ctx 0).rq = [] ∧ (rqS.ctx 0).rq = [0x55, 0x66] ∧
    (rqS.ctx 0).mailbox = [{ value := 9, at_ := 0, ready := true, bad := false }] := by decide
theorem test_hyps_rqp_poison : rqS.headPoisoned 0 8 = false ∧
    ({ rqS with poison := [queuePiece 0 8 0] } : State).headPoisoned 0 8 = true ∧ rqS.crewNow (crewOf 0) < 0 + 24 ∧
    0 + 24 ≤ ({ rqS with now := 24 } : State).crewNow (crewOf 0) := by decide
theorem test_mbrecv_damaged : intakeOf (exec (.mbrecv h0 4) (jobC fun c => { c with
    mailbox := [{ value := 9, at_ := 0, ready := true, bad := true }] })) = some (18, 1) := by decide
theorem test_rqp : regOf (exec (.rqp h0 4) rqS) (.cox 0) 4 = some 0x55 := by decide
theorem test_mbrecv : regOf (exec (.mbrecv h0 4) rqS) (.cox 0) 4 = some 9 := by decide

/-- A second job of the same record family runs in context 1 of core 0, the peer in place 0. -/
def peerS : State := jobS.setCtx 1 { Ctx.reset with job := some job }
theorem test_issues_mbsend : Issues peerS (.cox 0) .coxOnly h0 [3] := by constructor <;> decide
theorem test_hyps_mbsend : peerS.peer 0 0 = some 1 ∧ (peerS.ctx 1).mailbox.length < 16 := by decide
theorem test_hyps_mbsend_waits : jobS.peer 0 0 = none ∧
    16 ≤ ((peerS.setCtx 1 { Ctx.reset with job := some job, mailbox := List.replicate 16 ⟨9, 0, true, false⟩ }).ctx 1).mailbox.length := by decide
theorem test_mbsend : (match exec (.mbsend h0 3 0) peerS with | .next u => (u.ctx 1).mailbox.length | _ => 0) = 1 := by decide

/-! ## Cox words: engine commands -/

def mxCmd : Cmd :=
  { opc := 0x090, tok := ⟨0, 0⟩, a := 0, b := 0, c := 0, mods := 0, pc := 0x8000, forker := .cox 0, seq := 0, gen := 0 }
def mxqS (n : Nat) : State := jobC fun c => { c with mxq := List.replicate n mxCmd }
theorem test_issues_mx : Issues (mxqS 31) (.cox 0) .coxOnly h0 [1, 2, 3] := by constructor <;> decide
theorem test_hyps_mx : (Instr.mxmm h0 ⟨0, 0⟩ 1 2 3 false false false).mxForm.isSome = true ∧
    ((mxqS 31).ctx 0).mxCount < 32 ∧ 32 ≤ ((mxqS 32).ctx 0).mxCount ∧ ((mxqS 31).ctx 0).held = [] := by decide
theorem test_mxswp_issues : (match exec (.mxswp h0 ⟨2, 3⟩ 1 2 true) jobS with
    | .next u => (u.ctx 0).mxq.map fun x => (x.tok, x.a, x.b, x.mods) | _ => []) = [(⟨2, 3⟩, 0x1000, 0x2000, 1)] := by decide

def mx0 : Mx :=
  { cmd := mxCmd, tookTok := true, began := true, fmt := 0, pos := 0, rows := 1, due := 0, status := 0, handle := 0,
    nan := false, inf := false, ovf := false, iev := false, rpl := false, sum := 0, out := [], stored := 0, pins := [], again := false,
    finished := false, stopped := false }
def heldS (p : MxStop) : State :=
  jobC fun c => { c with held := [{ mx := mx0, stop := some p, at_ := 0, host := false, code := 0, told := true, ahead := 0, fqAhead := 0 }] }
theorem test_issues_mxres : Issues (heldS .miss) (.cox 0) .coxOnly h0 [] := by constructor <;> decide
theorem test_hyps_mxres : ((heldS .miss).ctx 0).held.map (fun x => x.stop) = [some .miss] ∧
    ((heldS .format).ctx 0).held.map (fun x => x.stop) = [some .format] ∧
    ((heldS .privileged).ctx 0).held.map (fun x => x.stop) = [some .privileged] := by decide
theorem test_hyps_mxres_up : ∀ y ∈ (jobS.ctx 0).held, y.stop = none := by decide
theorem test_mxres_restarts : (match exec (.mxres h0 false) (heldS .miss) with
    | .next u => (u.ctx 0).held.map fun x => x.stop | _ => []) = [none] := by decide

def cpqS (n : Nat) : State := jobC fun c => { c with cpq := List.replicate n copyCmd }
theorem test_issues_cp : Issues (cpqS 15) (.cox 0) .coxOnly h0 [1, 2, 3] := by constructor <;> decide
theorem test_hyps_cp : ((Instr.cpy h0 ⟨0, 0⟩ 1 2 3 false false).cpForm.map fun x => x.1) = some .coxOnly ∧
    ((cpqS 15).ctx 0).cpq.length < 16 ∧ 16 ≤ ((cpqS 16).ctx 0).cpq.length := by decide
theorem test_cpy_issues : (match exec (.cpy h0 ⟨1, 2⟩ 1 2 3 false true) jobS with
    | .next u => (u.ctx 0).cpq.map fun x => (x.opc, x.a, x.c) | _ => []) = [(0x0A0, 0x1000, 0x77)] := by decide

/-- The first GiB of partition 1 is mapped to itself by tables at 0x100000, and its first frame belongs to it. -/
def mapped (s : State) : State :=
  let s1 := (s.rawWrite 0x100000 (bytesLE 8 0x101001)).rawWrite 0x101000 (bytesLE 8 0x1F)
  { s1.rawWrite 0x200000 [0x81] with fotb := 0x200000 }

/-- SC0 takes a reference of entry 1 of partition 1's residency table of 2 entries at 0x50000, which is RESIDENT. -/
def rtS (w : Nat) : State :=
  let s := mapped (svcS.rawWrite 0x50020 (bytesLE 8 w))
  (s.setPart 1 { Part.reset with pd0 := 0x8000_0000_0010_0000, rtd0 := 0x50000, rtd1 := 2 }).setReg (.svc 0) 1 0x10001
theorem test_issues_rtacq : Issues (rtS 0x30002) (.svc 0) .any h0 [1, 0, 0] := by constructor <;> decide
theorem test_hyps_cp_svc : ((Instr.rtacq h0 ⟨0, 0⟩ 1).cpForm.map fun x => x.1) = some .any ∧
    ((rtS 0x30002).ctx 1024).waitReady ⟨0, 0⟩ = true ∧ (rtS 0x30002).svcThreads 0 < 4 ∧ (liveS.ctx 1024).waitReady ⟨3, 0⟩ = false := by decide
/-- Whether a thread's start comes to a started command. -/
def starts (x : Started) : Bool := match x with | .run _ _ => true | _ => false
theorem test_hyps_cp_start : starts ((rtS 0x30002).startCopy 1024
    (Copy.start { copyCmd with opc := 0x0A8, a := 0x10001 } 0 0)) = true := by decide
theorem test_rtacq_completes : (match exec (.rtacq h0 ⟨0, 0⟩ 1) (rtS 0x30002) with
    | .next u => ((u.ctx 1024).copies.length, fieldOf (u.ctx 1024).cpst 40 8, fieldOf (u.ctx 1024).cpst 0 4) | _ => (9, 9, 9)) =
    (0, 0xA8, 0) := by decide
theorem test_issues_rtrel : Issues (rtS 0x30002) (.svc 0) .any h0 [4, 1] := by constructor <;> decide
theorem test_hyps_rtrel : (rtS 0x30002).released (.svc 0) false = true ∧
    (rtS 0x30002).rtName 1024 0x10001 = (1, 1) ∧ rtCount ((rtS 0).part 1) = 2 ∧
    (rtS 0x30002).rtChk 1024 1 1 0 = .ok ∧ rtRef ((rtS 0x30002).rtGet 1024 1 1 0) = 3 ∧
    rtState ((rtS 0x30002).rtGet 1024 1 1 0) = 2 ∧ rtRef ((rtS 2).rtGet 1024 1 1 0) = 0 ∧
    rtState ((rtS 0x30004).rtGet 1024 1 1 0) = 4 ∧ (rtS 0).rtName 1024 0x10002 = (1, 2) := by decide
theorem test_rtrel : regOf (exec (.rtrel h0 4 1) (rtS 0x30002)) (.svc 0) 4 = some 2 := by decide
theorem test_rtqry : regOf (exec (.rtqry h0 4 1 0) (rtS 0x30002)) (.svc 0) 4 = some 0x30002 := by decide

/-! ## The grammar unit -/

/-- A loaded automaton of 2 states, 2 classes and 1 chunk, its tables at 0x3000 and 0x4000. -/
def gram : Grammar :=
  { Grammar.reset with loaded := true, ns := 2, ncls := 2, nch := 1, cls := 0x3000, tt := 0x4000,
                       snaps := [(1, some (1, [0]))], cache := [(0, some (0, 0, 0xFF, 0))] }
def gramS : State :=
  ((jobC fun c => { c with grammar := gram }).rawWrite 0x3005 [1]).setReg (.cox 0) 1 5 |>.rawWrite 0x4004 [1]
theorem test_issues_gmld : Issues jobS (.cox 0) .job h0 [1] := by constructor <;> decide
theorem test_hyps_gmld : (jobS.ctx 0).grammar.load = none ∧ (jobS.ctx 0).waitReady ⟨0, 0⟩ = true ∧ (jobS.ctx 0).handling = none := by
  decide
theorem test_gmld : (match exec (.gmld h0 ⟨0, 0⟩ 3) jobS with
    | .next u => (u.ctx 0).grammar.load.map fun x => x.a | _ => none) = some 0x40 := by decide
theorem test_issues_gm : Issues gramS (.cox 0) .job h0 [4, 1] := by constructor <;> decide
theorem test_hyps_gmstep : (gramS.ctx 0).grammar = gram ∧ gram.load = none ∧ gram.loaded = true ∧
    (gramS.reg (.cox 0) 1).toNat % 2 ^ 32 = 5 ∧ gramS.chk 0 .load 0x3005 1 = .ok ∧ natLE (gramS.readV 0 .load .l1 0x3005 1).1 = 1 ∧
    natLE (gramS.readV 0 .load .l1 0x3005 1).1 < gram.ncls ∧ 5 < 512 * gram.nch ∧
    gramS.chk 0 .load 0x4004 4 = .ok ∧ (gram.move 1).toOption = some { gram with state := 1 } := by decide
theorem test_gmstep : (match exec (.gmstep h0 1) gramS with | .next u => (u.ctx 0).grammar.state | _ => 0) = 1 := by decide
theorem test_hyps_gmmask : (gramS.setReg (.cox 0) 1 0).reg (.cox 0) 1 = 0 ∧ gram.lookup 0 = some (0xFF, 0) := by decide
theorem test_gmmask : regOf (exec (.gmmask h0 4 1 0) (gramS.setReg (.cox 0) 1 0)) (.cox 0) 4 = some 0xFF := by decide
theorem test_hyps_gmrest : gram.snaps.get 1 none = some (1, [0]) ∧ gram.snaps.get 2 none = none ∧
    (jobS.ctx 0).grammar.loaded = false := by decide
theorem test_gmrest : (match exec (.gmrest h0 4 1) gramS with | .next u => (u.ctx 0).grammar.state | _ => 0) = 1 := by decide
theorem test_gmsave_unloaded : recOf (exec (.gmsave h0 4 1) jobS) = some (6, 1, 0) := by decide
theorem test_rdtsf : regOf (exec (.rdtsf h0 4 3) (jobC fun c => { c with tsf := [(3, 0x99)] })) (.cox 0) 4 = some 0x99 := by decide

/-! ## Exceptions and system words -/

/-- A user record of the job's cox. -/
def rec0 : Record :=
  { cls := 7, sub := 0, unit := .cox, part := 1, core := 0, ctx := 0, rst := true, pc := 0x8000, addr := 0x1004, w3 := 0,
    cut := [], tok := [], cutv := false, set := false, budg := 0, psv := 5, home := 0, gen := 0, at_ := 0,
    addPending := false, thread := none }

/-- The job handles a record. -/
def handS (r : Record) : State := jobC fun c => { c with handling := some r, epc := 0x8008 }

/-- SC0's intake holds n records. -/
def intakeS (n : Nat) (in_ : Bool) (fact : Word) : State :=
  svcS.setSvc 0 { Service.reset with intake := List.replicate n { rec0 with cls := 16 }, sin := in_, fact := fact, svec := 0x600,
                                     sepc := 0x700 }

theorem test_hyps_fault : privClass ⟨7, 0⟩ = false ∧ (jobS.ctx 0).handling = none ∧ ((handS rec0).ctx 0).handling = some rec0 ∧
    privClass ⟨16, 1⟩ = true ∧ (jobS.svc 0).intake.length < 16 ∧ 16 ≤ ((intakeS 16 false 0).svc 0).intake.length ∧
    ((intakeS 0 true 0).svc 0).sin = true ∧ ((intakeS 0 false 0).svc 0).sin = false := by decide
theorem test_fault_user : recOf (exec (.ld h0 4 1 4) jobS) = some (7, 0, 0x1004) := by decide
theorem test_fault_privileged_page : (match exec (.st h0 2 1 0) (jobS.setReg (.cox 0) 1 0x1_0000_0000_0000) with
    | .next u => (u.svc 0).intake.map fun r => (r.cls, r.sub) | _ => []) = [(16, 5)] := by decide
theorem test_fault_in_trap : (match exec (.ldI16 h0 4 1 1) ((intakeS 0 true 0).setReg (.svc 0) 1 0) with
    | .next u => some (u.stream (.svc 0)).status | _ => none) = some .crashed := by decide

/-- A record of the job waits for its cox's turn in a slot of its own. -/
def deliverS : State :=
  let s := jobC fun c => { c with records := [rec0] }
  let s1 := s.setCox (.cox 0) { s.cox (.cox 0) with run := at_ 0x8000 .stopped, preds := 0x0A }
  s1.setCore 0 { CoreSt.reset with slots := [(0, 1)] }
theorem test_delivery_turn : GivesTurn deliverS { deliverS with slow := false } (.cox 0) :=
  .inr (.inr ⟨by decide, by decide, by decide, rfl⟩)
theorem test_delivery_cycle : HasCycle { deliverS with slow := false } (.cox 0) :=
  ⟨by decide, fun j e => by rcases e with e | ⟨_, e⟩ <;> cases e; decide⟩
theorem test_hyps_delivery : deliverS.deliverable 0 = some rec0 ∧ (deliverS.ctx 0).job = some job := by decide
theorem test_delivery : (match step deliverS with
    | .next u => ((u.stream (.cox 0)).pc, (u.ctx 0).epc, (u.ctx 0).hst, (u.ctx 0).handling.map fun r => r.psv)
    | _ => (0, 0, 0, none)) = (0xB000, 0x8000, 3, some 5) := by decide
theorem test_trap_turn : GivesTurn (intakeS 1 false 0) { intakeS 1 false 0 with slow := false } (.svc 0) :=
  .inr (.inr ⟨by decide, by decide, by decide, rfl⟩)
theorem test_trap_cycle : HasCycle { intakeS 1 false 0 with slow := false } (.svc 0) :=
  ⟨by decide, fun _ e => by rcases e with e | ⟨_, e⟩ <;> cases e⟩
theorem test_hyps_trap :
    ((intakeS 1 false 0).svc 0).intake ≠ [] ∧ ((intakeS 1 false 0).svc 0).sin = false ∧
    ((intakeS 1 false 0).stream (.svc 0)).status = .ready := by decide
theorem test_trap : pcOf (step (intakeS 1 false 0)) (.svc 0) = some 0x600 := by decide

theorem test_hyps_eret : (handS rec0).cur = .cox 0 ∧ (((handS rec0).cox (.cox 0)).pred 0 0).1 = true ∧
    ((handS rec0).ctx 0).handling = some rec0 ∧ rec0.rst = true ∧ rec0.home = 0 ∧
    ({ rec0 with rst := false } : Record).rst = false := by decide
theorem test_eret : (match exec (.eret h0) (handS rec0) with
    | .next u => ((u.stream (.cox 0)).pc, (u.cox (.cox 0)).preds, (u.ctx 0).handling) | _ => (0, 0, none)) = (0x8008, 0x0A, none) := by
  decide
/-- A stopped stream of its job, whose record is handled. -/
def laneStopS (u : Machine.Unit) : State :=
  ((handS { rec0 with unit := u }).setAcc 0 { Acc.reset with run := at_ 0x9000 .stopped }).setVec 0
    { Vec.reset with run := at_ 0xA000 .stopped }
theorem test_hyps_eret_lanes : ((laneStopS .acc).acc 0).run.status = .stopped ∧ ((laneStopS .vec).vec 0).run.status = .stopped ∧
    ((laneStopS .acc).ctx 0).handling = some { rec0 with unit := .acc } ∧
    ((laneStopS .vec).ctx 0).handling = some { rec0 with unit := .vec } := by decide
theorem test_hyps_eret_svc : (((intakeS 1 true 1).cox (.svc 0)).pred 0 0).1 = true ∧ ((intakeS 1 true 1).svc 0).sin = true ∧
    fieldOf ((intakeS 1 true 0).svc 0).fact 0 2 = 0 ∧ fieldOf ((intakeS 1 true 1).svc 0).fact 0 2 = 1 ∧
    fieldOf ((intakeS 1 true 2).svc 0).fact 0 2 = 2 ∧ fieldOf ((intakeS 1 true 3).svc 0).fact 0 2 = 3 ∧
    ((intakeS 0 true 0).svc 0).intake = [] ∧ ((intakeS 1 true 0).svc 0).intake = [{ rec0 with cls := 16 }] := by decide
/-- A stopped spore of its job, whose record is handled. -/
def sporeStopS : State :=
  (handS { rec0 with unit := .spore 1 }).setCox (.spore 0 1) { Cox.reset with run := at_ 0x8200 .stopped }
theorem test_hyps_eret_spore : (sporeStopS.cox (.spore 0 1)).run.status = .stopped ∧ sporeStopS.cur = .cox 0 ∧
    (sporeStopS.ctx 0).handling = some { rec0 with unit := .spore 1 } ∧ rec0.rst = true := by decide
theorem test_eret_spore : (match exec (.eret h0) sporeStopS with
    | .next u => ((u.stream (.spore 0 1)).status, (u.stream (.spore 0 1)).pc) | _ => (.off, 0)) = (.ready, 0x8200) := by decide
theorem test_eret_svc : pcOf (exec (.eret h0) (intakeS 1 true 0)) (.svc 0) = some 0x700 := by decide

theorem test_trap_word : recOf (exec (.trap h0 0x1234) jobS) = some (10, 0, 0x1234) := by decide
theorem test_issues_fltrd : Issues (handS rec0) (.cox 0) .any h0 [4] := by constructor <;> decide
theorem test_hyps_fltrd : jobS.currentRecord (.cox 0) = none ∧ (handS rec0).currentRecord (.cox 0) = some rec0 ∧
    rec0.cutv = false ∧ rec0.unit ≠ .none ∧ (3 : BitVec 4) < 4 ∧ (4 : BitVec 4) ≤ 13 := by decide
theorem test_fltrd_addr : regOf (exec (.fltrd h0 4 2) (handS rec0)) (.cox 0) 4 = some 0x1004 := by decide
theorem test_hyps_halt : svcS.remoteDone (.svc 0) = true := by decide
theorem test_issues_halt : Issues svcS (.svc 0) .svcOnly h0 [] := by constructor <;> decide
theorem test_halt : (match exec (.halt h0) svcS with | .next u => some (u.stream (.svc 0)).status | _ => none) = some .halted := by
  decide
theorem test_hyps_killj : jobS.reg (.cox 0) 0 = 0 ∧ jobS.reg (.cox 0) 1 ≠ 0 ∧ (Thread.svc 0).isSvc = true ∧
    (Thread.cox 0).isSvc = false := by decide
theorem test_issues_killj : Issues jobS (.cox 0) .any h0 [0] ∧ Issues svcS (.svc 0) .any h0 [1] :=
  ⟨by constructor <;> decide, by constructor <;> decide⟩
theorem test_killj : (match exec (.killj h0 0) jobS with
    | .next u => (match (u.ctx 0).job with | some j => j.killed | none => true) | _ => false) = true := by decide

/-- Spore 1 is armed under tag 7; s1 arms spore 0 under it, s2 names spore 2, which the job does not have. -/
def sporeS : State :=
  ((jobC fun c => { c with spores := [(1, ⟨.armed, 7⟩)] }).setReg (.cox 0) 1 7).setReg (.cox 0) 2 0x20007
theorem test_issues_sparm : Issues sporeS (.cox 0) .job h0 [1] := by constructor <;> decide
theorem test_hyps_sparm : (sporeS.ctx 0).sporeCount = 2 ∧ (sporeS.reg (.cox 0) 2).toNat / 2 ^ 16 % 4 = 2 ∧
    (∀ i, i < 4 → ((sporeS.ctx 0).spore i).state.busy = true → i ≠ 0) := by decide
theorem test_sparm : (match exec (.sparm h0 1) sporeS with
    | .next u => [(u.ctx 0).spore 0, (u.ctx 0).spore 1] | _ => []) = [⟨.armed, 7⟩, ⟨.idle, 0⟩] := by decide
theorem test_sparm_absent : recOf (exec (.sparm h0 2) sporeS) = some (1, 0, 0) := by decide
def runS : State := { jobC fun c => { c with spores := [(1, ⟨.running, 7⟩)] } with cur := .spore 0 1 }
theorem test_issues_spend : Issues runS (.spore 0 1) .sporeOnly h0 [] := by constructor <;> decide
theorem test_hyps_spend : runS.remoteDone (.spore 0 1) = true := by decide
theorem test_spend : (match exec (.spend h0) runS with | .next u => some ((u.ctx 0).spore 1).state | _ => none) = some .armed := by
  decide

theorem test_hyps_sysregs : sysGate (.cox 0) 0x7FF = 1 ∧ sysGate (.cox 0) 0x055 = 3 ∧ sysGate (.cox 0) 0x045 = 0 ∧
    sysGate (.svc 0) 0x045 = 1 ∧ sysGate (.svc 0) 0x054 = 0 ∧ SysReg.of 0x045 = some .epc ∧ SysReg.of 0x054 = some .fotb ∧
    SysReg.of 0x7FF = none ∧ svcS.sysWrite (.svc 0) .fotb 0x1000 = some { svcS with fotb := 0x1000 } ∧
    postedS.remoteDone (.svc 0) = false ∧ svcS.remoteDone (.svc 0) = true := by decide
theorem test_hyps_sysregs_waits : (jobC id).sysWrite (.cox 0) .epc 8 ≠ none ∧ Form.any.legal (.cox 0) [4] = true := by decide
theorem test_rdsys_plane_mask : regOf (exec (.rdsys h0 4 0x041) jobS) (.cox 0) 4 = some 0x0000_FFFF_0000_0000 := by decide
theorem test_wrsys_epc : (match exec (.wrsys h0 3 0x045) jobS with | .next u => (u.ctx 0).epc | _ => 0) = 0x70 := by decide

/-! ## Coolant words -/

/-- Zone 3 is WET with a grant of 10, owned by partition 1 of a quota of 20; SC0's request is first at the allocator. -/
def zoneOf (st grant : Nat) (own : Nat) : Zone :=
  let z := ((Zone.reset.setState st).setGrant grant).put 24 6 own
  z.put 23 1 1
def clReq (target : Byte) (novfin : Bool) : ClReq :=
  { svc := 0, at_ := 0, tok := ⟨0, 0⟩, opnd := if novfin then 0x8103 else 0x103, target := target, rel := false, fwd := false,
    host := none, ok := none, done := false }
def clS (st : Nat) (own : Nat) (target : Byte) (novfin : Bool) (quota : BitVec 9) (used : Nat) : State :=
  let s := { svcS with clQueue := [clReq target novfin], reserved := [(9, used)], now := 1,
                       boot := { Boot.reset with passed := 15 } }
  (s.setZone 3 (zoneOf st 10 own)).setPart 1 { Part.reset with quota := quota }
theorem test_issues_clreq : Issues svcS (.svc 0) .svcOnly h0 [1, 2] := by constructor <;> decide
theorem test_hyps_clreq : (svcS.ctx 1024).waitReady ⟨0, 0⟩ = true ∧ (svcS.ctx 1024).waitReady ⟨1, 0⟩ = false := by decide
/-- A CLREL of SC0 stands in the allocator's queue, behind a CLREQ. -/
def relS : State := { svcS with clQueue := [clReq 12 false, { clReq 0 false with rel := true, opnd := svcS.reg (.svc 0) 1 }] }
theorem test_hyps_clrel : (∀ x ∈ svcS.clQueue, ClReq.isRel 0 0x1000 x = false) ∧
    relS.clQueue[1]? = some { clReq 0 false with rel := true, opnd := 0x1000 } ∧
    ClReq.isRel 0 0x1000 { clReq 0 false with rel := true, opnd := 0x1000 } = true ∧
    (∀ y ∈ relS.clQueue.take 1, ClReq.isRel 0 0x1000 y = false) := by decide
theorem test_clrel_joins : (match exec (.clrel h0 1) svcS with
    | .next u => (u.clQueue.map fun r => r.rel, (u.stream (.svc 0)).pc) | _ => ([], 9)) = ([true], 0) := by decide
theorem test_hyps_allocator :
    let s := clS 1 1 12 false 20 0
    s.clFirst [] s.clQueue 0 = some 0 ∧ s.clQueue[0]? = some (clReq 12 false) ∧ s.assisted 3 = false := by decide
/-- A request that came in host-assisted mode, forwarded by nobody yet, and one that the host has accepted; a CLREL at the
allocator; zones whose die has placed an iteration in the cycle, or has not passed test. -/
def clQ (r : ClReq) : State := { clS 1 1 12 false 20 0 with clQueue := [r] }
theorem test_hyps_allocator_modes :
    let f := { clReq 12 false with fwd := true }
    let a := { f with ok := some true }
    let l := { clReq 0 false with rel := true }
    (clQ f).clFirst [] (clQ f).clQueue 0 = some 0 ∧ f.fwd = true ∧ f.ok = none ∧
    (clQ a).clFirst [] (clQ a).clQueue 0 = some 0 ∧ a.ok ≠ none ∧ (clQ l).clFirst [] (clQ l).clQueue 0 = some 0 ∧
    (clQ f).catOpen = true ∧ ((clQ f).setDie 0 { Die.reset with placed := 2 }).catOpen = false ∧
    (clQ f).zonePassed 3 = true ∧ svcS.zonePassed 3 = false := by decide
theorem test_hyps_allocator_state : ((clS 4 1 12 false 20 0).zone 3).serving = false ∧ ((clS 1 1 12 false 20 0).zone 3).serving = true := by
  decide
theorem test_hyps_allocator_owner : (clReq 12 false).opnd.getLsbD 15 = false ∧ (clReq 12 true).opnd.getLsbD 15 = true ∧
    ((clS 1 2 12 false 20 0).zone 3).owner ≠ 1 ∧ ((clS 1 1 12 false 20 0).zone 3).owner = 1 ∧
    ((clS 1 1 12 false 20 0).zone 3).ownv = true ∧ (clReq 12 false).opnd.toNat / 256 % 64 = 1 := by decide
theorem test_hyps_allocator_range : 0 < ((clS 1 1 0 false 20 0).zone 3).min ∧ 12 ≤ ((clS 1 1 12 false 20 0).zone 3).max ∧
    ((clS 1 1 12 false 20 0).zone 3).grant = 10 := by decide
theorem test_hyps_allocator_budget : (clS 1 1 12 false 20 245).freeQuanta < 12 - 10 ∧
    12 - 10 ≤ (clS 1 1 12 false 20 0).freeQuanta ∧ (clS 1 1 12 false 11 0).quota 1 < (clS 1 1 12 false 11 0).held 1 + (12 - 10) ∧
    (clS 1 1 12 false 20 0).held 1 + (12 - 10) ≤ (clS 1 1 12 false 20 0).quota 1 := by decide

/-- CLST's status after the allocator has served the request. -/
def clstOf (o : Out) : Nat := match o with | .next u => (u.svc 0).clst.toNat % 256 | _ => 99
theorem test_allocator_accepts : clstOf (exec (.allocatorServe 0) (clS 1 1 12 false 20 0)) = 7 := by decide
theorem test_allocator_quota : clstOf (exec (.allocatorServe 0) (clS 1 1 12 false 11 0)) = 2 := by decide
theorem test_clrd : regOf (exec (.clrd h0 4 0 1) (svcS.setZone 0 { Zone.reset with sample := { Sample.zero with outletTemp := 0xFFFF } }))
    (.svc 0) 4 = some 0xFFFF_FFFF_FFFF_FFFF := by decide

/-! ## Access words -/

/-- The access stream of the job is current; a1 to a3 hold 0x1000, 0x20 and 0x400. -/
def accS : State :=
  { jobS with cur := .acc 0 }.setAcc 0 { Acc.reset with run := at_ 0x9000 .ready, regs := [(1, 0x1000), (2, 0x20), (3, 0x400)] }
def accC (f : Ctx → Ctx) : State := accS.setCtx 0 (f (accS.ctx 0))
def accA (f : Acc → Acc) : State := accS.setAcc 0 (f (accS.acc 0))

/-- A register of the access stream that an outcome leaves. -/
def aOf (o : Out) (r : AReg) : Option Word :=
  match o with
  | .next u => some ((u.acc 0).a r)
  | _ => none

theorem test_acc_issues : AccIssues accS 0 l0 true ∧ AccIssues accS 0 ln false :=
  ⟨⟨by constructor <;> decide, by decide⟩, ⟨by constructor <;> decide, by decide⟩⟩

def maskCall : Call := { ty := .mask, payload := 0xFF, g := 0 }
theorem test_hyps_acc_calls : ((accC fun c => { c with cqa := [aCall] }).ctx 0).headCall false = some aCall ∧ aCall.ty = .scal ∧
    ((accC fun c => { c with cqa := [maskCall] }).ctx 0).headCall false = some maskCall ∧ maskCall.ty = .mask ∧
    maskCall.ty ≠ .scal ∧ ({ aCall with ty := .trip } : Call).ty ≠ .scal ∧ ({ aCall with ty := .trip } : Call).ty ≠ .mask ∧
    (accS.ctx 0).headCall false = none ∧ (accS.acc 0).flags.getLsbD 3 = true ∧
    ((accA fun x => { x with flags := 0 }).acc 0).flags.getLsbD 3 = false := by decide
/-- The call at the head of the access queue is damaged. -/
def badCall (c : Call) : State := { accC fun x => { x with cqa := [c] } with poison := [queuePiece 0 1 0] }
theorem test_hyps_acc_damaged : (badCall aCall).callPoisoned 0 false 1 = true ∧ (accC fun c => { c with cqa := [aCall] }).callPoisoned 0 false 1 = false ∧
    ((badCall maskCall).ctx 0).headCall false = some maskCall := by decide
theorem test_acall_damaged : intakeOf (exec (.acall l0 1) (badCall aCall)) = some (18, 1) ∧
    (match exec (.acall ln 1) (badCall aCall) with | .next u => (u.ctx 0).cqa | _ => [aCall]) = [] := by decide
/-- Nothing is in the crew's translation cache: the lines of an APF have no translation yet. -/
def coldA : State := accS.setCrew 0 Crew.reset
theorem test_hyps_apf : (linesOf 0x1000 1024).find? (accS.unwalked 0) = none ∧
    ((linesOf 0x1000 1024).find? (coldA.unwalked 0)).isSome = true := by decide
theorem test_apf_walks : (match exec (.apf l0 1 (.post 0x40)) coldA with
    | .next u => ((u.acc 0).a 1, (u.die 0).walks.map (·.page)) | _ => (0, [])) = (0x1000, [1]) := by decide
theorem test_aadd : aOf (exec (.aadd l0 4 1 (.imm 0xFFF0)) accS) 4 = some 0xFF0 := by decide
theorem test_amul : aOf (exec (.amul l0 4 1 (.reg 2)) accS) 4 = some 0x20000 := by decide
theorem test_amv_a0 : aOf (exec (.amv l0 0 (.imm 5)) accS) 0 = some 0 := by decide
theorem test_apf_post : aOf (exec (.apf l0 1 (.post 0x40)) accS) 1 = some 0x1040 := by decide
theorem test_acall_mask : (match exec (.acall l0 1) (accC fun c => { c with cqa := [maskCall] }) with
    | .next u => (u.acc 0).preds | _ => 0) = 0xFE := by decide

/-- lq0 holds n rows, sq0 holds n rows of ones. -/
def rowsS (n : Nat) : State := accC fun c => { c with lq := [(0, List.replicate n none)], sq := [(0, List.replicate n 1)] }
theorem test_hyps_acc_rows : (0 : BitVec 5) < 4 ∧ 16 ≤ (((rowsS 16).ctx 0).lq.get 0 []).length ∧
    ¬ 16 ≤ (((rowsS 15).ctx 0).lq.get 0 []).length ∧ (((accS.acc 0).address 1 (.off 8)).1).toNat % 16 ≠ 0 ∧
    (((accS.acc 0).address 1 (.idx 2)).1).toNat % 16 = 0 ∧ accS.chk 0 .load 0x1020 1024 = .ok ∧
    (accS.ctx 0).spadLen < 0x1C10 + 1024 ∧ 0x1C00 + 1024 ≤ (accS.ctx 0).spadLen ∧ accS.spadPoisoned 0 0x1C00 1024 = false := by
  decide
theorem test_hyps_gather : accS.indexTable 0 0x1000 0x400 = .ok (List.replicate 64 0) := by rfl
theorem test_hyps_gather_pieces : accS.chkPieces 0 .load (indexed 0x400 (List.replicate 64 0)) = .ok ∧
    accS.chkPieces 0 .store (indexed 0x400 (List.replicate 64 0)) = .ok := by decide
/-- Row i of the store queue is damaged. -/
def badRow (i : Nat) : State := { rowsS 16 with poison := [queuePiece 0 6 i] }
theorem test_hyps_row_damaged : (badRow 0).rowPoisoned 0 4 = true ∧ (rowsS 16).rowPoisoned 0 4 = false := by decide
theorem test_ast_damaged : intakeOf (exec (.ast l0 4 1 (.off 0)) (badRow 0)) = some (18, 1) ∧
    (match exec (.ast ln 4 1 (.off 0)) (badRow 0) with | .next u => ((u.ctx 0).sq.get 0 []).length | _ => 0) = 15 := by decide
theorem test_hyps_acc_stores : ((rowsS 0).ctx 0).sq.get 0 [] = [] ∧ ((rowsS 1).ctx 0).sq.get 0 [] ≠ [] ∧
    (rowsS 1).chk 0 .store 0x1000 1024 = .ok := by decide
theorem test_hyps_astx : ((rowsS 16).ctx 0).sqEmpty 0 = false ∧ 32 ≤ (((rowsS 32).takeRows 0 0 true).acc 0).taken.length ∧
    (((rowsS 16).takeRows 0 0 true).acc 0).taken.length < 32 ∧ (((rowsS 16).takeRows 0 0 true).ctx 0).sq.get 0 [] = [] ∧
    (((badRow 1).takeRows 0 0 true).ctx 0).sq.get 0 [] ≠ [] ∧ (((badRow 1).takeRows 0 0 true).acc 0).taken.length < 32 ∧
    (rowsS 16).chkPieces 0 .store (columnPieces 0x1000 0x20 1 256) = .ok := by decide
/-- What a row word moves: whether it loads, its target, whether its check passes, and how many pieces it has. -/
def moveOf (s : State) (i : Instr) : Option (Bool × BitVec 5 × Bool × Nat) :=
  (s.rowMove 0 i).map fun M => (M.load, M.t, decide (M.chk = .ok), M.pieces.length)
theorem test_hyps_row_loads : moveOf accS (.ald l0 2 1 (.off 0)) = some (true, 2, true, 64) ∧
    moveOf accS (.ald l0 2 1 (.off 8)) = some (true, 2, false, 65) ∧ moveOf accS (.alds l0 0 1 (.off 0)) = some (true, 0, true, 64) := by
  decide
theorem test_hyps_gathered_rows : moveOf accS (.agth l0 3 1 3 (.off 0)) = some (true, 3, true, 64) ∧
    moveOf (rowsS 1) (.asct l0 4 1 3 (.off 0)) = some (false, 4, true, 64) := by decide
theorem test_hyps_row_stores : moveOf (rowsS 1) (.ast l0 4 1 (.off 0)) = some (false, 4, true, 64) ∧
    moveOf (rowsS 1) (.asts l0 5 1 (.off 0x1000)) = some (false, 5, false, 64) := by decide
/-- A word under way with its last piece left, and with two left. -/
def movingS (l : List (Nat × Nat)) : State := (rowsS 1).setAcc 0 { accS.acc 0 with moving := some ⟨l, [0x1000, 0x1008], List.replicate 1016 7, []⟩ }
theorem test_hyps_row_turns : (((movingS [(0x1000, 8)]).acc 0).moving.getD ⟨[], [], [], []⟩).left.length ≤ 1 ∧
    (((movingS [(0x1000, 8), (0x1008, 8)]).acc 0).moving.getD ⟨[], [], [], []⟩).left = [(0x1000, 8), (0x1008, 8)] ∧
    ({ movingS [(0x1000, 8), (0x1008, 8)] with slow := true } : State).slow = true ∧ accS.slow = false ∧
    (accS.acc 0).moving = none ∧ (0x1000 : Nat) < absent ∧ (0x1000 : Nat) + 8 ≤ 2 ^ 40 ∧
    (0x1010 : Word).toNat % 16 = 0 ∧ (0x1008 : Word).toNat % 16 ≠ 0 ∧ (0x402 : Word).toNat % 4 ≠ 0 := by decide
theorem test_slow_turn : (match exec (.ald l0 2 1 (.off 0)) { accS with slow := true } with
    | .next u => (((u.acc 0).moving.getD ⟨[], [], [], []⟩).left.length, (u.stream (.acc 0)).pc) | _ => (0, 0)) = (63, 0x9000) := by decide
theorem test_hyps_astx_turns : accS.chkAstx 0 1 0x1000 0x20 (columnPieces 0x1000 0x20 1 256) = .ok ∧
    (0x1000 : Word).toNat % 16 = 0 ∧ (0x18 : Word).toNat % 16 ≠ 0 ∧ (0x20 : Word).toNat < 32 * 4 ∧
    ((rowsS 1).acc 0).moving = none := by decide
/-- Slice 0 lends no way: a store to its window is no longer allowed; a line of DRAM is. -/
theorem test_hyps_astx_window : (accS.pieceFault 0 .dev true [(0x1000, 8), (0x40_0000_0000, 8)]).map (·.1) = some 1 ∧
    accS.pieceFault 0 .dev true [(0x1000, 8)] = none ∧ inWindow 0x40_0000_0000 = true ∧ accS.kept = [] := by decide
/-- The second piece of a row is poisoned; a locked row is to hold a line that L2 has and its old state had not. -/
theorem test_hyps_row_poison : ({ accS with poison := [0x101] } : State).pieceFault 0 .dev false [(0x1000, 16), (0x1010, 16)] =
    some (1, ⟨18, 1⟩) := by decide
theorem test_hyps_lock : let s := (movingS [(0x1000, 8)]).setL2 0 { Cache.reset with lines := [32] }
    (s.l2 0).lines.contains 32 = true ∧ ((movingS []).l2 0).lines.contains 32 = false ∧ (s.acc 0).moving.isSome = true := by decide
/-- A row store far from the frame ownership table, which goes on. -/
def farA : State := { rowsS 1 with fotb := 0x200000 }
theorem test_hyps_store_frame : farA.memWf = true ∧ farA.fotFrames 0x1000 1024 = [] ∧
    (match exec (.ast l0 4 1 (.off 0)) farA with | .next u => decide ((u.acc 0).run.status = .ready) | _ => false) = true ∧
    (match exec (.asts l0 4 1 (.off 0)) farA with | .next u => decide ((u.acc 0).run.status = .ready) | _ => false) = true ∧
    (match exec (.ald l0 1 1 (.off 0)) farA with | .next u => decide ((u.acc 0).run.status = .ready) | _ => false) = true := by
  decide
theorem test_hyps_store_steady : farA.Steady := fun _ _ _ h => (by cases h)
theorem test_hyps_astx_frame : (match exec (.astx l0 .n8 4 1 2 (.off 0)) farA with
    | .next u => decide ((u.acc 0).run.status = .ready) | _ => false) = true := by decide
theorem test_ald : (match exec (.ald l0 0 1 (.off 0)) (accS.rawWrite 0x1000 [0xAB]) with
    | .next u => ((u.ctx 0).lq.get 0 []).map fun r => (r.getD 0).toNat % 256 | _ => []) = [0xAB] := by decide
theorem test_ald_void : (match exec (.ald ln 0 1 (.off 0)) accS with | .next u => (u.ctx 0).lq.get 0 [] | _ => []) = [none] := by
  decide
theorem test_ast : (match exec (.ast l0 4 1 (.off 0)) (rowsS 1) with | .next u => u.rawRead 0x1000 2 | _ => []) = [1, 0] := by decide
theorem test_alds_range : recOf (exec (.alds l0 0 1 (.off 0x1000)) accS) = some (8, 0, 0x2000) := by decide
theorem test_asts : (match exec (.asts l0 4 1 (.off 0)) (rowsS 1) with
    | .next u => (u.spadRead 0 0x1000 1, ((u.ctx 0).sq.get 0 []).length) | _ => ([], 9)) = ([1], 0) := by decide
theorem test_agth : (match exec (.agth l0 0 1 3 (.off 0)) (accS.rawWrite 0x400 [0xCD]) with
    | .next u => ((u.ctx 0).lq.get 0 []).map fun r => (r.getD 0).toNat % 256 | _ => []) = [0xCD] := by decide

/-- One block of f3 of 1,000 lines, and a block of f5 that is being filled. -/
def blockS : State :=
  accC fun c => { c with blocks := [⟨3, 0, 1000, [], true⟩, ⟨5, 0, 8, [], false⟩] }
theorem test_hyps_aldb : (accS.acc 0).a 2 = 0x20 ∧ ((0x20 : Word)).toNat % 128 ≠ 0 ∧ ((accS.acc 0).a 1).toNat % 128 = 0 ∧
    ((blockS.ctx 0).blocks.any fun y => y.flag == 5 && !y.filled) = true ∧
    ((blockS.ctx 0).blocks.all fun y => y.flag != 4 || y.filled) = true ∧
    1024 < (((blockS.ctx 0).blocks.filter fun y => y.flag != 4).map (·.lines)).foldl (· + ·) 0 + 16 + 1 ∧
    (((blockS.ctx 0).blocks.filter fun y => y.flag != 4).map (·.lines)).foldl (· + ·) 0 + 15 + 1 ≤ 1024 := by decide
theorem test_hyps_block_pages : accS.chkBlock 0 0x1000 16 = .ok ∧
    (match accS.chkBlock 0 (0x1_0000_0000_0000) 1 with | .bad _ _ => true | _ => false) = true := by decide
theorem test_aldb : (match exec (.aldb l0 1 4 15) blockS with
    | .next u => ((u.acc 0).flags.getLsbD 4, (u.ctx 0).blocks.length) | _ => (true, 0)) = (false, 3) := by decide
theorem test_aldb_full : recOf (exec (.aldb l0 1 4 16) blockS) = some (12, 0, 0x1000) := by decide
theorem test_block_fill : (match exec (.loadBlockFill 0 5) (blockS.setAcc 0 { blockS.acc 0 with flags := 0 }) with
    | .next u => (u.acc 0).flags | _ => 0) = 0x20 := by decide

/-! ## Loops and armed blocks -/

/-- The vector stream of the job is current. -/
def vecS : State := { jobS with cur := .vec 0 }.setVec 0 { Vec.reset with run := at_ 0xA000 .ready }
def vecC (f : Ctx → Ctx) : State := vecS.setCtx 0 (f (vecS.ctx 0))
def vecV (f : Vec → Vec) : State := vecS.setVec 0 (f (vecS.vec 0))

def level0 (idx trip : Nat) : Level := ⟨0, 0xA000, 0xA010, idx, trip, 0, [], []⟩

/-- A word that is for the first iteration only, in the second one. -/
theorem test_hyps_skip : (Instr.vecJoin ⟨0, 1, 6, 0⟩).laneHead = some (true, ⟨0, 1, 6, 0⟩) ∧
    flagOf ⟨0, 1, 6, 0⟩ ((vecV fun x => { x with frames := [.loop (level0 1 3)] }).frames (.vec 0)) = .skip := by decide

/-- Skipped words that pass, and that have a class 1 or a class 2 fault wherever they stand. -/
def skipS : State := vecV fun x => { x with frames := [.loop (level0 1 3)] }
theorem test_hyps_skip_checks : skipS.skipChecks 0 (.vadd ⟨0, 1, 6, 0⟩ .i32 3 1 2) = (true, true) ∧
    (skipS.skipChecks 0 (.vecJoin ⟨0, 1, 6, 0⟩)).1 = false ∧ (accS.skipChecks 0 (.ast l0 0 1 (.off 0))) = (true, false) ∧
    flagOf ⟨0, 1, 6, 0⟩ ((accA fun x => { x with frames := [.loop (level0 1 3)] }).frames (.acc 0)) = .skip := by decide
theorem test_skip_block : pcOf (exec (.varm ⟨0, 1, 6, 0⟩ 1 2) (vecV fun x => { x with
    frames := [.loop ⟨0, 0xA000, 0xA080, 1, 3, 0, [], []⟩] })) (.vec 0) = some 0xA020 := by decide

theorem test_vec_reaches : VecReaches vecS 0 l0 ∧ AccReaches accS 0 l0 := ⟨by constructor <;> decide, by constructor <;> decide⟩
theorem test_hyps_joins : (accS.acc 0).frames = [] ∧ accS.remoteDone (.acc 0) = true ∧
    ({ accS with posted := [⟨.acc 0, none, none, 2 ^ 41, [1], false, []⟩] } : State).remoteDone (.acc 0) = false ∧
    ((accA fun x => { x with frames := [.arm ⟨0, 0⟩] }).acc 0).frames ≠ [] ∧
    ((vecV fun x => { x with frames := [.arm ⟨0, 0⟩] }).vec 0).frames ≠ [] ∧ (vecS.vec 0).frames = [] ∧
    (Instr.accJoin l0).laneHead = some (false, l0) := by decide
/-- A JOIN in an arm faults whatever its remote stores do (R59). -/
theorem test_acc_join_in_arm : recOf (exec (.accJoin l0) { accA fun x => { x with frames := [.arm ⟨0, 0⟩] } with
    posted := [⟨.acc 0, none, none, 2 ^ 41, [1], false, []⟩] }) = some (1, 0, 0) := by decide
theorem test_acc_join : (match exec (.accJoin l0) accS with | .next u => some (u.acc 0).run.status | _ => none) = some .joined := by
  decide
theorem test_vec_join_in_arm : recOf (exec (.vecJoin l0) (vecV fun x => { x with frames := [.arm ⟨0, 0⟩] })) = some (1, 0, 0) := by
  decide

def trip (n : Word) : Call := { ty := .trip, payload := n, g := 0 }
def arm (n : Word) : Call := { ty := .arm, payload := n, g := 0 }
def stride (r : Nat) (b : Nat) : Call := { ty := .stride, payload := BitVec.ofNat 64 (2 ^ 48 * r + b), g := 0 }
theorem test_hyps_vloop : loopLegal [] 0 1 0xA000 = true ∧ loopLegal [] 0 512 0xA000 = true ∧
    ((vecC fun c => { c with cqv := [trip 0] }).ctx 0).headCall true = some (trip 0) ∧ (trip 0).payload.toNat % 2 ^ 32 = 0 ∧
    (trip 3).payload.toNat % 2 ^ 32 ≠ 0 ∧ (trip 3).ty = .trip ∧ aCall.ty ≠ .trip := by decide
theorem test_hyps_aloop : takeStrides [stride 1 16, trip 2] = ([stride 1 16], some (trip 2), 2) ∧
    loopLegal (accS.acc 0).frames 0 4 0x9000 = true ∧ [stride 1 16].length ≤ 4 ∧
    ([stride 1 16].all fun y => y.g.toNat == 0) = true := by decide
theorem test_hyps_arms : armLegal [] 2 0x0302 0xA000 = true ∧ ((vecC fun c => { c with cqv := [arm 1] }).ctx 0).headCall true = some (arm 1) ∧
    armLen 0x0302 1 = 3 ∧ armLen 0x0002 1 = 0 ∧ (arm 1).payload.toNat < 2 ∧ 2 ≤ (arm 2).payload.toNat ∧ (arm 1).ty = .arm ∧
    aCall.ty ≠ .arm := by decide
theorem test_hyps_damaged_calls : ({ vecC fun c => { c with cqv := [trip 3] } with poison := [queuePiece 0 0 0] } : State).callPoisoned 0 true 1 = true ∧
    (vecC fun c => { c with cqv := [trip 3] }).callPoisoned 0 true 1 = false ∧
    ({ accC fun c => { c with cqa := [stride 1 16, trip 2] } with poison := [queuePiece 0 1 1] } : State).callPoisoned 0 false 2 = true ∧
    ((accC fun c => { c with cqa := [stride 1 16, trip 2] }).ctx 0).headCall false = some (stride 1 16) ∧
    (accC fun c => { c with cqa := [stride 1 16, trip 2] }).callPoisoned 0 false 2 = false := by decide
theorem test_vloop_damaged : intakeOf (exec (.vloop l0 0 1 0)
    { vecC fun c => { c with cqv := [trip 3] } with poison := [queuePiece 0 0 0] }) = some (18, 1) := by decide
theorem test_vloop : pcOf (exec (.vloop l0 0 1 0) (vecC fun c => { c with cqv := [trip 0] })) (.vec 0) = some 0xA018 := by decide
theorem test_varm : pcOf (exec (.varm l0 2 0x0302) (vecC fun c => { c with cqv := [arm 1] })) (.vec 0) = some 0xA020 := by decide
theorem test_aloop : (match exec (.aloop l0 0 4) (accC fun c => { c with cqa := [stride 1 16, trip 2] }) with
    | .next u => (u.acc 0).frames | _ => []) = [.loop ⟨0, 0x9008, 0x9028, 0, 2, 0, [(1, 16)], [(1, 0x1000)]⟩] := by decide
theorem test_aarm_outside : recOf (exec (.aarm l0 2 0x0302) (accC fun c => { c with cqa := [arm 2] })) = some (2, 0, 0) := by decide

/-- The end of a body: an iteration is left, none is left, an arm's end, the end of two levels at once. -/
theorem test_hyps_iterate : (level0 0 2).last = (0xA008 : Word) + 8 ∧ (level0 0 2).idx + 1 < (level0 0 2).trip ∧
    (level0 1 2).trip ≤ (level0 1 2).idx + 1 ∧ (Frame.arm ⟨0xA010, 0xA040⟩).stop = (0xA008 : Word) + 8 ∧
    (Frame.loop (level0 0 2)).stop ≠ (0xA000 : Word) + 8 := by decide
theorem test_iterate : (match exec (.aadd l0 1 1 (.imm 0)) (accA fun x => { x with
      frames := [.loop ⟨0, 0x9000, 0x9008, 0, 2, 0, [(1, 16)], [(1, 0x1000)]⟩] }) with
    | .next u => ((u.acc 0).a 1, (u.acc 0).run.pc) | _ => (0, 0)) = (0x1010, 0x9000) := by decide
/-- A vector loop's window: the rotation of two open levels of steps 4 and 1 in iterations 2 and 3. -/
theorem test_window_rotates : (vecV fun x => { x with frames := [.loop ⟨1, 0xA000, 0xA008, 3, 9, 1, [], []⟩,
    .loop ⟨0, 0xA000, 0xA010, 2, 9, 4, [], []⟩] }).rotation 0 = 11 := by decide
theorem test_hyps_acc_frame : (accS.acc 0).frames = [] ∧ (accS.acc 0).run.status = .ready ∧ accS.memWf = true := by decide

/-! ## Vector words -/

/-- An outcome's element of 32 bits of row r of the job. -/
def elemOf (o : Out) (r i : Nat) : Option Nat :=
  match o with
  | .next u => some (elem 32 (u.row 0 r) i)
  | _ => none

/-- Rows v1 and v2 hold 5 and 3 in element 0, 1 and 2 in element 1. -/
def rowS : State := (vecS.setRow 0 1 (BitVec.ofNat 8192 (5 + 2 ^ 32))).setRow 0 2 (BitVec.ofNat 8192 (3 + 2 * 2 ^ 32))
def rowV (f : Vec → Vec) : State := rowS.setVec 0 (f (rowS.vec 0))
def rowC (f : Ctx → Ctx) : State := rowS.setCtx 0 (f (rowS.ctx 0))

/-- The vector stream issues a form in a state, by its checks. -/
theorem issues_vec {s : State} {h : LaneH} {f : VForm}
    (k : (s.cur == .vec 0 && flagOf h (s.vec 0).frames == .issue && s.vecOk1 f 0 && f.ok2 && s.vecHead f 0 &&
      !s.vecStall f 0 && !s.replayStall f 0 && !s.vecPoison f 0 ((s.vec 0).pred h.pred)) = true) : VecIssues s 0 h f := by
  simp only [Bool.and_eq_true, beq_iff_eq, Bool.not_eq_true'] at k
  obtain ⟨⟨⟨⟨⟨⟨⟨a, b⟩, c⟩, d⟩, e⟩, g⟩, i⟩, j⟩ := k
  exact ⟨⟨a, b⟩, c, d, e, g, i, j⟩

theorem test_vec_issues_lanes : VecIssues rowS 0 l0 (.typed false [1, 2] (some 3)) := issues_vec (by decide)
theorem test_hyps_lanes : ((Instr.vadd l0 .i32 3 1 2).lanesForm.map fun x => x.2.1) = some (.typed false [1, 2] (some 3)) ∧
    ((Instr.vadd l0 .i32 3 1 2).lanesForm.map fun x => x.1) = some l0 := by decide
theorem test_hyps_rows : ((Instr.vrank l0 3 1 2).rowForm.map fun x => x.1) = some l0 := by decide
theorem test_vec_issues_rank : ((Instr.vrank l0 3 1 2).rowForm.map fun x => decide (
    (rowS.cur == .vec 0 && flagOf l0 (rowS.vec 0).frames == .issue && rowS.vecOk1 x.2.1 0 && x.2.1.ok2 && rowS.vecHead x.2.1 0 &&
      !rowS.vecStall x.2.1 0 && !rowS.replayStall x.2.1 0 && !rowS.vecPoison x.2.1 0 ((rowS.vec 0).pred l0.pred)) = true)) =
    some true := by decide

theorem test_vadd : elemOf (exec (.vadd l0 .i32 3 1 2) rowS) 3 0 = some 8 := by decide
theorem test_vsub : elemOf (exec (.vsub l0 .i32 3 1 2) rowS) 3 1 = some 0xFFFFFFFF := by decide
theorem test_vmin : elemOf (exec (.vmin l0 .i32 3 1 2) rowS) 3 0 = some 3 := by decide
theorem test_vand : elemOf (exec (.vand l0 3 1 2) rowS) 3 0 = some 1 := by decide
theorem test_vrank : elemOf (exec (.vrank l0 3 1 2) rowS) 3 0 = some 2 := by decide
theorem test_vselb : elemOf (exec (.vselb l0 3 1 2) rowS) 3 1 = some 32 := by decide
theorem test_vmov_lane : elemOf (exec (.vmov l0 3 0x10C) rowS) 3 7 = some 7 := by decide

/-- 1.5 + 0.25 in binary32, and the canonical NaN of two. -/
theorem test_f32_add : laneAdd (Machine.arTy .f32) 0x3FC00000 0x3E800000 = 0x3FE00000 := by decide
theorem test_hyps_nan : (f32.value 0x7FC00001).isNan = true ∧ (f32.value 0x3F800000).isNan = false := by decide
theorem test_hyps_lane_bounds : (0xFFFFFFFF : Nat) < 2 ^ 32 := by decide

theorem test_hyps_results : (VForm.both [1] (some 3)).dst = some 3 ∧ (vecS.vec 0).frames = [] ∧
    (3 : Spec).toNat < 0x100 ∧ (31 : Nat) < (vecS.ctx 0).accRows ∧ (0x108 : Spec).toNat = 0x108 ∧ (0x10D : Spec).toNat = 0x10D := by
  decide

theorem test_vec_issues_sel : VecIssues rowS 0 l0 (.both [1, 2] (some 3)) := issues_vec (by decide)
theorem test_vec_issues_none : VecIssues rowS 0 l0 (.both [] (some 3)) := issues_vec (by decide)
theorem test_vec_issues_rot : VecIssues rowS 0 l0 (VForm.both [1] (some 3)).across := issues_vec (by decide)
theorem test_hyps_rot : rowS.vecStall (VForm.both [1] (some 3)).across 0 = false ∧ (255 : BitVec 9).toNat < lanesOf (rowS.w16 0) ∧
    lanesOf (rowS.w16 0) ≤ (256 : BitVec 9).toNat ∧ (3 : BitVec 3) < 4 := by decide
theorem test_vec_issues_cmp : VecIssues rowS 0 l0 (.typed false [1, 2] none) := issues_vec (by decide)
theorem test_vec_issues_mask : VecIssues rowS 0 l0 (.both [] none) := issues_vec (by decide)
theorem test_hyps_masks : (1 : BitVec 3) ≠ 0 ∧ (rowS.vec 0).frames = [] ∧
    ((vecC fun c => { c with cqv := [maskCall] }).ctx 0).headCall true = some maskCall := by decide
theorem test_vsel : elemOf (exec (.vsel l0 3 1 2 1) rowS) 3 0 = some 3 := by decide
theorem test_viota : elemOf (exec (.viota l0 3 0) rowS) 3 9 = some 9 := by decide
theorem test_vkpop : elemOf (exec (.vkpop l0 3 0) rowS) 3 0 = some 256 := by decide
theorem test_vrot : elemOf (exec (.vrot l0 3 1 1) rowS) 3 0 = some 1 := by decide
theorem test_vamxr : elemOf (exec (.vamxr l0 3 2) (rowC fun c => { c with amax := [(2, 9)] })) 3 200 = some 9 := by decide
theorem test_vcmp : (match exec (.vcmp l0 .lt .i32 1 1 2) rowS with | .next u => (u.vec 0).k 1 | _ => 0) = 2 := by decide
theorem test_hyps_mask_damaged :
    ({ vecC fun c => { c with cqv := [maskCall] } with poison := [queuePiece 0 0 0] } : State).callPoisoned 0 true 1 = true ∧
    (vecS.vec 0).pred l0.pred &&& laneBits (vecS.w16 0) ≠ 0 ∧ (0 : Mask) &&& laneBits (vecS.w16 0) = 0 := by decide
theorem test_vmsk : (match exec (.vmsk l0 1) (vecC fun c => { c with cqv := [maskCall] }) with
    | .next u => (u.vec 0).k 1 | _ => 0) = 0xFF := by decide

theorem test_hyps_convert : (cvtOf .toBf16).mode ≠ .sr ∧ (cvtOf .srBf16).mode = .sr := by decide
theorem test_vec_issues_convert : VecIssues rowS 0 l0 ((cvtOf .toBf16).form 1 3) ∧ VecIssues rowS 0 l0 ((cvtOf .srBf16).form 1 3) ∧
    VecIssues rowS 0 l0 ((cvtsOf .e4m3).form 1 0x108) := ⟨issues_vec (by decide), issues_vec (by decide), issues_vec (by decide)⟩
theorem test_vec_issues_draw : VecIssues rowS 0 l0 (.both [] (some 3)) ∧ VecIssues rowS 0 l0 (.both [1] (some 3)) :=
  ⟨issues_vec (by decide), issues_vec (by decide)⟩
def drawS : State := rowC fun c => { c with drawBuf := List.replicate 64 7 }
theorem test_hyps_draws : 64 ≤ (drawS.ctx 0).drawBuf.length ∧ (rowS.ctx 0).drawBuf.length < 64 ∧ rowS.running 0 = true ∧
    (rowS.setCore 0 { rowS.core 0 with slots := [(0, 1)] }).drawSlot 0 = true ∧ BitVec.ofNat 128 ((rowS.srcRow 0 1).toNat % 2 ^ 128) &&& ~~~ 63 ≠ (rowS.ctx 0).drawCount ∧
    BitVec.ofNat 128 ((rowS.srcRow 0 4).toNat % 2 ^ 128) &&& ~~~ 63 = (drawS.ctx 0).drawCount ∧
    (rowS.ctx 0).drawBuf.length < 63 ∧ (rowS.ctx 0).drawAt ≠ rowS.crewNow (crewOf 0) + 1 ∧
    ((rowC fun c => { c with drawAt := 1 }).ctx 0).drawAt = (rowC fun c => { c with drawAt := 1 }).crewNow (crewOf 0) + 1 := by decide
/-- The load form has taken its counter, and its draw is there or not; core 0's slot brings its blocks with the cycle. -/
theorem test_hyps_draw_load : ((rowC fun c => { c with drawLoad := true }).ctx 0).drawBuf.length < 64 ∧
    ((rowC fun c => { c with drawLoad := true, drawBuf := List.replicate 64 7 }).ctx 0).drawLoad = true ∧ (rowS.ctx 0).drawLoad = false := by decide
theorem test_vec_issues_draw_load : VecIssues (rowC fun c => { c with drawLoad := true }) 0 l0 (.both [1] (some 3)) :=
  issues_vec (by decide)
theorem test_vrng_load : (match exec (.vrng l0 3 (some 4)) drawS with
    | .next u => ((u.ctx 0).drawBuf.length, (u.ctx 0).drawLoad, (u.stream (.vec 0)).pc) | _ => (9, false, 0)) = (0, true, 0xA000) := by
  decide
theorem test_vrng : elemOf (exec (.vrng l0 3 none) drawS) 3 4 = some 7 := by decide

theorem test_vec_issues_push : VecIssues rowS 0 l0 (.both [1] none) := issues_vec (by decide)
theorem test_vec_issues_shortlist : VecIssues rowS 0 l0 (VForm.typed false [1, 2, 3] (some 4)).across := issues_vec (by decide)
theorem test_vlpsh : (match exec (.vlpsh l0 1) rowS with
    | .next u => ((u.ctx 0).comp.length, (u.ctx 0).comp.take 2) | _ => (0, [])) = (256, [5, 1]) := by decide
theorem test_vlpop : elemOf (exec (.vlpop l0 3 1) (rowC fun c => { c with comp := [9] })) 3 0 = some 9 := by decide
theorem test_vlcnt : elemOf (exec (.vlcnt l0 3) (rowC fun c => { c with comp := [9], lpov := 1 })) 3 0 = some 0x80000001 := by decide

theorem test_hyps_vec_checks : vecS.vecStall (.both [0x100] (some 3)) 0 = true ∧ vecS.vecStall (.both [1] (some 3)) 0 = false ∧
    vecS.vecOk1 (.typed true [1] (some 3)) 0 = false ∧ vecS.vecOk1 (.both [32] (some 3)) 0 = false ∧
    vecS.vecOk1 (.both [31] (some 3)) 0 = true ∧ (VForm.both [0x108] (some 3)).ok2 = false ∧
    (vecC fun c => { c with cqv := [trip 1] }).vecHead (.both [0x10A] (some 3)) 0 = false ∧
    vecS.vecStall (.both [0x108] (some 3)) 0 = false := by decide
/-- The fields: a mask destination k0, a rotation of 256 lanes; an element of row 1 that is damaged. -/
theorem test_hyps_vec_fields : (Instr.vcmp l0 .lt .i32 0 1 2).vecOperands = some (.typed false [1, 2] none) ∧
    vecS.vecFields 0 (.vcmp l0 .lt .i32 0 1 2) = false ∧ vecS.vecFields 0 (.vcmp l0 .lt .i32 1 1 2) = true ∧
    vecS.vecFields 0 (.vrot l0 3 1 256) = false ∧ vecS.vecFields 0 (.vsel l0 3 1 2 0) = true ∧
    (Instr.vsel l0 3 1 2 0).vecOperands = some (.both [1, 2] (some 3)) ∧ (Instr.vrank l0 3 1 2).vecOperands.isSome = true ∧
    (Instr.vsel l0 3 1 2 0).laneHead = some (true, l0) ∧
    ({ vecS with poison := [tilePiece 0 1 9] } : State).vecPoison (.both [1] (some 3)) 0 ((vecS.vec 0).pred l0.pred) = true ∧
    ({ vecS with poison := [tilePiece 0 1 9] } : State).vecPoison (.both [1] (some 3)) 0 0 = false := by decide
theorem test_vec_mask_k0 : recOf (exec (.vcmp l0 .lt .i32 0 1 2) vecS) = some (1, 0, 0) := by decide
/-- A fully masked word pops a damaged queue head; one with an unmasked lane takes the fault. -/
def badLq : State := { vecC fun c => { c with lq := [(0, [some 5])] } with poison := [queuePiece 0 2 0] }
theorem test_masked_pop : (match exec (.vmov ⟨0, 0, 0, 1⟩ 3 0x100) badLq with
    | .next u => ((u.ctx 0).lq.get 0 []).length | _ => 9) = 0 ∧ intakeOf (exec (.vmov l0 3 0x100) badLq) = some (18, 1) := by decide
/-- Rows 1 to 4 of the job are being replayed. -/
def replayC : State := vecC fun c => { c with redoing := [⟨1, 4, [], [], 0, true⟩] }
theorem test_hyps_vec_replay : replayC.replayStall (.both [1] (some 3)) 0 = true ∧ replayC.vecOk1 (.both [1] (some 3)) 0 = true ∧
    (VForm.both [1] (some 3)).ok2 = true ∧ replayC.vecHead (.both [1] (some 3)) 0 = true := by decide
/-- 0x40 is 1, 0x41 is 1 + 9/64, 0x01 the least. -/
theorem test_dm8 : Elt.dm8.value 0x80 = .nan ∧ (0x41 : Nat) < 256 ∧ 2 ^ 6 ≤ (0x41 : Nat) % 128 ∧ (0x41 : Nat) % 128 < 2 ^ 7 ∧
    2 ^ 0 ≤ (0x81 : Nat) % 128 ∧ (0x81 : Nat) % 128 < 2 ^ 1 := by decide
theorem test_hyps_float_codes : (0x7F80 : Nat) < 2 * bf16.sign ∧ (bf16.value 0x7F80).isNan = false ∧
    (bf16.value 0x8000).isNan = false := by decide
theorem test_float_codes : bf16.round .rne (bf16.value 0x8000) = 0x8000 ∧ bf16.round .rz (bf16.value 0x7F80) = 0x7F80 ∧
    f32.round .rne (f32.value 1) = 1 := by decide

/-! ## Events: register writes -/

/-- Partition 1 is enabled and mapped; its job is resident. -/
def partS (en keys : Bool) (resident : Bool) : State :=
  let s := mapped svcS
  let s1 := if resident then s.setCtx 0 { Ctx.reset with job := some job } else s
  s1.setPart 1 { Part.reset with pd0 := if en then 0x8000_0000_0010_0000 else 0x10_0000,
                                 pd1 := if keys then 0xC000_0000_0000_FFFF else 0xFFFF }

theorem test_hyps_pd0 : ((partS true true true).part 1).en = true ∧ ((partS false true false).part 1).en = false ∧
    ((partS false false false).part 1).keyv = false ∧ ((partS false true false).part 1).keyv = true ∧
    ((partS false true false).part 1).seedv = true ∧ (partS true true true).partBusy 1 = true ∧
    (partS true true false).partBusy 1 = false := by decide
theorem test_pd0_enables : (match exec (.pd0Write 1 0x8000_0000_0010_0000) (partS false true false) with
    | .next u => (u.part 1).en | _ => false) = true := by decide
theorem test_pd0_turned_away : (match exec (.pd0Write 1 0x8000_0000_0010_0000) (partS false false false) with
    | .next u => ((u.part 1).en, (u.part 1).pd1.getLsbD 61) | _ => (true, false)) = (false, true) := by decide
theorem test_key_load : (match exec (.keyLoad 0 1) ((partS false false false).setSvc 0 { Service.reset with kst := [(1, 7)] }) with
    | .next u => ((u.part 1).key, (u.svc 0).kst) | _ => (0, [])) = (BitVec.ofNat 512 (7 * 2 ^ 64), []) := by decide

/-- Line 0 is partition 1's, unheld or held in a way; a key waits in SC0's KST. -/
def keyS (held : Bool) : State :=
  let s := (partS false false false).setSvc 0 { Service.reset with kst := [(1, 7)] }
  if held then s.setSlice 0 { Slice.reset with ways := [(0, some ⟨0, false, 0⟩)] } else s
theorem test_hyps_key_lines : (keyS false).frameOwner 0 = 2 ∧ (keyS false).lineHeld 0 = false ∧ (keyS true).lineHeld 0 = true ∧
    ((keyS false).part 1).en = false ∧ (keyS false).frameOwner 0x200000 ≠ 2 ∧
    fieldOf (keyS false).fotb 12 28 * 4096 + 131072 ≤ 2 ^ 38 ∧
    BitVec.ofNat 512 (7 * 2 ^ 64) ≠ ((keyS false).part 1).key := by decide
theorem test_hyps_invalidate : svcS.invalidateReady 1 (Named.of 0x1000) = true ∧
    ({ jobS with posted := [⟨.cox 0, none, some 1, 2 ^ 41, [1], false, []⟩] } : State).invalidateReady 1 (Named.of 0x1000) = false ∧
    svcS.namedRings 1 (Named.of 0x1000) = [] := by decide
theorem test_invalidate_all : (match exec (.invalidateAll 1) jobS with | .next u => (u.crew 0).tlb | _ => [page]) = [] := by decide

/-- SC0 stores into the byte of frame 3 of a table at 2 MiB, in a frame that names itself: the frame becomes partition 2's. -/
def fotS : State := (svcS.setReg (.svc 0) 1 0x200003).setReg (.svc 0) 3 0x82
theorem test_hyps_fot : let s := { fotS with fotb := 0x200000 }
    s.chkCox (.svc 0) .store 0x200003 1 = .ok ∧ s.fotFrames 0x200003 1 = [3] ∧ 0x200000 / 2 ^ 21 ∉ [3] ∧
    (0x200000 + 131071) / 2 ^ 21 ∉ [3] ∧ s.memWf = true ∧ s.lineHeld (128 * 49152) = false ∧ 49152 / 16384 = 3 ∧
    fieldOf s.fotb 12 28 * 4096 + 131072 ≤ 2 ^ 38 := by decide
theorem test_hyps_fot_steady : ({ fotS with fotb := 0x200000 } : State).Steady := fun _ _ _ h => (by cases h)
theorem test_issues_fot : Issues { fotS with fotb := 0x200000 } (.svc 0) .any h0 [3, 1] := by constructor <;> decide
/-- Slice 2 in a state with 3 ways lent to partition 1; its completion address is a. -/
def wayS (st : Nat) (a : Nat) : State :=
  { svcS with fotb := 0x200000 }.setSlice 2 { Slice.reset with wpr := BitVec.ofNat 64 (2 ^ 62 * st + 2 ^ 16 + (if st = 0 then 0 else 3)), wpra := BitVec.ofNat 64 a }
theorem test_hyps_ways : ((wayS 0 0).slice 2).state = 0 ∧ ((wayS 1 0).slice 2).state = 1 ∧ ((wayS 2 0).slice 2).state = 2 ∧
    ((wayS 3 0).slice 2).state = 3 ∧ fieldOf ((wayS 1 0).slice 2).wpra 3 37 = 0 ∧ (wayS 3 0).windowRings 2 = [] ∧
    fieldOf ((wayS 1 0x1000).slice 2).wpra 3 37 * 8 = 0x1000 ∧ (wayS 1 0x1000).placeFault 0 true 0x1000 = none ∧
    (wayS 1 0x1000).poisoned 0x1000 8 = false ∧ (wayS 1 0x1000).memWf = true ∧ place 0x1000 = .dram ∧
    (wayS 1 0x1000).fotFrames 0x1000 8 = [] := by decide
theorem test_hyps_ways_steady : (wayS 1 0x1000).Steady := fun i k l h => by
  rw [show ((wayS 1 0x1000).slice i).ways = [] from by
    by_cases e : i = 2
    · subst e; rfl
    · simp only [wayS, State.setSlice, State.slice, Tab.get_set, e, if_false]; rfl] at h
  cases h
/-- A row access that has begun in a window keeps its return waiting. -/
theorem test_hyps_window_quiet : (wayS 3 0).windowQuiet 2 = true ∧ ({ (wayS 3 0).setCtx 0 { Ctx.reset with job := some job } with
    accs := [(0, { Acc.reset with moving := some ⟨[(0x40_0200_0000, 16)], [0x1000], [7], []⟩ })] } : State).windowQuiet 2 = false := by decide
theorem test_lend_complete : (match exec (.lendComplete 2) (wayS 1 0x1000) with
    | .next u => ((u.slice 2).state, u.rawRead 0x1000 1) | _ => (9, [])) = (2, [1]) := by decide
theorem test_way_lend : (match exec (.wayLend 2 0x20005) (wayS 0 0) with
    | .next u => ((u.slice 2).state, (u.slice 2).lend, (u.slice 2).owner) | _ => (9, 0, 0)) = (1, 5, 2) := by decide

/-- Queue 2 of partition 1, whose pages are mapped, in a state. -/
def wqS (st : Nat) (ring : Option (List Nat)) : State :=
  (partS true true false).setQueue 1 2 { Queue.reset with d0 := BitVec.ofNat 64 (0x400 + st), ring := ring }
theorem test_hyps_queue : ((wqS 0 none).queue 1 2).state = 0 ∧ (((wqS 0 none).queue 1 2).takeFields 0x40401).ring = none ∧
    ((wqS 1 none).queue 1 2).state = 1 ∧ (wqS 1 none).nodePassed 1 2 = false ∧
    ((wqS 1 none).setQueue 1 2 { (wqS 1 none).queue 1 2 with noded := 1 }).nodePassed 1 2 = true ∧ ((wqS 3 (some [0x40000])).queue 1 2).state = 3 ∧
    ((wqS 4 (some [0x40000])).queue 1 2).state = 4 ∧ ((wqS 3 (some [0x40000])).queue 1 2).ring = some [0x40000] := by decide
theorem test_hyps_ring : (wqS 0 none).mapRing 1 (((wqS 0 none).queue 1 2).takeFields 0x40401) = some [0x40000] ∧
    (wqS 0 none).mapRing 1 (((wqS 0 none).queue 1 2).takeFields 0x1_0004_0401) = none := by decide
theorem test_wq_enable : (match exec (.wqEnable 1 2 0x40401) (wqS 0 none) with
    | .next u => ((u.queue 1 2).state, (u.queue 1 2).ring) | _ => (9, none)) = (1, some [0x40000]) := by decide
theorem test_wq_suspend : (match exec (.wqSuspend 1 2 2) (wqS 1 none) with | .next u => (u.queue 1 2).state | _ => 9) = 3 := by
  decide

/-! ## Events: coolant -/

/-- Zone 0 in a state and phase, at time 0, with the clock at n milliseconds of reduced service. -/
def zS (st ph n : Nat) (f : Zone → Zone) : State :=
  { svcS with now := n * 1200000, boot := { Boot.reset with passed := 15 } }.setZone 0 (f ((zoneOf st 10 1).setPhase ph))
theorem test_hyps_zone_commands : ((zS 1 0 0 id).zone 0).req = none ∧ ((zS 1 0 0 id).zone 0).state = 1 ∧
    ((zS 4 0 0 id).zone 0).state = 4 ∧ ((zS 0 0 0 id).zone 0).phase = 0 ∧ (zS 0 0 0 id).zonePassed 0 = true ∧
    ({ zS 0 0 0 id with boot := Boot.reset } : State).zonePassed 0 = false ∧ (zS 1 0 0 id).catOpen = true ∧
    ((zS 1 0 0 id).setDie 0 { Die.reset with placed := 1 }).catOpen = false ∧ ((zS 3 1 0 id).zone 0).phase = 1 := by decide
theorem test_hyps_zone_steps : (zS 3 1 0 id).crewEmpty 0 = true ∧ ((zS 3 1 0 id).setCtx 0 { Ctx.reset with job := some job }).crewEmpty 0 = false ∧
    ((zS 3 4 2000 id).zone 0).stepAt + 2000 * (zS 3 4 2000 id).ms ≤ (zS 3 4 2000 id).now ∧
    ¬ ((zS 3 4 1999 id).zone 0).stepAt + 2000 * (zS 3 4 1999 id).ms ≤ (zS 3 4 1999 id).now ∧
    ((zS 3 5 500 id).zone 0).fails < 2 ∧ 2 ≤ ((zS 3 5 500 fun z => { z with fails := 2 }).zone 0).fails := by decide
theorem test_hyps_zone_refill : ((zS 0 6 0 id).zone 0).sub = 0 ∧ ((zS 0 6 0 id).zone 0).min ≤ (zS 0 6 0 id).freeQuanta ∧
    ({ zS 0 6 0 id with reserved := [(9, 246)] } : State).freeQuanta < ((zS 0 6 0 id).zone 0).min ∧
    ((zS 0 6 0 fun z => { z with sub := 1 }).zone 0).sub = 1 ∧ ((zS 0 7 500 fun z => { z with sub := 2 }).zone 0).phase = 7 := by
  decide
theorem test_hyps_zone_times : ((zS 1 0 100 fun z => { z with conds := 2 }).zone 0).serving = true ∧
    ((zS 1 0 100 fun z => { z with conds := 2 }).zone 0).conds.getLsbD 1 = true ∧
    ((zS 1 0 20 fun z => { z.setSetl false with conds := 2, req := some (clReq 12 false) }).zone 0).setl = false ∧
    (zS 3 1 50 id).drainOver 0 = true ∧ (zS 3 1 49 id).drainOver 0 = false := by decide
/-- A request of SC0 is pending in a zone; a zone settles without a FLOW condition. -/
def reqZ (z : Zone) : Zone := { z with req := some (clReq 12 false) }
theorem test_hyps_zone_requests : ((zS 1 0 0 reqZ).zone 0).req = some (clReq 12 false) ∧ ((zS 1 0 0 reqZ).zone 0).state = 1 ∧
    ((zS 1 0 100 fun z => { reqZ z with conds := 2 }).zone 0).serving = true ∧
    ((zS 1 0 20 fun z => reqZ (z.setSetl false)).zone 0).setl = false ∧
    ((zS 1 0 20 fun z => reqZ (z.setSetl false)).zone 0).conds.getLsbD 1 = false ∧
    ((zS 1 0 20 fun z => reqZ (z.setSetl false)).zone 0).acceptAt + 20 * (zS 1 0 20 id).ms ≤ (zS 1 0 20 id).now := by decide
theorem test_evacuate_ends_request : (match exec (.zoneEvacuate 0) (zS 1 0 0 reqZ) with
    | .next u => ((u.zone 0).req, (u.svc 0).clst.toNat % 256) | _ => (none, 0)) = (none, 6) := by decide
theorem test_settle_raises : intakeOf (exec (.settleTimeout 0) (zS 1 0 20 fun z => reqZ (z.setSetl false))) = some (19, 2) := by decide
theorem test_evacuate : (match exec (.zoneEvacuate 0) (zS 1 0 0 id) with
    | .next u => ((u.zone 0).state, (u.zone 0).phase) | _ => (9, 9)) = (3, 1) := by decide
theorem test_purge_starts : (match exec (.evacuationStepEnd 0) (zS 3 3 0 id) with | .next u => (u.zone 0).phase | _ => 9) = 4 := by
  decide
theorem test_refill_reserves : (match exec (.refillReserve 0) (zS 0 6 0 id) with
    | .next u => ((u.zone 0).sub, u.reserved.get 0 0) | _ => (9, 9)) = (1, 1) := by decide
theorem test_refill_opens : (match exec (.refillPurgeValveClosed 0) (zS 0 6 0 fun z => { z with sub := 1 }) with
    | .next u => ((u.zone 0).phase, (u.zone 0).tgt) | _ => (9, 9)) = (7, 1) := by decide
theorem test_settle_timeout : (match exec (.settleTimeout 0)
      (zS 1 0 20 fun z => { z.setSetl false with conds := 2, req := some (clReq 12 false) }) with
    | .next u => (u.zone 0).state | _ => 9) = 2 := by decide

/-- Samples: in limits, too warm, too high a pressure, a leak; at the limits themselves. -/
def good : Sample := { Sample.zero with flow := 2000 }
theorem test_hyps_samples : ((zS 1 0 0 id).zone 0).conds = 0 ∧ ((zS 1 0 0 id).zone 0).setl = true ∧
    ¬ ((zS 1 0 0 id).zone 0).tlim.toInt < ({ good with outletTemp := 0x1540 } : Sample).outletTemp.toInt ∧
    ((zS 1 0 0 id).zone 0).tlim.toInt < ({ good with outletTemp := 0x1541 } : Sample).outletTemp.toInt ∧
    ¬ 100 * good.flow.toNat < ((zS 1 0 0 id).zone 0).flim * (160 * ((zS 1 0 0 id).zone 0).grant) ∧
    ((zS 1 0 0 id).zone 0).plim < ({ good with pressure := 0x0C81 } : Sample).pressure.toNat ∧
    ¬ ((zS 1 0 0 id).zone 0).plim < ({ good with pressure := 0x0C80 } : Sample).pressure.toNat ∧
    ((zS 1 0 0 id).zone 0).wlim ≤ ({ good with wetOuter := 0x040 } : Sample).wetOuter.toNat ∧
    ¬ ((zS 1 0 0 id).zone 0).wlim ≤ ({ good with wetOuter := 0x03F } : Sample).wetOuter.toNat := by decide
/-- The flow check of a refill: its first samples, its hundredth, a good and a bad one. -/
def chkZ (n : Nat) : State := zS 0 7 0 fun z => { z with sub := 3, count := n }
theorem test_hyps_flow_check : ((chkZ 98).zone 0).sub = 3 ∧ ((chkZ 98).zone 0).count < 99 ∧ 99 ≤ ((chkZ 99).zone 0).count ∧
    ((chkZ 0).zone 0).req = none ∧ ((chkZ 0).zone 0).phase = 7 ∧ ((chkZ 0).zone 0).state = 0 ∧
    100 * Sample.zero.flow.toNat < ((chkZ 0).zone 0).flim * (160 * ((chkZ 0).zone 0).min) ∧
    ¬ 100 * good.flow.toNat < ((chkZ 0).zone 0).flim * (160 * ((chkZ 0).zone 0).min) := by decide
/-- A leak kills and closes at once. -/
theorem test_sample_leak : (match exec (.sensorSample 0 { good with wetOuter := 0x040 }) (zS 1 0 0 id) with
    | .next u => ((u.zone 0).state, (u.zone 0).phase) | _ => (9, 0)) = (3, 2) := by decide

/-- The sample finds a zone that serves or evacuates with no leak before, and the hundredth dry sample of a step 5. -/
def dryZ (n : Nat) (l : Bool) : State := zS 3 5 0 fun z => { z with count := n, leak := l }
theorem test_hyps_leak_states : ((zS 2 0 0 id).zone 0).conds.getLsbD 3 = false ∧ ((zS 2 0 0 id).zone 0).state ≠ 3 ∧
    ((zS 3 4 0 id).zone 0).phase ∈ [2, 3, 4] ∧ ((zS 3 1 0 id).zone 0).phase = 1 := by decide
theorem test_hyps_leak_job : (((zS 1 0 0 id).setCtx 5 { Ctx.reset with job := some job }).ctx 5).job = some job ∧ job.phase = .running := by
  decide
theorem test_hyps_dry : ((dryZ 98 false).zone 0).count < 99 ∧ 99 ≤ ((dryZ 99 true).zone 0).count ∧
    (0 : Nat) ≤ ((dryZ 99 true).zone 0).dryl ∧ ((dryZ 99 true).zone 0).dryl < ({ good with wetInner := 0xFFF } : Sample).wetInner.toNat ∧
    ((dryZ 99 true).zone 0).phase = 5 := by decide
theorem test_leak_raises : intakeOf (exec (.sensorSample 0 { good with wetOuter := 0x040 }) (zS 1 0 0 id)) = some (19, 4) := by decide
/-- A condition that goes on raises nothing, one that begins beside it does; LEAK raises in FAULT too. -/
theorem test_hyps_begun : ((zS 2 0 0 fun z => { z with conds := 1 }).zone 0).serving = true ∧
    ((zS 2 0 0 fun z => { z with conds := 1 }).zone 0).setl = true ∧ ((zS 4 0 0 id).zone 0).setl = true ∧
    ((zS 2 0 0 fun z => { z with conds := 1 }).zone 0).conds.getLsbD 0 = true ∧
    ((zS 2 0 0 fun z => { z with conds := 1 }).zone 0).conds.getLsbD 2 = false := by decide
theorem test_begun_raises : intakeOf (exec (.sensorSample 0 { good with outletTemp := 0x1541, pressure := 0x0C81 })
    (zS 2 0 0 fun z => { z with conds := 1 })) = some (19, 3) := by decide
theorem test_fault_leak_raises : intakeOf (exec (.sensorSample 0 { good with wetOuter := 0x040 }) (zS 4 0 0 id)) =
    some (19, 4) := by decide
theorem test_dry_ends : (match exec (.sensorSample 0 good) (dryZ 99 false) with | .next u => (u.zone 0).state | _ => 9) = 0 ∧
    (match exec (.sensorSample 0 good) (dryZ 99 true) with | .next u => (u.zone 0).state | _ => 9) = 4 := by decide

/-- State and sticky bits [15:11] of zone 0 in a state. -/
def zoneBits (u : State) : Nat × Nat := ((u.zone 0).state, fieldOf (u.zone 0).cata 11 5)
theorem test_sample_good : (match exec (.sensorSample 0 { good with outletTemp := 0x1540 }) (zS 1 0 0 id) with
    | .next u => zoneBits u | _ => (9, 0)) = (1, 0) := by decide
theorem test_sample_temp : (match exec (.sensorSample 0 { good with outletTemp := 0x1541 }) (zS 1 0 0 id) with
    | .next u => zoneBits u | _ => (9, 0)) = (2, 2) := by decide

/-! ## Events: host agent, boot, recovery, bins -/

/-- An agent is registered over PCIe and serves functions 1 and 2; a request of function 1 has waited since cycle 0. -/
def hostS (n : Nat) : State :=
  { svcS with hagt := 0x8001_0000_0000_0000, hams := 6, linkUp := true, now := n,
              hostReqs := [⟨4, 1, .packet 1 2, 0, none⟩, ⟨5, 2, .fill 0 3, 0, some 1⟩], nextReq := 6 }
theorem test_hyps_host : (0x0001_0000_0000_0000 : Word) >>> 48 = 1 ∧ (hostS 0).linkUp = true ∧ (hostS 0).hlup = true ∧
    fieldOf (hostS 0).hagt 48 2 = 1 ∧ (1 : BitVec 3).toNat < 7 ∧
    ((hostS 120000000).hostReqs.any fun r => r.fn == 1 && decide (r.at_ + 100 * (hostS 120000000).ms ≤ (hostS 120000000).now)) = true ∧
    ((hostS 119999999).hostReqs.all fun r => r.fn != 1 || decide ((hostS 119999999).now < r.at_ + 100 * (hostS 119999999).ms)) = true ∧
    ((hostS 0).hostReqs.all fun r => r.id != 9) = true ∧ (hostS 0).now < 0 + 100 * (hostS 0).ms ∧
    0 + 100 * (hostS 120000000).ms ≤ (hostS 120000000).now ∧ (0 : Word) >>> 48 = 0 ∧
    (hostS 0).hostReqs.find? (fun r => r.id == 4) = some ⟨4, 1, .packet 1 2, 0, none⟩ ∧
    (hostS 0).hostReqs.find? (fun r => r.id == 5) = some ⟨5, 2, .fill 0 3, 0, some 1⟩ := by decide
theorem test_host_timeout : (match exec (.hostTimeout 1) (hostS 120000000) with
    | .next u => u.hams | _ => 0) = 0x204 := by decide
theorem test_late_completion : (match exec (.hostCompletion 4 true 0) (hostS 120000000) with
    | .next u => u.hams | _ => 0) = 0x204 := by decide
theorem test_hams_needs_agent : (match exec (.hamsWrite 0 0x7F) svcS with | .next u => u.hams | _ => 1) = 0 := by decide

/-- The boot at a stage, on a flash whose headers are not images. -/
def bootS (k : Nat) : State :=
  { svcS with mem := ((List.range 8).map fun i => (0x4040000000 + i, 0)) ++ ((List.range 8).map fun i => (0x4048000000 + i, 0)),
              boot := { Boot.reset with stage := k } }
theorem test_hyps_boot_rejects : (bootS 1).boot.stage = 1 ∧ (bootS 1).bootSlot = none := by decide
/-- Whether an image verifies is a free value: each later stage meets the hypotheses of one of its two clauses. -/
theorem test_hyps_boot_stages (k : Nat) : (bootS (k + 1)).boot.stage = k + 1 ∧
    ((bootS (k + 1)).imageOk (bootS (k + 1)).boot.slot k = true ∨ (bootS (k + 1)).imageOk (bootS (k + 1)).boot.slot k = false) :=
  ⟨rfl, by cases (bootS (k + 1)).imageOk (bootS (k + 1)).boot.slot k <;> simp⟩
theorem test_boot_stops : (match exec .bootStage (bootS 1) with
    | .next u => (u.boot.stage, (u.stream (.svc 0)).status) | _ => (0, .ready)) = (6, .off) := by decide
theorem test_hyps_dies : (bootS 3).untested 0 = true ∧ (bootS 3).untested 3 = true ∧ (bootS 3).untested 4 = false ∧
    (bootS 2).untested 0 = false ∧ (bootS 3).boot.passed ≠ 15 ∧
    ({ svcS with boot := { Boot.reset with passed := 15 } } : State).boot.passed = 15 := by decide
/-- Novfin runs: die 1 joins with its two service cores, and its zones begin their refill. -/
theorem test_hyps_joins_service : (bootS 5).untested 1 = true ∧ (bootS 5).boot.stage = 5 ∧ (bootS 5).boot.passed.getLsbD 1 = false ∧
    ((bootS 5).stream (.svc 3)).status = .off ∧ ((bootS 5).zone 40).state = 0 ∧ ((bootS 5).zone 40).phase = 0 ∧
    ({ bootS 4 with boot := { (bootS 4).boot with passed := 1 } } : State).boot.passed.getLsbD 0 = true := by decide
theorem test_die_joins : (match exec (.diePass 1) (bootS 5) with
    | .next u => ((u.stream (.svc 3)).status, (u.zone 40).phase, (u.zone 30).phase) | _ => (.off, 9, 9)) = (.ready, 6, 0) := by decide
theorem test_die_pass : (match exec (.diePass 2) (bootS 3) with | .next u => u.boot.passed | _ => 0) = 4 := by decide
theorem test_reset_keeps_link : (match exec .reset (hostS 0) with | .next u => (u.linkUp, u.hams) | _ => (false, 1)) = (true, 0) := by
  decide

theorem test_hyps_cut :
    let s := jobC fun c => { c with records := [rec0] }
    (s.ctx 0).records = [rec0] ∧ rec0.home = 0 ∧ rec0.unit ≠ .none ∧ rec0.cutv = false ∧ rec0.gen = (s.ctx 0).gen ∧
    s.settled 0 = false ∧ rec0.at_ + 65536 ≤ ({ s with now := 65536 } : State).clockOf 0 ∧
    ({ s with now := 65535 } : State).clockOf 0 < rec0.at_ + 65536 ∧ rec0.noCut = false := by decide
/-- Every stream of the job has stopped or joined. -/
def settledS : State :=
  let s := (quietS.setCtx 0 { quietS.ctx 0 with records := [rec0] })
  s.setCox (.cox 0) { s.cox (.cox 0) with run := at_ 0x8000 .stopped }
theorem test_hyps_settled : settledS.settled 0 = true ∧ (settledS.ctx 0).records = [rec0] := by decide
theorem test_cut_sample : (match exec (.cutSample 0) settledS with
    | .next u => (u.ctx 0).records.map fun r => (r.cutv, r.set) | _ => []) = [(true, true)] := by decide
theorem test_cut_timeout : (match exec (.cutTimeout 0) { jobC fun c => { c with records := [rec0] } with now := 65536 } with
    | .next u => (u.ctx 0).records.map fun r => (r.cutv, r.set) | _ => []) = [(true, false)] := by decide

/-- lq0 holds n rows. -/
def rowsQ (n : Nat) : State := jobC fun c => { c with lq := [(0, List.replicate n none)] }
/-- A plane of one slot is bound at entry 4 of crew 0. -/
def boundE : Word := mkEntry 7 1 0 0 0 0 false 4
def planeS : State := svcS.setCrew 0 { Crew.reset with dir := [(4, boundE)] }
theorem test_hyps_errors : (5 : Nat) < 2 ^ 36 ∧ (131071 : Nat) < 2 ^ 17 ∧ (planeS.crew 0).coverer 4 = some 4 ∧ (4 : Nat) ≠ 16 ∧ jobS.running 0 = true ∧
    2 < (((rowsQ 3).ctx 0).queueLength 2) ∧ (rqS.ctx 0).mailbox[0]? = some ⟨9, 0, true, false⟩ ∧
    (svcS.stream (.svc 0)).status ≠ .off := by decide
theorem test_mailbox_error : (match exec (.uncorrectableError (.queue 0 12 0)) rqS with
    | .next u => ((u.ctx 0).mailbox.map (·.bad), u.poison) | _ => ([], [0])) = ([true], []) := by decide
theorem test_service_error : intakeOf (exec (.uncorrectableError (.regs 1024)) svcS) = some (18, 4) := by decide
theorem test_hyps_no_delivery : (jobC id).mayRun (.cox 0) = false ∧ deliverS.mayRun (.cox 0) = true := by decide
theorem test_queue_error : (match exec (.uncorrectableError (.queue 0 2 1)) (rowsQ 3) with
    | .next u => u.poison | _ => []) = [queuePiece 0 2 1] := by decide
theorem test_error_poisons : (match exec (.uncorrectableError (.piece 0x100)) svcS with
    | .next u => u.poisoned 0x1008 1 | _ => false) = true := by decide
theorem test_hyps_corrections :
    let s := { svcS with corrected := [(7, 2)], corrAt := [(7, 10)], now := 10 }
    s.corrected.get 7 0 ≠ 0 ∧ s.corrAt.get 7 0 ≤ s.now ∧ svcS.corrected.get 7 0 = 0 ∧
    ({ s with now := 9 } : State).now < s.corrAt.get 7 0 := by decide
/-- An error in a plane asks for its eviction. -/
theorem test_plane_error : (match exec (.uncorrectableError (.plane 0 4)) planeS with
    | .next u => ((u.crew 0).fevs, (u.crew 0).entry 4) | _ => ([], 0)) = ([⟨0, .error 4⟩], boundE) := by decide
theorem test_corrected : (match exec (.correctedError 7) svcS with | .next u => u.corrected.get 7 0 | _ => 0) = 1 := by decide
def crashS : State := (intakeS 1 true 0).setStatus (.svc 0) .crashed
theorem test_hyps_restart : (crashS.stream (.svc 0)).status = .crashed ∧ (svcS.stream (.svc 0)).status ≠ .crashed := by decide
theorem test_restart : pcOf (exec (.serviceCoreRestart 0 0x907) crashS) (.svc 0) = some 0x900 := by decide

/-- Crew 0 in a bin, in a state, at a step of re-binning. -/
def binS (st num : Nat) (x : BinStep) (retest : Bool) (n : Nat) : State :=
  { svcS with now := n }.setCrew 0 { Crew.reset with bin := BitVec.ofNat 64 (2 ^ 62 * st + num), step := x, retest := retest }
theorem test_hyps_bins : ((binS 0 2 .none false 0).crew 0).binState = 0 ∧ ((binS 1 2 (.draining 0) false 0).crew 0).binState = 1 ∧
    ((binS 2 2 .none false 0).crew 0).binState = 2 ∧ ((binS 1 5 (.draining 0) false 0).crew 0).binNum = 5 ∧
    (binS 1 4 (.draining 0) false 0).crewEmpty 0 = true ∧ ((binS 1 4 (.draining 0) false 0).crew 0).binNum < 5 ∧
    ((binS 1 4 (.draining 0) false 0).setCtx 0 { Ctx.reset with job := some job }).crewEmpty 0 = false ∧
    0 + (binS 1 4 (.settling 0) false 1200000).ms ≤ (binS 1 4 (.settling 0) false 1200000).now ∧
    0 + 20608 ≤ (binS 1 4 (.battery 0) false 20608).crewNow 0 ∧ (binS 1 4 (.battery 0) false 20607).crewNow 0 < 0 + 20608 ∧
    ((binS 1 4 (.draining 0) true 0).crew 0).retest = true := by decide
theorem test_bin_settle : (match exec (.binSettle 0) (binS 1 4 (.draining 0) false 0) with
    | .next u => ((u.crew 0).binNum, (u.crew 0).step) | _ => (0, .none)) = (5, .settling 0) := by decide
theorem test_battery_clean : (match exec (.knownAnswerBattery 0 true) (binS 1 4 (.battery 0) false 20608) with
    | .next u => (u.crew 0).binState | _ => 9) = 0 := by decide

/-! ## Events: packets and placement -/

/-- A packet of the given words stands at the head of queue 2 of partition 1, in the page at 0x40000. -/
def pkS (st : Nat) (ws : List Nat) : State :=
  let s := (mapped svcS).setPart 1 { Part.reset with pd0 := 0x8000_0000_0010_0000 }
  let s0 := { s with boot := { Boot.reset with passed := 15 } }
  let s1 := s0.rawWrite 0x40000 (ws.flatMap fun w => bytesLE 8 w)
  s1.setQueue 1 2 { Queue.reset with d0 := BitVec.ofNat 64 (0x400 + st), ring := some [0x40000] }

/-- The words of the packet. -/
def pkW (st : Nat) (ws : List Nat) : List Word := (pkS st ws).headWords ((pkS st ws).queue 1 2)

theorem ready_packet {s : State} {kind : Nat} (k : ((s.queue 1 2).state == 1 || (s.queue 1 2).state == 2) = true)
    (b : s.headKind (s.queue 1 2) = kind) (c : kind ≠ 0) (d : (s.queue 1 2).parse = .idle)
    (e : s.parserNext (s.queue 1 2).die = some 18) (g : (s.die (s.queue 1 2).die).parsed ≠ s.now + 1)
    (f : (s.queue 1 2).ring = some [0x40000])
    (u : (s.queue 1 2).got = []) : PacketReady s 1 2 kind (s.headWords (s.queue 1 2)) [0x40000] :=
  ⟨by simpa [Bool.or_eq_true, beq_iff_eq] using k, rfl, b, c, d, u, e, g, f⟩

/-- The checks of a packet, together. -/
def packetOk (s : State) (kind : Nat) : Bool :=
  ((s.queue 1 2).state == 1 || (s.queue 1 2).state == 2) && s.headKind (s.queue 1 2) == kind && kind != 0 &&
    (s.queue 1 2).parse == .idle && s.parserNext (s.queue 1 2).die == some 18 &&
    (s.die (s.queue 1 2).die).parsed != s.now + 1 && (s.queue 1 2).ring == some [0x40000] &&
    (s.queue 1 2).got == [] && !s.slow && !s.assisted 1 && (s.placeFault 1 true ((s.queue 1 2).headAddr [0x40000])).isNone &&
    !s.poisoned ((s.queue 1 2).headAddr [0x40000]) (if kind ≤ 5 then 256 else 16) && packetCheck (s.headWords (s.queue 1 2)) == 0

theorem good_packet {s : State} {kind : Nat} (k : packetOk s kind = true) :
    PacketGood s 1 2 kind (s.headWords (s.queue 1 2)) [0x40000] := by
  simp only [packetOk, Bool.and_eq_true, beq_iff_eq, Bool.not_eq_true', bne_iff_ne, Option.isNone_iff_eq_none] at k
  obtain ⟨⟨⟨⟨⟨⟨⟨⟨⟨⟨⟨⟨a, b⟩, c⟩, d⟩, e⟩, o⟩, f⟩, u⟩, v⟩, g⟩, h⟩, i⟩, j⟩ := k
  exact ⟨ready_packet a b c d e o f u, v, g, h, i, j⟩

theorem test_hyps_packet : PacketReady (pkS 1 [3]) 1 2 3 (pkW 1 [3]) [0x40000] :=
  ready_packet (by decide) (by decide) (by decide) (by decide) (by decide) (by decide) (by decide) (by decide)
theorem test_hyps_packet_host :
    PacketReady { pkS 1 [3] with hams := 2 } 1 2 3 (State.headWords { pkS 1 [3] with hams := 2 } ((pkS 1 [3]).queue 1 2)) [0x40000] ∧
    ({ pkS 1 [3] with hams := 2 } : State).assisted 1 = true :=
  ⟨ready_packet (by decide) (by decide) (by decide) (by decide) (by decide) (by decide) (by decide) (by decide), by decide⟩
theorem test_hyps_packet_poison : ({ pkS 1 [3] with poison := [0x4000] } : State).poisoned 0x40000 256 = true ∧
    (pkS 1 [3]).placeFault 1 true 0x40000 = none ∧ (pkS 1 [3]).placeFault 1 true 0x40_5000_0000 = some ⟨16, 6⟩ ∧
    ((pkS 1 [3]).setDie 0 { Die.reset with parsed := 1 } |>.die 0).parsed = 0 + 1 ∧
    ((pkS 1 [0x13]).queue 1 2).parse = .idle ∧ (pkS 1 [6]).packetBad 1 2 = 2 ∧
    packetCheck (pkW 1 [6]) = 2 ∧ packetCheck (pkW 1 [0x13]) = 1 := by decide

/-- A record of one iteration in partition 1, group 0 of tier 0, with a budget of 1,000 and no counter. -/
def nestW (trips : Nat) (acc : Nat) : List Nat :=
  [0x1_0101_0001, acc, 1000, 0x8000, 0x9000, 0xA000, 0xB000, 0xC000, trips]
def launchS (trips acc : Nat) : State :=
  (pkS 1 [1, 0x10000]).rawWrite 0x10000 ((nestW trips acc).flatMap fun w => bytesLE 8 w)
def launchN (trips acc : Nat) : Nest :=
  let s := (launchS trips acc).taken 1 2
  nestOf (wordsOf 32 (s.dieRead 1 .load 0x10000 256)) 0x10000 1 2 0
theorem test_hyps_launch : PacketGood (launchS 2 32) 1 2 1 ((launchS 2 32).headWords ((launchS 2 32).queue 1 2)) [0x40000] :=
  good_packet (by decide)
theorem test_hyps_launch_record :
    let s := (launchS 2 32).taken 1 2
    ((launchS 2 32).part 1).en = true ∧ ((pkW 1 [1, 0x10000]).getD 1 0).toNat % 256 = 0 ∧ s.dieFault 1 .load (piecesOf 0x10000 256) = none ∧
    nestCheck (wordsOf 32 (s.dieRead 1 .load 0x10000 256)) (launchN 2 32) = 0 ∧ s.groupAlive (launchN 2 32) = true ∧
    (launchN 2 32).total = 2 ∧ (launchN 0 32).total = 0 ∧ ((launchS 2 32).die 0).active.length < 16 := by decide
theorem test_hyps_launch_bad :
    let s := (launchS 2 33).taken 1 2
    nestCheck (wordsOf 32 (s.dieRead 1 .load 0x10000 256)) (launchN 2 33) = 3 := by decide
theorem test_hyps_launch_full :
    16 ≤ (((launchS 2 32).setDie 0 { Die.reset with active := List.replicate 16 ⟨nest, 0, none⟩ }).die 0).active.length := by decide
theorem test_launch : (match exec (.launchPacket 1 2) (launchS 2 32) with
    | .next u => ((u.die 0).active.length, (u.queue 1 2).head, u.rawRead 0x40000 1) | _ => (9, 9, [])) = (1, 1, [0]) := by decide

/-- A FENCE on the counter at 0x3000 with threshold 5; the counter holds n. -/
def fenceS (n : Nat) : State := (pkS 1 [0x12, 0x3000, 5]).rawWrite 0x3000 (bytesLE 8 n)
theorem test_hyps_fence_packet : PacketGood (fenceS 5) 1 2 2 ((fenceS 5).headWords ((fenceS 5).queue 1 2)) [0x40000] ∧
    PacketGood (fenceS 4) 1 2 2 ((fenceS 4).headWords ((fenceS 4).queue 1 2)) [0x40000] :=
  ⟨good_packet (by decide), good_packet (by decide)⟩
theorem test_hyps_fence_pairs : fencePairs ((fenceS 5).headWords ((fenceS 5).queue 1 2)) = [(0x3000, 5)] ∧
    ((fenceS 5).taken 1 2).fenceFault 1 [(0x3000, 5)] = none ∧ wordLE ((fenceS 5).dieRead 1 .load 0x3000 8) = 5 := by decide
/-- The FENCE waits: its last pass read 4, and its counter now holds n; its watch has seen a change or not. -/
def waitFenceS (n : Nat) (hit : Option Nat) : State :=
  let x := (fenceS n).queue 1 2
  let s := (fenceS n).setQueue 1 2 { x with parse := .fence [4], got := (fenceS n).headWords x }
  { s with watches := [{ who := .svc 0, fence := some 18, addr := 0x3000, va := 0x3000, hit := hit, touched := false }] }
theorem test_hyps_recheck : ((waitFenceS 5 none).queue 1 2).parse = .fence [4] ∧
    (((waitFenceS 5 none).queue 1 2).got.getD 0 0).toNat % 16 = 2 ∧
    (waitFenceS 5 none).fenceWoken 1 2 ((fenceS 5).headWords ((fenceS 5).queue 1 2)) [4] = true ∧
    (waitFenceS 4 (some 1)).fenceWoken 1 2 ((fenceS 4).headWords ((fenceS 4).queue 1 2)) [4] = true ∧
    (waitFenceS 4 none).fenceWoken 1 2 ((fenceS 4).headWords ((fenceS 4).queue 1 2)) [4] = false ∧
    (waitFenceS 5 none).fenceFault 1 [(0x3000, 5)] = none := by decide
/-- Turn by turn: a packet of which 16 bytes have been read; a LAUNCH that has read its packet and 16 bytes of its record. -/
def slowPk (s : State) (g : List Word) : State :=
  { s with slow := true }.setQueue 1 2 { s.queue 1 2 with parse := .reading, got := g }
def slowL : State := slowPk (launchS 2 32) ((launchS 2 32).headWords ((launchS 2 32).queue 1 2) ++ [0x1_0101_0001, 32])
theorem test_hyps_slow_packet : PacketReady { pkS 1 [3] with slow := true } 1 2 3 (pkW 1 [3]) [0x40000] :=
  ready_packet (by decide) (by decide) (by decide) (by decide) (by decide) (by decide) (by decide) (by decide)
theorem test_hyps_slow_reading : let s := slowPk (pkS 1 [3]) [3, 0]
    (s.queue 1 2).parse = .reading ∧ (s.queue 1 2).got.length = 2 ∧ s.placeFault 1 true (0x40000 + 16) = none ∧
    s.poisoned (0x40000 + 16) 16 = false ∧ s.headWords (s.queue 1 2) = pkW 1 [3] ∧
    ([3, 0] ++ ((pkW 1 [3]).drop 2).take 2).length < 32 := by decide
theorem test_hyps_slow_last : let s := slowPk (pkS 1 [3]) ((pkW 1 [3]).take 30)
    (s.queue 1 2).got.length = 30 ∧ 32 ≤ ((pkW 1 [3]).take 30 ++ ((pkW 1 [3]).drop 30).take 2).length ∧
    packetCheck (pkW 1 [3]) = 0 ∧ packetCheck (pkW 1 [3, 1, 0, 0, 1]) ≠ 0 := by decide
theorem test_hyps_slow_record : (slowL.queue 1 2).got.length = 32 + 2 * 1 ∧ slowL.slow = true ∧ (slowL.part 1).en = true ∧
    (slowL.packetRead 1 2 (slowL.queue 1 2).got).dieFault 1 .load [(0x10000 + 16, 16)] = none := by decide
theorem test_slow_packet : (match exec (.signalPacket 1 2) { pkS 1 [3] with slow := true } with
    | .next u => ((u.queue 1 2).got, (u.queue 1 2).head) | _ => ([], 9)) = ([3, 0], 0) := by decide
theorem test_slow_record : (match exec (.launchPacket 1 2) slowL with | .next u => (u.queue 1 2).got.drop 34 | _ => []) =
    [1000, 0x8000] := by decide
theorem test_fence_passes : (match exec (.fencePacket 1 2) (fenceS 5) with | .next u => (u.queue 1 2).head | _ => 9) = 1 := by decide
theorem test_fence_waits : (match exec (.fencePacket 1 2) (fenceS 4) with
    | .next u => ((u.queue 1 2).head, u.watches.length) | _ => (9, 9)) = (0, 1) := by decide
theorem test_fence_recheck : (match exec (.fenceRecheck 1 2) (waitFenceS 5 none) with
    | .next u => ((u.queue 1 2).head, u.watches.length) | _ => (9, 9)) = (1, 0) := by decide

/-- SIGNAL of 3 at 0x3000; at an address that is not mapped; NODE; LOGB. -/
def signalS (a : Nat) : State := pkS 1 [3, a, 3]
theorem test_hyps_signal : PacketGood (signalS 0x3000) 1 2 3 ((signalS 0x3000).headWords ((signalS 0x3000).queue 1 2)) [0x40000] :=
  good_packet (by decide)
theorem test_hyps_signal_faults : ((signalS 0x3000).taken 1 2).dieFault 1 .both (piecesOf 0x3000 8) = none ∧
    ((signalS 0x4000_0000).taken 1 2).dieFault 1 .both (piecesOf 0x4000_0000 8) = some ⟨16, 1⟩ := by decide
theorem test_signal : (match exec (.signalPacket 1 2) (signalS 0x3000) with | .next u => u.rawRead 0x3000 1 | _ => []) = [3] := by decide
theorem test_hyps_node_packet : PacketGood (pkS 1 [4]) 1 2 4 (pkW 1 [4]) [0x40000] ∧ PacketGood (pkS 2 [4]) 1 2 4 (pkW 2 [4]) [0x40000] :=
  ⟨good_packet (by decide), good_packet (by decide)⟩
theorem test_node_waits : (match exec (.nodePacket 1 2) (pkS 2 [4]) with
    | .next u => ((u.queue 1 2).head, (u.queue 1 2).parse) | _ => (9, .idle)) = (0, .waiting) := by decide
def logbS (i : Nat) : State :=
  let s := pkS 1 [5, 0x5000, 0x6000]
  if i = 0 then s else s.setQueue 1 2 { s.queue 1 2 with parse := .logb i, got := s.headWords (s.queue 1 2) }
theorem test_hyps_logb : PacketGood (logbS 0) 1 2 5 ((logbS 0).headWords ((logbS 0).queue 1 2)) [0x40000] := good_packet (by decide)
theorem test_hyps_logb_pieces : ((logbS 0).taken 1 2).dieFault 1 .load [(0x5000, 16)] = none ∧
    ((logbS 0).taken 1 2).dieFault 1 .store [(0x6000, 16)] = none ∧ ((logbS 63).queue 1 2).parse = .logb 63 ∧
    (logbS 63).dieFault 1 .load [(0x5000 + BitVec.ofNat 64 (16 * 63), 16)] = none ∧
    (logbS 62).dieFault 1 .store [(0x6000 + BitVec.ofNat 64 (16 * 62), 16)] = none := by decide
theorem test_logb_ends : (match exec (.logbPacket 1 2) (logbS 63) with | .next u => (u.queue 1 2).head | _ => 9) = 1 := by decide
theorem test_hyps_request : ((pkS 1 [3]).queue 1 2).state ≠ 0 ∧ ((pkS 1 [3]).queue 1 2).room = true ∧
    ((pkS 0 [3]).queue 1 2).state = 0 ∧ (pkS 1 [3]).boot.passed.getLsbD ((pkS 1 [3]).queue 1 2).die = true ∧
    ({ pkS 1 [3] with boot := Boot.reset } : State).boot.passed.getLsbD 0 = false ∧
    (pkS 1 [3]).fotFrames 0x40000 256 = [] ∧
    ((pkS 1 [3]).setQueue 1 2 { (pkS 1 [3]).queue 1 2 with d1 := 16 * 2 ^ 16 } |>.queue 1 2).room = false := by decide
theorem test_hyps_reply : (fenceS 5).dieFault 1 .load (piecesOf 0x3000 8) = none ∧
    (wordLE ((fenceS 5).dieRead 1 .load 0x3000 8)).toNat = 5 ∧ ((pkS 1 [3]).queue 1 2).ring = some [0x40000] := by decide
theorem test_reply : (match exec (.requestReply 1 0x3000 5) (fenceS 5) with | .next u => u.replies | _ => []) =
    [.reached 1 0x3000 5] ∧ (match exec (.requestReply 1 0x3000 6) (fenceS 5) with | .next u => u.replies.length | _ => 9) = 0 := by
  decide
theorem test_refusal : (match exec (.requestArrival 1 2 [7]) (pkS 0 [3]) with | .next u => u.replies | _ => []) = [.refused 1 2] := by
  decide
theorem test_request : (match exec (.requestArrival 1 2 [7]) (pkS 1 [3]) with
    | .next u => ((u.queue 1 2).tail, u.rawRead 0x40000 1) | _ => (9, [])) = (1, [7]) := by decide

/-- One record is active on die 0, whose crews are in service, both zones of crew 0 WET; core 0 is free. -/
def placeS (switched : List (Nest × Nat × Image)) (resident : Bool) : State :=
  let s := { svcS with boot := { Boot.reset with passed := 15, full := true } }
  let s1 := (s.setZone 0 (zoneOf 1 10 1)).setZone 1 (zoneOf 1 10 1)
  let s2 := s1.setDie 0 { Die.reset with active := if switched.isEmpty then [⟨nest, 0, none⟩] else [], switched := switched }
  let s3 := s2.setQueue 1 2 { Queue.reset with d0 := 0x401 }
  if resident then s3.setCtx 0 { Ctx.reset with job := some job } else s3
def image : Image := { addr := 0xD0000, left := 900 }
theorem test_hyps_place : (svcS.pickActive 0) = none ∧ ((placeS [] false).pickActive 0).map (fun x => (x.1, x.2.2)) = some (0, 0) := by
  decide
theorem test_place : (match exec (.iterationPlace 0) ((placeS [] false).setDie 0 { Die.reset with active := [⟨nest, 0, none⟩] }) with
    | .next u => ((u.die 0).active.map fun a => (a.next, a.last)) | _ => []) = [(1, some 0)] := by decide
theorem test_hyps_placed : (placeS [] false).hasPlaced 0 = false ∧
    ((placeS [] false).setDie 0 { Die.reset with placed := 1 }).hasPlaced 0 = true ∧ (placeS [] false).queueHeld nest = false := by decide
theorem test_hyps_replace : (svcS.die 0).switched.find? (svcS.replaceable 0) = none ∧
    ((placeS [(nest, 1, image)] false).die 0).switched.find? ((placeS [(nest, 1, image)] false).replaceable 0) =
      some (nest, 1, image) := by decide
/-- A job that was placed at cycle 4, its accumulator run and its scratchpad range last held by partition 2. -/
def goS (m : Option Image) (n : Nat) : State :=
  let s := { svcS with now := n }.setCtx 0 { Ctx.reset with job := some { job with phase := .placed 4, image := m } }
  s.setCore 0 { CoreSt.reset with spadPart := [(0, 3), (1, 3)], accPart := [(0, 3)], tile := [(5, 1)] }
theorem test_hyps_walker_go : ((goS none 19).ctx 0).job = some { job with phase := .placed 4 } ∧ (goS none 19).now < 4 + 16 ∧
    4 + 16 ≤ (goS none 20).now ∧ ((goS none 20).core 0).spadPart.get 0 0 = 3 ∧ (3 : Nat) ≠ job.nest.part + 1 ∧
    ((goS none 20).core 0).accPart.get 0 0 = 3 ∧ job.spadBase % 4096 = 0 ∧ job.spadLen % 4096 = 0 ∧ job.accBase % 32 = 0 ∧
    job.nest.accRows % 32 = 0 ∧ job.image = none ∧ job.nest.levels ≤ 6 := by decide
theorem test_walker_go : (match exec (.walkerGo 0) (goS none 20) with
    | .next u => ((u.stream (.cox 0)).pc, u.reg (.cox 0) 1, u.reg (.cox 0) 2, u.row 0 5) | _ => (0, 0, 0, 1)) = (0x8000, 1, 0, 0) := by decide
/-- The image of a switched-out job in its partition's memory: s1 = 5, the pc at word 10. -/
def goI : State :=
  let s := (mapped ((goS (some image) 20).rawWrite 0xD0018 [5])).rawWrite 0xD0050 [0, 0x81]
  s.setPart 1 { Part.reset with pd0 := 0x8000_0000_0010_0000 }
theorem test_hyps_image : goI.dieFault 1 .load (piecesOf image.addr 128) = none ∧
    (goI.ctx 0).job = some { job with phase := .placed 4, image := some image } := by decide
theorem test_walker_go_image : (match exec (.walkerGo 0) goI with
    | .next u => ((u.stream (.cox 0)).pc, u.reg (.cox 0) 1) | _ => (0, 0)) = (0x8100, 5) := by decide
/-- All three streams have joined; then the job is ending. -/
def joinedS : State := quietS.setCox (.cox 0) { quietS.cox (.cox 0) with run := at_ 0x8000 .joined }
def endingS : State := (mapped joinedS).setCtx 0 { Ctx.reset with job := some { job with phase := .ending } }
def endS : State := endingS.setPart 1 { Part.reset with pd0 := 0x8000_0000_0010_0000 }
theorem test_hyps_retire : jobS.retires 0 = false ∧ joinedS.retires 0 = true ∧ job.phase ≠ .ending ∧ endS.drained 0 = true ∧
    (endS.setCtx 0 { endS.ctx 0 with copies := [Copy.start copyCmd 1 0] }).drained 0 = false ∧
    endS.dieFault 1 .both (piecesOf 0xC000 8) = none := by decide
theorem test_retire_adds : (match exec (.retireCounterAdd 0) endS with
    | .next u => ((u.ctx 0).job.map (·.phase), (u.freeLeft.ctx 0).job.isNone, u.rawRead 0xC000 1) | _ => (none, false, [])) =
    (some .left, true, [1]) := by decide
/-- The job has had n of its 1,000 cycles. -/
def budgetS (n : Nat) (w : Bool) : State := jobC fun c => { c with job := some { job with owned := n, warned := w } }
theorem test_hyps_budget : job.budget - job.budget / 8 = 875 ∧ job.phase = .running ∧
    ((budgetS 875 false).ctx 0).job = some { job with owned := 875 } ∧ ((budgetS 1000 true).ctx 0).job = some { job with owned := 1000, warned := true } := by
  decide
theorem test_budget_warning : (match exec (.budgetWarning 0) (budgetS 875 false) with
    | .next u => (u.ctx 0).records.map fun r => r.cls | _ => []) = [9] := by decide
theorem test_budget_exhausted : (match exec (.budgetExhausted 0) (budgetS 999 true) with
    | .next u => (u.ctx 0).job.map fun j => j.killed | _ => none) = some false := by decide

/-! ## Events: memory and copies -/

def watch (hit : Option Nat) (touched : Bool) : Watch := { who := .svc 0, fence := none, addr := 0x1000, va := 0x1000, hit := hit, touched := touched }
def parkS (w : Watch) : State := { svcS.setStatus (.svc 0) .parked with watches := [w] }
theorem test_hyps_wakes : ((parkS (watch (some 3) false)).stream (.svc 0)).status = .parked ∧
    (parkS (watch (some 3) false)).watches.find? (fun w => w.fence.isNone && w.who == .svc 0 && w.hit.isSome) = some (watch (some 3) false) ∧
    (parkS (watch none true)).watches.find? (fun w => w.fence.isNone && w.who == .svc 0 && w.touched) = some (watch none true) ∧
    ((parkS (watch none true)).watches.all fun w => w.who != .svc 1) = true := by decide
/-- The word of a waiter is poisoned, or its window is gone. -/
theorem test_hyps_wake_faults : ({ parkS (watch (some 3) false) with poison := [0x100] } : State).poisoned 0x1000 8 = true ∧
    (parkS (watch (some 3) false)).placeFault 0 false 0x1000 = none ∧
    (parkS { watch (some 3) false with addr := 0x40_0000_0000 }).placeFault 0 false 0x40_0000_0000 = some ⟨17, 1⟩ := by decide
theorem test_wake_poisoned : intakeOf (exec (.watchWake (.svc 0)) { parkS (watch (some 3) false) with poison := [0x100] }) = some (18, 1) := by
  decide
theorem test_watch_wake : pcOf (exec (.watchWake (.svc 0)) (parkS (watch (some 3) false))) (.svc 0) = some 8 := by decide
/-- Two stores of SC0 to one line and one to another wait. -/
def ackS : State :=
  let p : Nat → Byte → Posted := fun a v => ⟨.svc 0, none, none, 2 ^ 41 + a, [v], false, []⟩
  { svcS with posted := [p 0 1, p 8 2, p 128 3] }
theorem test_hyps_acks : ackS.posted[1]? = some ⟨.svc 0, none, none, 2 ^ 41 + 8, [2], false, []⟩ ∧
    ((ackS.posted.take 1).any fun x => x.who == .svc 0 && x.addr / 128 == (2 ^ 41 + 8) / 128) = true ∧
    ackS.posted[2]? = some ⟨.svc 0, none, none, 2 ^ 41 + 128, [3], false, []⟩ ∧ ackS.fotFrames (2 ^ 41 + 128) 1 = [] ∧ ackS.memWf = true ∧
    ((ackS.posted.take 2).all fun x => x.who != .svc 0 || x.addr / 128 != (2 ^ 41 + 128) / 128) = true := by decide
/-- A post of another thread of the crew to the same line waits for the one that updated the crew's copy before it. -/
def ackC : State :=
  { jobS with posted := [⟨.cox 0, none, none, 2 ^ 41, [1], false, []⟩, ⟨.cox 4, none, none, 2 ^ 41, [2], false, []⟩,
    ⟨.cox 400, none, none, 2 ^ 41, [3], false, []⟩] }
theorem test_ack_copy_order : (match exec (.remoteStoreAck 1) ackC with | .next u => u.posted.length | _ => 9) = 3 ∧
    (match exec (.remoteStoreAck 2) ackC with | .next u => u.posted.length | _ => 9) = 2 := by decide
theorem test_ack_order : (match exec (.remoteStoreAck 1) ackS with | .next u => u.posted.length | _ => 9) = 3 := by decide
theorem test_hyps_remote_access : place 0x1000 = .dram ∧ (mapped svcS).frameOwner 0x1000 = 2 ∧ svcS.frameOwner 0x1000 = 0 ∧
    0x1FFFF8 % 2 ^ 21 + 8 ≤ 2 ^ 21 ∧ (0x1000 : Nat) % 8 = 0 ∧
    (mapped svcS).fotFrames 0x1000 8 = [] ∧ (mapped svcS).memWf = true := by decide
theorem test_hyps_remote_steady : (mapped svcS).Steady := fun _ _ _ h => (by cases h)
theorem test_remote_release : (match exec (.remoteAccess 1 0x1000 (.addRel 5 9)) (mapped svcS) with
    | .next u => (u.rawRead 0x1000 1, (u.slice 0).received 0x1000) | _ => ([], 0)) = ([5], 9) := by decide
theorem test_flit_retry : (match exec (.flitRetry 6) svcS with | .next u => (u.die 1).links.get 2 0 | _ => 9) = 1 := by decide
theorem test_remote_add : (match exec (.remoteAccess 1 0x1000 (.add 5)) (mapped svcS) with | .next u => u.rawRead 0x1000 1 | _ => []) = [5] := by
  decide
theorem test_hyps_walk : fieldOf ((pkS 1 [3]).part 1).pd0 63 1 = 1 ∧ fieldOf (svcS.part 1).pd0 63 1 = 0 ∧
    ((pkS 1 [3]).fillable 1 0x1234).isSome = true ∧ (pkS 1 [3]).fillable 1 0x4000_0000 = none ∧ (0x1234 : Word).toNat < 2 ^ 48 := by decide
/-- Walks of partition 1 on die 0, in arrival order; home 0 waits for that of page 1. -/
def walkS (page : Nat) (host : Option Nat) (before : List Walk) : State :=
  (pkS 1 [3]).setDie 0 { Die.reset with walks := before ++ [⟨1, page, [0], host⟩] }
def older : List Walk := (List.range 16).map fun i => ⟨1, 100 + i, [], none⟩
theorem test_hyps_walks : ((walkS 1 none []).die 0).walks = [] ++ ⟨1, 1, [0], none⟩ :: [] ∧
    ((walkS 1 none []).die 0).walking 0 = true ∧ ((walkS 1 (some 3) []).die 0).walking 0 = false ∧
    ((walkS 1 none older).die 0).walking 16 = false ∧
    16 ≤ (older.filter fun y => y.host.isNone && y.part == 1).length ∧ older.length = 16 ∧
    (older.all fun y => y.page != 1) = true ∧ ((0x1234 : Word).toNat / 4096 = 1) ∧
    (((pkS 1 [3]).die 0).walks.all fun y => y.page != 1) = true ∧ ((pkS 1 [3]).crew 0).tlb.length ≤ 4096 := by decide
theorem test_walk : (match exec (.pageWalkComplete 0 1 0x1234) (walkS 1 none []) with
    | .next u => ((u.crew 0).tlb.map fun t => (t.part, t.va, t.pa), (u.die 0).walks.length) | _ => ([], 9)) = ([(1, 0, 0)], 0) := by
  decide
theorem test_walk_fails : (match exec (.pageWalkComplete 0 1 0x4000_0000) (walkS 0x40000 none []) with
    | .next u => u.refusedWalks.map fun x => (x.part, x.page, x.home, x.cause) | _ => []) = [(1, 0x40000, 0, none)] := by decide
def mailS : State := jobC fun c => { c with mailbox := [⟨1, 0, true, false⟩, ⟨2, 0, false, false⟩] }
theorem test_hyps_mailbox : (mailS.ctx 0).mailbox = [⟨1, 0, true, false⟩] ++ ⟨2, 0, false, false⟩ :: [] := by decide
theorem test_mailbox : (match exec (.mailboxWordAvailable 0) mailS with | .next u => (u.ctx 0).mailbox.map fun m => m.ready | _ => []) =
    [true, true] := by decide
def tsfS (n : Nat) : State := { jobC fun c => { c with tsfNew := [(0, 24, 7)], tsf := [(0, 9)] } with now := n }
theorem test_hyps_tsf : ((tsfS 24).ctx 0).tsfNew = [(0, 24, 7)] ∧ 24 ≤ (tsfS 24).now ∧ (tsfS 23).now < 24 := by decide
theorem test_tsf : (match exec (.tsfVisible 0) (tsfS 24) with | .next u => ((u.ctx 0).tsf.get 0 0, (u.ctx 0).tsf.get 1 0) | _ => (0, 0)) = (7, 9) := by
  decide
def noteS : State := jobC fun c => { c with cqv := [{ aCall with ty := .note }, aCall] }
theorem test_hyps_note : (noteS.ctx 0).calls true = [{ aCall with ty := .note }, aCall] ∧ ((noteS.ctx 0).calls false).head?.map (·.ty) ≠ some .note := by
  decide
/-- A NOTE has gone in this cycle; the next one stays until the clock has moved. -/
theorem test_hyps_noted : (noteS.ctx 0).noted.get 0 0 ≠ noteS.crewNow (crewOf 0) + 1 ∧
    ((jobC fun c => { c with noted := [(0, 1)] }).ctx 0).noted.get 0 0 = jobS.crewNow (crewOf 0) + 1 := by decide
theorem test_note_stays : (match exec (.noteCallDiscard 0 true) (noteS.setCtx 0 { noteS.ctx 0 with noted := [(0, 1)] }) with
    | .next u => (u.ctx 0).cqv.length | _ => 0) = 2 := by decide
theorem test_note : (match exec (.noteCallDiscard 0 true) noteS with | .next u => (u.ctx 0).cqv | _ => []) = [aCall] := by decide
theorem test_hyps_act : (1 : Word) &&& 1 ≠ (jobS.ctx 0).act ∧ (2 : Word) &&& 1 = (jobS.ctx 0).act ∧ jobS.vecAtCall 0 = false ∧
    quietS.vecAtCall 0 = true := by decide
theorem test_act : (match exec (.actWrite 0 1) quietS with | .next u => (u.ctx 0).act | _ => 9) = 1 := by decide

theorem test_hyps_translations : (pkS 1 [3]).xlateVirt 1024 1 .load 0x1234 = .ok 0x1234 ∧
    (pkS 1 [3]).xlateVirt 1024 1 .load 0x4000_0000 = .bad ⟨16, 1⟩ ∧ (2 : Nat) ^ 48 ≤ (0x1_0000_0000_0000 : Word).toNat ∧
    (pkS 1 [3]).cached 0 1 0x1234 = none ∧ jobS.cached 0 1 0x1234 = some page ∧
    jobS.xlateVirt 0 1 .load 0x1234 = .ok 0x1234 ∧ fieldOf (svcS.part 1).pd0 63 1 = 0 := by decide
theorem test_waits_for_walk : (match (pkS 1 [3]).xlateVirt 0 1 .load 0x1234 with | .ok _ => 1 | .bad _ => 2 | _ => 3) = 3 := by decide

/-- CPY of 32 bytes from 0x2000 to scratchpad offset 0 at the head of the job's cpq, waiting for token 1. -/
def cpy : Cmd := { opc := 0x0A0, tok := ⟨1, 2⟩, a := 0, b := 0x2000, c := 32, mods := 1, pc := 0x8000, forker := .cox 0, seq := 0, gen := 0 }
def cpS (c : Cmd) (n : BitVec 16) : State := jobC fun x => { x with cpq := [c], tokens := [(1, n)] }
theorem test_hyps_copy_start : (cpS cpy 1).copyTurn 0 = some 0 ∧ ((cpS cpy 1).ctx 0).canStart = true ∧ (jobS.ctx 0).canStart = false ∧
    ((cpS cpy 1).ctx 0).cpq = [cpy] ∧ cpy.opc = opCpy ∧ cpy.dsp ≠ cpy.ssp ∧ cpy.a.toNat + 32 ≤ ((cpS cpy 1).ctx 0).spadLen ∧
    (job.spadLen : Nat) < 0x2000 + 32 ∧ overlaps 0 32 31 32 = true ∧ overlaps 0 32 32 32 = false := by decide
/-- Nothing else keeps the CPY from starting: no copy is over, its own stores have performed, no MX head takes of its
token. -/
theorem test_hyps_copy_starts : (cpS cpy 1).NoneOver 0 ∧ (cpS cpy 1).acked cpy = true ∧ (cpS cpy 1).mxTakes 0 cpy.tok.wait.toNat = false ∧
    cpy.tok.wait ≠ 0 ∧ (takesS true).mxTakes 0 1 = true := ⟨fun _ h => (by cases h), by decide⟩
theorem test_copy_waits_for_mx : (match exec (.copyCommandStart 0)
      ((takesS true).setCtx 0 { (takesS true).ctx 0 with cpq := [cpy] }) with
    | .next u => ((u.ctx 0).cpq.length, (u.ctx 0).token 1) | _ => (9, 9)) = (1, 5) := by decide
theorem test_hyps_copy_poison : ({ cpS cpy 1 with poison := [queuePiece 0 11 0] } : State).headPoisoned 0 11 = true ∧
    (cpS cpy 1).headPoisoned 0 11 = false := by decide
theorem test_copy_start : (match exec (.copyCommandStart 0) (cpS cpy 1) with
    | .next u => ((u.ctx 0).token 1, (u.ctx 0).copies.map fun x => (x.total, x.st)) | _ => (9, [])) = (0, [(32, 0)]) := by decide
/-- The CPY has read 16 of its bytes. -/
def moving : Copy := { Copy.start cpy 1 0 with total := 32, buf := List.replicate 16 7 }
def moveS (x : Copy) : State := jobC fun c => { c with copies := [x] }
theorem test_hyps_chunk : (moveS moving).chunkCands 0 = [moving] ∧ jobS.chunkCands 0 = [] ∧ moving.phase = .moving ∧
    moving.cmd.forker.home = 0 ∧ moving.dstAt 0 = (.spad 0, 16) ∧ Nat.min 16 (moving.total - moving.pos) ≤ moving.buf.length := by decide
/-- A command of home h that goes on alone. -/
def chunkOk (s : State) (h : Nat) (x : Copy) : Bool :=
  s.chunkCands h == [x] && x.cmd.forker.home == h && x.phase != .done
theorem chunk_ok {s : State} {h : Nat} {x : Copy} (a : (s.ctx h).copies = [x]) (k : chunkOk s h x = true) : ChunkOf s h x := by
  simp only [chunkOk, Bool.and_eq_true, beq_iff_eq, bne_iff_ne] at k
  exact ⟨k.1.1, k.1.2, fun y hy e => absurd e (by rw [a, List.mem_singleton] at hy; rw [hy]; exact k.2), by simp [a]⟩

/-- A started command of the job: its opcode, a, b and c, what it has moved, and what it holds. -/
def kC (opc : BitVec 9) (a b c : Word) (total : Nat) (buf : List Byte) (ph : CopyPhase := .moving) (mods : BitVec 10 := 0)
    (tail : List Nat := []) : Copy :=
  { Copy.start { cpy with opc := opc, a := a, b := b, c := c, mods := mods } 1 0 with
    phase := ph, total := total, buf := buf, tail := tail }
def b16 : List Byte := List.replicate 16 7
/-- A CPY, to memory, to another device, to an address that is none; an LOGB, a fill, a CPX of 2 rows and 3 columns of
4 bytes, a CPG of elements 5 and 0xFFFFFFFF, and its list; a CPK of one row, a CPQ of 32 elements, a CPR, a MSG, an NVQ. -/
def cpyK : Copy := kC opCpy 0x2100 0x2000 32 32 b16
def farK : Copy := kC opCpy 0x80_0000_0000 0x2000 32 32 b16
def offK : Copy := kC opCpy 0x1_0000_0000_0000 0x2000 32 32 b16
def logK : Copy := kC opLogb 0x2000 0x2800 0x1234 1024 b16
def fillK (buf : List Byte) : Copy := kC opRtacq 1 0 0 32 buf .filling 0 [1, 0x2100, 0x2000]
def cpxK : Copy := kC opCpx 0x2100 0x2000 0x2_0003_0002 24 []
def cpgK (buf : List Byte) : Copy := kC opCpg 0x2100 0x2000 0x3000 8 buf .moving 0 [4, 5, 0xFFFFFFFF]
def cpsK : Copy := kC opCps 0x2100 0x2000 0x3000 8 (List.replicate 4 7) .moving 0 [4, 0xFFFFFFFF, 5]
def listK (total : Nat) : Copy := kC opCpg 0x2100 0x2000 0x3000 total [] .list 0 [4]
def cpkK (buf : List Byte) : Copy := kC opCpk 0x100 0x200 5 48 buf
def cpqK (buf : List Byte) (out : List Byte) : Copy := { kC opCpq 0x2100 0x2000 32 34 buf with out := out }
def cprK (buf : List Byte) : Copy := kC opCpr 0x2100 0x2000 8 32 buf .moving 4
def msgK : Copy := kC opMsg 0x2000 0x0007_0000_0080_0000 0x8200 32 b16
def nvqE (buf : List Byte) : Copy := kC opNvq 0x2000 0x2100 0 0 buf .entry
def nvqK (pos : Nat) : Copy := { kC opNvq 0x2000 0x2100 0 32 b16 .moving 0 [32, 0, 0x2200] with pos := pos }
def chunks : List Copy :=
  [cpyK, { cpyK with buf := [] }, farK, offK, logK, fillK [], fillK b16, cpxK, cpgK [], cpgK (List.replicate 4 7), cpsK, listK 8,
    listK 16, cpkK [], cpkK b16, cpqK [] [], cpqK (List.replicate 128 0) [], cpqK [] b16, cprK [], cprK b16, msgK, nvqE b16,
    nvqE (List.replicate 48 2), nvqE (2 :: List.replicate 47 0), nvqK 0, nvqK 32]
theorem test_hyps_chunks : ∀ x ∈ chunks, ChunkOf (moveS x) 0 x := fun x h =>
  chunk_ok rfl (List.all_eq_true.mp (show (chunks.all fun x => chunkOk (moveS x) 0 x) = true by decide) x h)
/-- A service core's thread. -/
def svcK : Copy := { Copy.start { copyCmd with a := 0x2100, b := 0x2000, c := 32 } 0 0 with total := 32, buf := b16 }
def svcCopyS : State := svcS.setCtx 1024 { Ctx.reset with copies := [svcK] }
theorem test_hyps_svc_chunk : ChunkOf svcCopyS 1024 svcK := chunk_ok rfl (by decide)
/-- The checks of the next piece of `x` at its source and its destination pass. -/
def loadOk (x : Copy) : Bool :=
  ((moveS x).chunkState 0).locChk 0 .load (x.srcAt (x.pos + x.buf.length)).1 (x.srcAt (x.pos + x.buf.length)).2 == .ok
def storeOk (x : Copy) : Bool := ((moveS x).chunkState 0).locChk 0 .store (x.dstAt x.pos).1 (x.dstAt x.pos).2 == .ok
theorem test_hyps_pieces : ([{ cpyK with buf := [] }, fillK [], cpgK [], cpqK [] [], cprK [], msgK].all loadOk) = true ∧
    ([cpyK, logK, fillK b16, cpgK (List.replicate 4 7), cpsK].all storeOk) = true ∧ (cpsK.dstAt 0).1 = .nowhere ∧
    ((moveS offK).chunkState 0).locChk 0 .store (.dev none 0x1_0000_0000_0000) 16 = .bad ⟨16, 5⟩ 0x1_0000_0000_0000 ∧
    (svcCopyS.chunkState 1024).locChk 1024 .store (.dev none 0x2100) 16 = .ok ∧ offK.isFill = false := by decide
def farCopyS : State :=
  { moveS farK with reach := [1], remoteFot := [(2 ^ 19, 2)] }.setCrew 0
    { Crew.reset with tlb := [{ page with va := 0x80_0000_0000, pa := 2 * 2 ^ 40 }] }
theorem test_hyps_far_copy : ChunkOf farCopyS 0 farK := chunk_ok rfl (by decide)
theorem test_hyps_far_copy_piece : (farCopyS.chunkState 0).locChk 0 .store (.dev none 0x80_0000_0000) 16 = .ok ∧
    2 ^ 40 ≤ (farCopyS.chunkState 0).engAddr 0 none .store 0x80_0000_0000 := by decide
theorem test_cpx_places : (cpxK.srcAt ((2 * 2 + 1) * 4 + 3)).1 = .dev none (0x2000 + (1 * 3 + 2) * 4 + 3) := by decide
theorem test_hyps_list_piece : ((moveS (listK 8)).chunkState 0).engChk 0 none .load 0x3008 8 = .ok ∧
    (moveS (listK 8)).listCheck 0 (listK 8).cmd 2 4 [0, 0] = 0 ∧ (moveS (listK 8)).listCheck 0 (listK 8).cmd 2 4 [64, 0] = 1 := by
  decide
theorem test_hyps_topk : (moveS (cpkK [])).accRowPoisoned 0 0 = false := by decide
theorem test_hyps_quantise : (cpqK [] []).pos < 32 ∧ (cpqDst (cpqK [] b16) 0).2 = 16 ∧ (cpqK [] b16).out.length = 16 ∧
    ((moveS (cpqK [] b16)).chunkState 0).locChk 0 .store (cpqDst (cpqK [] b16) 0).1 16 = .ok := by decide
theorem test_hyps_reduce : ((moveS (cprK b16)).chunkState 0).engChk 0 none .both 0x2100 16 = .ok ∧ 16 % cprSize (cprK b16).cmd = 0 := by
  decide
theorem test_hyps_nvq : ((moveS (nvqE b16)).chunkState 0).engChk 0 none .load 0x2010 16 = .ok ∧
    ((moveS (nvqE b16)).chunkState 0).engChk 0 none .load 0x2030 16 = .ok ∧ nvmeOk (2 :: List.replicate 63 0) = true ∧
    nvmeOk (List.replicate 64 1) = false ∧ ({ moveS (nvqE b16) with linkUp := true } : State).linkUp = true ∧
    ((moveS (nvqK 0)).chunkState 0).engChk 0 (some 1) .store 0x2200 16 = .ok ∧
    ((moveS (nvqK 32)).chunkState 0).engChk 0 none .store 0x2100 16 = .ok ∧ (0x2100 : Word).toNat % 16 = 0 := by decide
def nvqS : State := { moveS (nvqE (2 :: List.replicate 47 0)) with linkUp := true }
theorem test_hyps_nvq_submits : ChunkOf nvqS 0 (nvqE (2 :: List.replicate 47 0)) := chunk_ok rfl (by decide)
theorem test_hyps_nvq_entry : (nvqS.chunkState 0).engChk 0 none .load 0x2030 16 = .ok ∧
    (nvmeOk (2 :: List.replicate 47 0 ++ ((nvqS.chunkState 0).locRead 0 (.dev none 0x2030) 16).1) && nvqS.linkUp) = true := by decide
/-- The turn of the CPY in COPY_CHUNK. -/
def chunkOf (s : State) (x : Copy) : State := (s.copyTurnOf 0 x).copyDone 0
def readS : State := (moveS { moving with buf := [] }).rawWrite 0x2000 [5]
def lastC : Copy := { moving with pos := 16 }
theorem test_chunk_reads : ((chunkOf readS { moving with buf := [] }).ctx 0).copies.map (fun x => (x.pos, x.buf.take 1)) = [(0, [5])] := by
  decide
theorem test_chunk_writes : ((chunkOf (moveS moving) moving).ctx 0).copies.map (fun x => (x.pos, x.buf.length)) = [(16, 0)] ∧
    (chunkOf (moveS moving) moving).spadRead 0 15 2 = [7, 0] := by decide
theorem test_chunk_ends : ((chunkOf (moveS lastC) lastC).ctx 0).copies.length = 0 ∧
    ((chunkOf (moveS lastC) lastC).ctx 0).token 2 = 1 := by decide
theorem test_list_read : ((chunkOf ((moveS (listK 8)).rawWrite 0x3008 (bytesLE 4 32 ++ bytesLE 4 48)) (listK 8)).ctx 0).copies.map
    (fun x => (x.phase, x.total, x.tail)) = [(.moving, 8, [4, 32, 48])] := by decide
theorem test_reduce : (chunkOf ((moveS { cprK (bytesLE 16 5) with cmd := { (cprK []).cmd with mods := 16 } }).rawWrite 0x2100 [7])
    { cprK (bytesLE 16 5) with cmd := { (cprK []).cmd with mods := 16 } }).rawRead 0x2100 1 = [12] := by decide
def copied : Copy := { moving with phase := .done, pos := 32, st := 2 }
theorem test_hyps_copy_complete : ((moveS copied).ctx 0).copies.find? (fun x => x.phase == .done) = some copied ∧
    (moveS copied).remoteDone (.cox 0) = true ∧ ((moveS moving).ctx 0).copies.find? (fun x => x.phase == .done) = none ∧
    ({ moveS copied with posted := [⟨.cox 0, none, none, 2 ^ 41, [1], false, []⟩] } : State).remoteDone (.cox 0) = false ∧ cpy.tok.sig ≠ 0 := by decide
theorem test_hyps_copy_acked : (moveS copied).acked copied.cmd = true ∧ copied.gen = ((moveS copied).ctx 0).gen ∧
    ((moveS copied).ctx 0).copies.filter (fun x => x.phase == .done && (moveS copied).acked x.cmd) = [copied] ∧
    ({ moveS copied with posted := [⟨.cox 0, some cpy.number, none, 2 ^ 41, [1], false, []⟩] } : State).acked copied.cmd = false ∧
    { copied with gen := 9 }.gen ≠ ((moveS copied).ctx 0).gen := by decide
theorem test_copy_complete : (match exec (.copyComplete 0) (moveS copied) with
    | .next u => ((u.ctx 0).token 2, fieldOf (u.ctx 0).cpst 0 4) | _ => (0, 0)) = (1, 2) := by decide
/-- A fill of entry 1 of partition 1's table has moved everything; job 1 waits for it. -/
def rtCmd : Cmd := { copyCmd with opc := 0x0A8, forker := .cox 0 }
def fillC (st : BitVec 4) : Copy := { Copy.start rtCmd 1 0 with phase := .filling, total := 16, pos := 16, st := st, tail := [1, 0, 0] }
def waitC : Copy := { Copy.start rtCmd 1 0 with phase := .fill, tail := [1] }
def fillS (st : BitVec 4) : State :=
  let s := mapped (jobS.rawWrite 0x50020 (bytesLE 8 0x30001))
  let s1 := s.setPart 1 { Part.reset with pd0 := 0x8000_0000_0010_0000, rtd0 := 0x50000, rtd1 := 2 }
  (s1.setCtx 0 { s1.ctx 0 with copies := [fillC st] }).setCtx 1 { Ctx.reset with job := some job, copies := [waitC] }
theorem test_hyps_fill : ((fillS 0).ctx 0).copies.find? (fillS 0).fillOver = some (fillC 0) ∧ (jobS.ctx 0).copies.find? jobS.fillOver = none ∧
    ((fillS 4).ctx 0).copies.find? (fillS 4).fillOver = some (fillC 4) ∧ (fillS 0).rtChk 0 1 1 0 = .ok ∧ (fillS 0).memWf = true ∧
    ((fillS 0).ctx 1).copies = [waitC] ∧ waitC.phase = .fill := by decide
theorem test_fill : (match exec (.residencyFillComplete 0) (fillS 0) with
    | .next u => (u.rawRead 0x50020 3, (u.ctx 1).copies.length) | _ => ([], 9)) = ([2, 0, 3], 0) := by decide

/-! ## Events: messages, spores, the grammar unit -/

/-- A MSG of 16 bytes for tag 7 on core 0, offset 0x100 and pc 0x8200, with its payload read. -/
def msgCmd : Cmd := { copyCmd with opc := opMsg, b := 0x0007_0000_0080_0000, c := 0x8200, forker := .cox 1 }
def msgC (ph : CopyPhase) (pos : Nat) : Copy :=
  { Copy.start msgCmd 1 0 with phase := ph, total := 16, pos := pos, buf := List.replicate 16 9 }
/-- Job 1 sends it; spore 2 of job 0 has a tag and a state. -/
def msgS (x : Copy) (tag : BitVec 16) (st : SporeState) : State :=
  (jobC fun c => { c with spores := [(2, ⟨st, tag⟩)] }).setCtx 1 { Ctx.reset with job := some job, copies := [x] }
def small : State := (msgS (msgC .moving 0) 7 .armed).setCtx 0
  { Ctx.reset with job := some { job with spadLen := 0x108 }, spores := [(2, ⟨.armed, 7⟩)] }
theorem test_hyps_message : (msgS (msgC .moving 0) 7 .armed).inTransitTo 0 = [(1, 0)] ∧ jobS.inTransitTo 0 = [] ∧
    (msgS (msgC .moving 0) 7 .armed).copyOf 1 0 = some (msgC .moving 0) ∧
    (msgS (msgC .moving 0) 7 .armed).msgMatch 0 1 7 = some (0, 2) ∧ (msgS (msgC .moving 0) 8 .armed).msgMatch 0 1 7 = none ∧
    (msgS (msgC .moving 0) 7 .armed).spadOk 0 0x100 16 = true ∧ small.spadOk 0 0x100 16 = false ∧
    small.msgMatch 0 1 7 = some (0, 2) ∧ (msgS (msgC .moving 0) 7 .armed).portHead 0 2 = none ∧
    ((msgS (msgC .moving 0) 7 .armed).ctx 0).spore 2 = ⟨.armed, 7⟩ ∧
    ((msgS (msgC .moving 0) 7 .running).ctx 0).spore 2 = ⟨.running, 7⟩ := by decide
def portS (ph : CopyPhase) (pos : Nat) (st : SporeState) : State :=
  let s := msgS (msgC ph pos) 7 st
  s.setCore 0 { s.core 0 with port := [⟨1, 0, 0, 2⟩] }
theorem test_hyps_spore : (portS (.deliver 0 2) 16 .filling).portHead 0 2 = some ⟨1, 0, 0, 2⟩ ∧
    (portS (.deliver 0 2) 16 .filling).copyOf 1 0 = some (msgC (.deliver 0 2) 16) ∧
    (portS (.deliver 0 2) 0 .filling).copyOf 1 0 = some (msgC (.deliver 0 2) 0) ∧
    (portS (.message 0 2) 0 .running).portHead 0 2 = some ⟨1, 0, 0, 2⟩ := by decide
theorem test_hyps_deliver : ChunkOf (portS (.deliver 0 2) 0 .filling) 1 (msgC (.deliver 0 2) 0) := chunk_ok rfl (by decide)
theorem test_hyps_lost : ChunkOf (msgS (msgC (.message 0 2) 0) 7 .running) 1 (msgC (.message 0 2) 0) ∧
    ChunkOf (msgS (msgC (.deliver 0 2) 0) 7 .idle) 1 (msgC (.deliver 0 2) 0) :=
  ⟨chunk_ok rfl (by decide), chunk_ok rfl (by decide)⟩
theorem test_hyps_delivers : (portS (.deliver 0 2) 0 .filling).msgLost 1 (msgC (.deliver 0 2) 0) 0 = false ∧
    (msgS (msgC (.message 0 2) 0) 7 .running).msgLost 1 (msgC (.message 0 2) 0) 0 = true ∧
    (msgS (msgC (.deliver 0 2) 0) 7 .idle).msgLost 1 (msgC (.deliver 0 2) 0) 0 = true := by decide
theorem test_deliver : ((portS (.deliver 0 2) 0 .filling).copyTurnOf 1 (msgC (.deliver 0 2) 0)).spadRead 0 0xFF 2 = [0, 9] := by decide
theorem test_spore_start : (match exec (.sporeStart 0 2) (portS (.deliver 0 2) 16 .filling) with
    | .next u => ((u.stream (.spore 0 2)).pc, u.reg (.spore 0 2) 1, u.reg (.spore 0 2) 2) | _ => (0, 0, 0)) = (0x8200, 0x100, 16) := by
  decide

/-- A GMLD of the descriptor at 0x3000, with 2 states; with word 5 of the descriptor set it is bad. -/
def gmCmd : Cmd := { copyCmd with a := 0x3000, pc := 0x8000, tok := ⟨0, 3⟩, forker := .cox 0 }
def gmS (w5 : Byte) : State :=
  (mapped ((jobC fun c => { c with grammar := { Grammar.reset with load := some gmCmd } }).rawWrite 0x3000
    (bytesLE 8 1 ++ List.replicate 32 0 ++ [w5]))).setPart 1 { Part.reset with pd0 := 0x8000_0000_0010_0000 }
theorem test_hyps_descriptor : ((gmS 0).ctx 0).grammar.load = some gmCmd ∧ (jobS.ctx 0).grammar.load = none ∧
    (gmS 0).chk 0 .load 0x3000 64 = .ok ∧ gmCmd.seq = 0 ∧ ((gmS 1).ctx 0).handling = none ∧
    descriptorOk (wordsOf 8 ((gmS 0).readV 0 .load .l1 0x3000 64).1) = true ∧
    descriptorOk (wordsOf 8 ((gmS 1).readV 0 .load .l1 0x3000 64).1) = false ∧
    (((gmS 1).readV 0 .load .l1 0x3000 64).2.stream (.cox 0)).status ≠ .stopped ∧
    (((gmS 1).readV 0 .load .l1 0x3000 64).2.ctx 0).handling = none := by decide
theorem test_descriptor : (match exec (.grammarDescriptorLoad 0) (gmS 0) with
    | .next u => ((u.ctx 0).grammar.ns, (u.ctx 0).grammar.loaded, (u.ctx 0).token 3) | _ => (0, false, 0)) = (2, true, 1) := by decide

/-! ## Events: the array -/

def leaseL : Lease := { job := 0, cmds := 0, rows := 0, group := none, groupRows := 0, waited := 0 }
/-- Job 0 holds crew 0's array, `m` is at the head of its mxq, and the directory and the rest of the crew are as given. -/
def arrS (m : Mx) (f : Crew → Crew) : State :=
  let s := jobC fun c => { c with mx := some m }
  s.setCrew 0 (f { s.crew 0 with lease := some leaseL })
/-- A command of handle 7 with opcode, second and third operand and modifiers. -/
def dirM (opc : BitVec 9) (b c : Word) (mods : BitVec 10) : Mx :=
  { mx0 with cmd := { mxCmd with opc := opc, a := 7, b := b, c := c, mods := mods }, rows := 1 }
def bound (pin kind fmt : Nat) : Word := mkEntry 7 1 pin 0 fmt kind false stLive
def has4 (e : Word) (c : Crew) : Crew := { c with dir := [(4, e)] }

theorem test_hyps_lease : (mxqS 1).nextHolder 0 = some 0 ∧ ((mxqS 1).crew 0).lease = none ∧ jobS.nextHolder 0 = none ∧
    ((arrS mx0 id).crew 0).lease.isSome = true := by decide
theorem test_lease_grant : (match exec (.leaseGrant 0) (mxqS 1) with
    | .next u => ((u.crew 0).lease.map fun l => l.job, (u.crew 0).portFree) | _ => (none, 0)) = (some 0, 2) := by decide
/-- The holder has a group of 4 commands left, and its head, which is not there, has waited n cycles. -/
def groupS (n : Nat) : State :=
  (arrS mx0 fun c => { c with lease := some { leaseL with group := some 4, waited := n } }).setCtx 0 { Ctx.reset with job := some job }
theorem test_hyps_group : ((groupS 1024).crew 0).lease = some { leaseL with group := some 4, waited := 1024 } ∧
    (groupS 1023).headWaits 0 = true ∧ ((groupS 1023).crew 0).portOpen ((groupS 1023).crewNow 0) = true ∧
    (arrS (dirM opMxevp 0 0 0) id).headWaits 0 = false ∧
    ((arrS mx0 fun c => { c with portFree := 9 }).crew 0).portOpen 0 = false := by decide
theorem test_wait_counts : (((groupS 1023).leaseCycle 0).crew 0).lease.map (·.waited) = some 1024 := by decide
theorem test_group_limit : (match exec (.groupWaitLimit 0) (groupS 1024) with | .next u => (u.crew 0).lease | _ => some leaseL) = none := by
  decide

/-- The MXMM of one row of 2 elements against 2 columns, into row 3, before its start; format word E4M3, E4M3, binary32. -/
def mmCmd (m : Nat) : Cmd :=
  { mxCmd with opc := opMxmm, tok := ⟨1, 2⟩, a := 0x3000, b := 0x2800, c := BitVec.ofNat 64 (3 * 2 ^ 48 + 0x0002_0002_0000 + m) }
def startS (cmd : Cmd) (fq : List Word) (tok : BitVec 16) : State :=
  let s := jobC fun c => { c with mxq := [cmd], fq := fq, tokens := [(1, tok)] }
  s.setCrew 0 { s.crew 0 with lease := some leaseL }
def afterPop (s : State) (m : Mx) : State := s.setCtx 0 ((s.ctx 0).takeWait m.cmd.tok).popFmt
def headM (s : State) : Option Mx := (s.ctx 0).head.map (·.1)
theorem test_hyps_start : headM (startS (mmCmd 1) [0x711] 1) = some (Mx.fresh (mmCmd 1)) ∧
    (startS (mmCmd 1) [0x711] 1).startReady 0 (Mx.fresh (mmCmd 1)) = true ∧
    (startS (mmCmd 1) [0x711] 0).startReady 0 (Mx.fresh (mmCmd 1)) = false ∧
    ((startS (mmCmd 1) [0x711] 1).ctx 0).redoes = false ∧ leaseL.over = false ∧
    (startS (mmCmd 1) [0x711] 1).startPoisoned 0 (Mx.fresh (mmCmd 1)) = false ∧
    ({ startS (mmCmd 1) [0x711] 1 with poison := [queuePiece 0 9 0] } : State).startPoisoned 0 (Mx.fresh (mmCmd 1)) = true ∧
    (afterPop (startS (mmCmd 1) [0x711] 1) (Mx.fresh (mmCmd 1))).startFault 0 (mmCmd 1) (some 0x711) = none ∧
    (afterPop (startS (mmCmd 0) [0x711] 1) (Mx.fresh (mmCmd 0))).startFault 0 (mmCmd 0) (some 0x711) = some 6 := by decide
theorem test_start : (match exec (.matrixCommandStart 0) (startS (mmCmd 1) [0x711] 1) with
    | .next u => ((u.ctx 0).mx.map fun m => (m.began, m.fmt, m.rows), (u.ctx 0).token 1) | _ => (none, 9)) = (some (true, 0x711, 32), 0) := by
  decide
theorem test_start_shape : (match exec (.matrixCommandStart 0) (startS (mmCmd 0) [0x711] 1) with
    | .next u => (u.ctx 0).records.map fun r => (r.cls, r.sub) | _ => []) = [(5, 6)] := by decide

/-- MXLDP of 2 × 2 cells at 0x3000. -/
def ldpCmd : Cmd := { mxCmd with opc := opMxldp, a := 0x3000, b := 0, c := 0x0002_0002_0000 }
theorem test_hyps_ldp : (startS ldpCmd [0x711] 0).startReady 0 (Mx.fresh ldpCmd) = true ∧
    (afterPop (startS ldpCmd [0x711] 0) (Mx.fresh ldpCmd)).startFault 0 ldpCmd (some 0x711) = none := by decide
/-- Its load has `l` of its pieces to read, at cycle n; the shadow is in state st. -/
def loadOf (l : List (Word × Nat)) : Load := ⟨0, 0, ldpCmd, 0x711, 0, l, if l.isEmpty then [1, 2, 3, 4] else [], []⟩
def loadS (st n : Nat) (l : List (Word × Nat)) : State :=
  let s := mapped (jobS.rawWrite 0x3000 [1, 2, 3, 4])
  let s1 := s.setPart 1 { Part.reset with pd0 := 0x8000_0000_0010_0000 }
  { s1.setCrew 0 { s1.crew 0 with load := some (loadOf l), dir := [(16, mkEntry 0xFFFF 1 0 0 1 0 false st)] } with now := n }
theorem test_hyps_shadow_load : ((loadS 1 1 []).crew 0).load = some (loadOf []) ∧ (jobS.crew 0).load = none ∧
    (loadS 1 0 []).crewNow 0 < 0 + ldpCycles ldpCmd ∧ 0 + ldpCycles ldpCmd ≤ (loadS 1 1 []).crewNow 0 ∧
    (loadOf [(0x3000, 4)]).left ≠ [] ∧ (loadS 1 1 [(0x3000, 4)]).chkPieces 0 .load [(0x3000, 4)] = .ok ∧
    (((loadS 1 1 []).ctx 0).held.any fun x => x.mx.cmd.seq == ldpCmd.seq && x.mx.stopped) = false := by decide
theorem test_ldp_pieces : partPieces (ldpParts ldpCmd 0x711).flatten = [(0x3000, 4)] := by decide
theorem test_shadow_reads : (match exec (.shadowFull 0) (loadS 1 1 [(0x3000, 4)]) with
    | .next u => (u.crew 0).load.map fun l => (l.left.length, l.bytes) | _ => none) = some (0, [1, 2, 3, 4]) := by decide
theorem test_shadow_full : (match exec (.shadowFull 0) (loadS 1 1 []) with
    | .next u => (eState ((u.crew 0).entry 16), (u.crew 0).load.isNone) | _ => (0, false)) = (stFull, true) := by decide
theorem test_hyps_load_states : eState (((loadS 1 1 []).crew 0).entry 16) = stLoading ∧
    eState (((loadS 0 1 []).crew 0).entry 16) ≠ stLoading := by decide

/-- The MXMM has begun, with or without its row read. -/
def mmM (m pos : Nat) : Mx := { mx0 with cmd := mmCmd m, fmt := 0x711, pos := pos, rows := 32 }
def rowF (hnd : BitVec 16) : Fetch :=
  { idx := 0, handle := hnd, x := [0x38, 0x40], dy := [], rs := 0x3F800000, sdy := 0x3F800000, ea := [], lines := [] }
def fetS (m : Mx) (f : Option Fetch) (g : Crew → Crew) : State :=
  let s := arrS m g
  s.setCtx 0 { s.ctx 0 with fetched := f }
def farM : Mx := { mmM 1 0 with cmd := { mmCmd 1 with a := 0x1_0000_0000_0000, b := 0x1_0000_0000_0000 } }
theorem test_hyps_line : (mmM 1 0).reads = true ∧ (mmM 1 1).reads = false ∧ ((fetS (mmM 1 0) none id).ctx 0).has (mmM 1 0) = false ∧
    ((fetS (mmM 1 0) (some (rowF 7)) id).ctx 0).has (mmM 1 0) = true ∧
    ((fetS (mmM 1 0) none id).ctx 0).tokReady (mmM 1 0) = true ∧
    ((fetS { mmM 1 0 with tookTok := false } none id).ctx 0).tokReady { mmM 1 0 with tookTok := false } = false ∧
    (fetS (mmM 1 0) none id).fetchCheck 0 (((fetS (mmM 1 0) none id).ctx 0).fetchNow (mmCmd 1) 0x711 0) = .ok ∧
    (match (fetS farM none id).fetchCheck 0 (((fetS farM none id).ctx 0).fetchNow farM.cmd 0x711 0) with
      | .bad c _ => c.cls | _ => 0) = 16 ∧ farM.began = true ∧ farM.reads = true := by decide
/-- Its first piece is its handle's; behind it the row's own pieces are read. -/
theorem test_line_reads : (match exec (.tileLineArrival 0) (fetS (mmM 1 0) none id) with
    | .next u => (u.ctx 0).fetching.map fun y => (y.idx, y.handle) | _ => none) = some (0, some 0) := by decide

/-- The MXKAT of tile 0 of job 0 waits for job 1's mxq to become empty. -/
def katS (other : Bool) (n : Nat) : State :=
  let s := { jobC fun c => { c with mxq := [{ mxCmd with opc := opMxkat }], mxWaitFrom := some 0 } with now := n }
  if other then s.setCtx 1 { Ctx.reset with job := some job, mxq := [mxCmd] } else s
theorem test_hyps_kat : (katS true 65536).katHeld 0 = true ∧ (katS false 0).katHeld 0 = false ∧ 0 + 65536 ≤ (katS true 65536).now ∧
    (katS true 65535).now < 0 + 65536 ∧ ((katS true 0).ctx 0).mxWaitFrom = some 0 ∧
    headM (katS true 0) = some (Mx.fresh { mxCmd with opc := opMxkat }) ∧
    ((katS false 65536).ctx 0).tokReady (Mx.fresh { mxCmd with opc := opMxkat }) = true := by decide
/-- The wait is over although job 1's mxq is empty now: the command starts no more. -/
theorem test_kat_late : (katS false 65536).startReady 0 (Mx.fresh { mxCmd with opc := opMxkat }) = false := by decide
theorem test_kat_timeout : (match exec (.mxkatTimeout 0) (katS true 65536) with
    | .next u => (fieldOf (u.ctx 0).mxst 0 4, (u.ctx 0).mxq.length) | _ => (0, 0)) = (7, 0) := by decide

theorem test_hyps_port : (jobS.crew 0).lease.isNone = true := by decide
theorem test_hyps_port_closed : (arrS mx0 fun c => { c with portFree := 1 }).entryOpen 0 = false ∧
    ({ svcS.setZone 0 { Zone.reset with cata := 2 } with now := 1 } : State).ticks 0 = false ∧
    (arrS mx0 id).entryOpen 0 = true ∧ ((arrS mx0 id).crew 0).fevDue ((arrS mx0 id).crewNow 0) = none := by decide
theorem test_serves_evp : PortServes (arrS (dirM opMxevp 0 0 0) (has4 (bound 0 0 1))) 0 leaseL (dirM opMxevp 0 0 0) := by
  constructor <;> decide
theorem test_serves_pin : PortServes (arrS (dirM opMxpin 0 0 1) (has4 (bound 0 0 1))) 0 leaseL (dirM opMxpin 0 0 1) := by
  constructor <;> decide
theorem test_serves_swp : PortServes (arrS (dirM opMxswp 4 0 1) (has4 (bound 0 0 1))) 0 leaseL (dirM opMxswp 4 0 1) := by
  constructor <;> decide
theorem test_hyps_directory : (has4 (bound 0 0 1) Crew.reset).find 1 7 = some 4 ∧ Crew.reset.find 1 7 = none ∧ ePin (bound 0 0 1) = 0 ∧
    ePin (bound 255 0 1) = 255 ∧ ePin (bound 3 0 1) ≠ 0 ∧ ePin (bound 3 0 1) ≠ 255 ∧ (dirM opMxpin 0 0 1).cmd.mod0 = true ∧
    (dirM opMxpin 0 0 0).cmd.mod0 = false := by decide

/-- The shadow holds a FULL plane of job 0, or of nobody. -/
def shadow (st : Nat) (t : Word) (c : Crew) : Crew := { c with dir := [(16, mkEntry 0xFFFF 1 0 0 1 0 false st), (4, t)] }
theorem test_hyps_swap : (shadow stFull emptyEntry Crew.reset).swapStatus 0 1 4 7 = 0 ∧ (shadow stFull (bound 1 0 1) Crew.reset).swapStatus 0 1 4 7 = 1 ∧
    (shadow stLoading emptyEntry Crew.reset).swapStatus 0 1 4 7 = 2 ∧ eKind ((shadow stFull emptyEntry Crew.reset).entry 16) ≠ 1 ∧
    (arrS (dirM opMxswp 4 0 0) (shadow stFull emptyEntry)).swapOk 0 (dirM opMxswp 4 0 0).cmd = true ∧
    (shadow 0 emptyEntry Crew.reset).gradStatus 1 1 7 = 0 ∧ (shadow 0 (bound 1 0 1) Crew.reset).gradStatus 1 1 7 = 1 ∧
    (shadow 0 (bound 0 0 1) Crew.reset).gradStatus 1 1 7 = 5 ∧ (dirM opMxswp 4 0 1).cmd.mod0 = true ∧
    (arrS (dirM opMxswp 4 0 1) id).swapOk 0 (dirM opMxswp 4 0 1).cmd = true := by decide
theorem test_swap : (match exec (.rowEntry 0) (arrS (dirM opMxswp 4 0 0) (shadow stFull (bound 0 0 1))) with
    | .next u => (eState ((u.crew 0).entry 4), eState ((u.crew 0).entry 16)) | _ => (0, 0)) = (stLive, stFull) := by decide

theorem test_serves_tsm : PortServes (arrS (dirM opMxtsm 0 0 0) id) 0 leaseL (dirM opMxtsm 0 0 0) := by constructor <;> decide
theorem test_serves_dir : PortServes (arrS (dirM opMxdir 0x3000 0 0) id) 0 leaseL (dirM opMxdir 0x3000 0 0) := by
  constructor <;> decide
def drgM : Mx := { dirM opMxdrg 0x3000 0x0001_0001_0000 0 with fmt := 0x711 }
theorem test_serves_drg : PortServes (arrS drgM (has4 (bound 0 2 7))) 0 leaseL drgM ∧
    ((arrS drgM (has4 (bound 0 2 7))).crew 0).find 1 7 = some 4 ∧ eKind (bound 0 2 7) = 2 ∧ eState (bound 0 2 7) = stLive ∧
    fmtO drgM.fmt = 7 := by
  refine ⟨?_, by decide⟩
  constructor <;> decide

theorem test_serves_mm : PortServes (fetS (mmM 1 0) (some (rowF 7)) (has4 (bound 0 0 1))) 0 leaseL (mmM 1 0) := by
  constructor <;> decide
theorem test_hyps_mm : ((fetS (mmM 1 0) (some (rowF 7)) (has4 (bound 0 0 1))).ctx 0).carried (mmM 1 0) = some (rowF 7) ∧
    (mmM 1 0).pos < shM (mmCmd 1).c ∧ (has4 (bound 0 0 1) Crew.reset).select 1 7 = some 4 ∧ Crew.reset.select 1 7 = none ∧
    (has4 (bound 0 0 1) Crew.reset).mmMismatch 4 (mmCmd 1) 0x711 = false ∧
    (has4 (bound 0 0 2) Crew.reset).mmMismatch 4 (mmCmd 1) 0x711 = true ∧ (rowF 0xFFFF).handle = 0xFFFF ∧
    ((jobS.crew 0).lastGa && decide (jobS.now ≤ (jobS.crew 0).lastDrain)) = false := by decide
theorem test_mm_miss : (match exec (.rowEntry 0) (fetS (mmM 1 0) (some (rowF 7)) id) with
    | .next u => ((u.ctx 0).records.map fun r => (r.cls, r.sub, r.addr)) | _ => []) = [(4, 1, 7)] := by decide
def gaM : Mx := { mmM 1 0 with cmd := { mmCmd 1 with opc := opMxga, c := 0x0001_0001_0001 } }
def gaF : Fetch := { rowF 7 with dy := [0x38] }
def gaS : State := fetS gaM (some gaF) fun c => { has4 (bound 0 2 7) c with lastGa := true }
theorem test_serves_ga : PortServes gaS 0 leaseL gaM := by constructor <;> decide
theorem test_hyps_ga : (gaS.ctx 0).carried gaM = some gaF ∧ gaM.pos < shM gaM.cmd.c ∧ gaF.handle ≠ 0xFFFF ∧
    (gaS.crew 0).select 1 7 = some 4 ∧ eKind ((gaS.crew 0).entry 4) = 2 ∧
    (!(gaS.crew 0).lastGa && decide (gaS.now ≤ (gaS.crew 0).lastDrain)) = false := by decide

/-- Two forced evictions of one cycle wait, the one of SC1 and the one of SC0. -/
def fevS (now : Nat) (l : List FevReq) : State := { planeS.setCrew 0 { planeS.crew 0 with fevs := l } with now := now }
def fevR (at_ svc : Nat) (v : Word) : FevReq := ⟨at_, .write svc v⟩
theorem test_hyps_fev : ((fevS 1 [fevR 0 1 0x1_0007, fevR 0 0 0x2_0007]).crew 0).fevDue 1 = some (fevR 0 0 0x2_0007) ∧
    (fevS 1 [fevR 0 0 0x1_0007]).entryOpen 0 = false ∧
    ((fevS 0 [fevR 0 0 0x1_0007]).crew 0).fevDue 0 = none ∧
    ((fevS 1 [⟨0, .error 4⟩]).crew 0).fevDue 1 = some ⟨0, .error 4⟩ ∧ eBound ((planeS.crew 0).entry 4) = true ∧
    ((fevS 1 [⟨0, .error 4⟩]).crew 0).portOpen 1 = true := by decide
/-- The eviction of an entry whose plane has met an error enters. -/
theorem test_error_eviction : let u := (fevS 1 [⟨0, .error 4⟩]).fevNext 0
    ((u.crew 0).entry 4, (u.crew 0).portFree, (u.crew 0).fevs.length) = (emptyEntry, 2, 0) := by decide
theorem test_fev_order : (match exec (.forcedEviction 0 0x2_0007) (fevS 1 [fevR 0 1 0x1_0007, fevR 0 0 0x2_0007]) with
    | .next u => ((u.crew 0).entry 4, fieldOf (u.crew 0).fev 62 2, (u.crew 0).fevs) | _ => (0, 0, [])) =
    (boundE, 2, [fevR 0 1 0x1_0007]) := by decide
theorem test_hyps_eviction : (planeS.crew 0).portOpen planeS.now = true ∧ (planeS.crew 0).victims 1 7 = [4] ∧
    (planeS.crew 0).victims 2 7 = [] ∧ fieldOf (0x1_0007 : Word) 16 6 = 1 ∧ fieldOf (0x1_FFFF : Word) 0 16 = 0xFFFF ∧
    eState ((shadow stFull emptyEntry Crew.reset).entry 16) ≠ stEmpty ∧ ePart ((shadow stFull emptyEntry Crew.reset).entry 16) = 1 := by
  decide
theorem test_forced_eviction : (match exec (.forcedEviction 0 0x1_0007) planeS with
    | .next u => ((u.crew 0).entry 4, fieldOf (u.crew 0).fev 62 2) | _ => (0, 0)) = (emptyEntry, 1) := by decide

/-! ## Events: drains -/

def flight (k : FlightKind) (cmd : Cmd) (row due : Nat) (dead : Bool) : Flight :=
  { due := due, kind := k, job := 0, gen := 0, cmd := cmd, fmt := 0x711, row := row, slot := some 4, res := 0x40400000, ovf := false, iev := false,
    dead := dead }
def flyS (f : Flight) (w : Option Window) : State :=
  let s := jobC fun c => { c with window := w }
  s.setCrew 0 { s.crew 0 with flights := [f] }
def open_ (cmd : Cmd) : Window :=
  { openAt := 0, first := 2, count := 4, left := 0, kept := [⟨cmd, 0x711, rowF 7, some 4⟩], replaying := false }
theorem test_hyps_drain : firstDue 0 (jobS.crew 0).flights = none ∧
    firstDue 0 ((flyS (flight .mm (mmCmd 1) 0 1 false) none).crew 0).flights = none ∧
    firstDue 0 ((flyS (flight .mm (mmCmd 1) 0 0 false) none).crew 0).flights = some (flight .mm (mmCmd 1) 0 0 false) ∧
    (flyS (flight .mm (mmCmd 1) 0 0 false) none).drainPoisoned (flight .mm (mmCmd 1) 0 0 false) = false ∧
    ((flyS (flight .mm (mmCmd 1) 0 0 true) none).ctx 0).window = none ∧ (flight .mm (mmCmd 1) 0 0 true).dead = true ∧
    (flight .tsm { mxCmd with a := 0x203 } 0 0 false).kind = .tsm ∧
    (flyS (flight .mm (mmCmd 1) 0 0 false) none).mayRun (.vec 0) = false ∧
    ((flyS (flight .mm (mmCmd 1) 0 0 false) none).setCore 0 { CoreSt.reset with slots := [(0, 1)] }).mayRun (.vec 0) = true := by
  decide
theorem test_drain : (match exec (.rowDrain 0 false) (flyS (flight .mm (mmCmd 1) 0 0 false) none) with
    | .next u => (u.row 0 3 == 0x40400000, (u.crew 0).flights.length) | _ => (false, 9)) = (true, 0) := by decide
theorem test_hyps_replay : (open_ (mmCmd 1)).holds (flight .mm (mmCmd 1) 0 0 false) = true ∧ (open_ (mmCmd 1)).replaying = false ∧
    (open_ (mmCmd 1)).first ≤ shRow0 (mmCmd 1).c + 0 ∧ shRow0 (mmCmd 1).c + 0 < (open_ (mmCmd 1)).first + (open_ (mmCmd 1)).count := by
  decide
theorem test_replay : (match exec (.rowDrain 0 true) (flyS (flight .mm (mmCmd 1) 0 0 false) (some (open_ (mmCmd 1)))) with
    | .next u => ((u.ctx 0).window.map (·.replaying), (u.ctx 0).redoing.map fun r => (r.left.length, r.from_, r.zeroed)) | _ => (none, [])) =
    (some true, [(1, 2, false)]) := by decide
/-- The named rows become zero a cycle later. -/
def redoS : State :=
  (jobC fun c => { c with redoing := [⟨2, 4, [], [⟨mmCmd 1, 0x711, rowF 7, some 4⟩], 2, false⟩] }).setRow 0 3 5
theorem test_replay_zero : redoS.row 0 3 = 5 ∧ (redoS.replayZero 0).row 0 3 = 0 := by decide

/-- An MXPIN that has passed its entry with a status, or an MXMM that has drained. -/
def doneM (cmd : Cmd) (st : BitVec 4) : Mx := { mx0 with cmd := cmd, pos := 1, status := st, rows := 1 }
def tailS (m : Mx) : State := jobC fun c => { c with mxTail := [m] }
def pinCmd : Cmd := { mxCmd with opc := opMxpin, tok := ⟨0, 5⟩, a := 7, seq := 0x10003 }
theorem test_hyps_complete : (tailS (doneM pinCmd 6)).mxWork 0 = [(0, doneM pinCmd 6)] ∧ jobS.mxWork 0 = [] ∧
    (doneM pinCmd 6).storing = false ∧ (tailS (doneM (mmCmd 1) 0)).mxWork 0 = [(0, doneM (mmCmd 1) 0)] ∧ writesMxst opMxpin = true ∧
    (doneM pinCmd 6).again = false ∧ pinCmd.tok.sig ≠ 0 := by decide

theorem test_hyps_tile : jobS.arrayIdle 0 = true ∧ (mxqS 1).arrayIdle 0 = false ∧ jobS.assisted 5 = false ∧
    (jobS.crew 0).binState = 0 := by decide
/-- A tile has entered n rows. -/
def tileS (n now : Nat) : State :=
  { jobS.setCrew 0 { jobS.crew 0 with tile := some { tile := 3, from_ := 0, pos := n, sum := 0, last := 0 } } with now := now }
theorem test_hyps_tile_runs : ((tileS 0 1).crew 0).portOpen ((tileS 0 1).crewNow 0) = true ∧ (tileS 0 1).slotIdle 0 = true ∧
    ((tileS 0 1).crew 0).lastGa = false ∧ 0 + 529 ≤ (tileS 32 529).crewNow 0 ∧ ((tileS 32 529).crew 0).binState = 0 ∧
    (tileS 32 529).assisted 5 = false ∧ ¬ 0 + 65536 ≤ (tileS 0 1).crewNow 0 ∧ 0 + 65536 ≤ (tileS 0 65536).crewNow 0 := by decide
theorem test_tile_row : (((tileS 0 1).tileCycle 0).crew 0).tile.map (·.pos) = some 1 ∧
    (((tileS 0 1).tileCycle 0).crew 0).portFree = 2 := by decide
/-- The pool's bytes are constants of Config, so one of the two premises about the sum holds. -/
theorem test_hyps_tile_sum (sum : Word) : sum = jobS.readWord (poolSum 0) ∨ sum ≠ jobS.readWord (poolSum 0) := Decidable.em _

/-! ## AES (R184, R357)

Expected values from FIPS 197: its S-box table, and the first round of the example of its appendix B. -/

theorem test_sbox : sbox 0x53 = 0xed ∧ invSbox 0xed = 0x53 ∧ sbox 0 = 0x63 := by decide
def aesIn : List Byte := [0x19, 0x3d, 0xe3, 0xbe, 0xa0, 0xf4, 0xe2, 0x2b, 0x9a, 0xc6, 0x8d, 0x2a, 0xe9, 0xf8, 0x48, 0x08]
def aesKey : List Byte := [0xa0, 0xfa, 0xfe, 0x17, 0x88, 0x54, 0x2c, 0xb1, 0x23, 0xa3, 0x39, 0x39, 0x2a, 0x6c, 0x76, 0x05]
def aesOut : List Byte := [0xa4, 0x9c, 0x7f, 0xf2, 0x68, 0x9f, 0x35, 0x2b, 0x6b, 0x5b, 0xea, 0x43, 0x02, 0x6a, 0x50, 0x49]
theorem test_aes_round : aesRound false aesIn aesKey = aesOut := by decide
theorem test_aes_unround : aesUnround false aesOut aesKey = aesIn := by decide

end Sys2Proof.Tests
end

/-! # Proofs: the values of DM8 (R68, R70) -/

namespace Sys2Proof.Machine

/-- The two codes with no marker bit: +0, and NaR with the sign (R68). -/
theorem dm8Value_of_mod_eq_zero {c : Nat} (hc : c < 256) (hb : c % 128 = 0) :
    dm8Value c = if decide (128 ≤ c) then .nan else .fin false 0 1 := by
  simp only [dm8Value, hb, if_true, Nat.mod_eq_of_lt hc]

theorem dm8Value_of_mod_ne_zero {c : Nat} (hc : c < 256) (hb : c % 128 ≠ 0) :
    dm8Value c = .fin (decide (128 ≤ c)) (dm8Units (c % 128)) 64000 := by
  simp only [dm8Value, if_neg hb, Nat.mod_eq_of_lt hc]

theorem marked_ne_zero {n b : Nat} (hlo : 2 ^ n ≤ b) : b ≠ 0 :=
  Nat.ne_of_gt (Nat.lt_of_lt_of_le (Nat.two_pow_pos n) hlo)

/-- The magnitude in units of 2^−6 × 10^−3 when the marker is bit n (R70); 10^(6 − z) is written 10^n. -/
theorem dm8Units_of_marker {z n b : Nat} (hzn : z + n = 6) (hlo : 2 ^ n ≤ b) (hhi : b < 2 ^ (n + 1)) :
    dm8Units b = 10 ^ n * (2 ^ n + 9 * (b % 2 ^ n)) * 2 ^ z := by
  have hlog : Nat.log2 b = n := (Nat.log2_eq_iff (marked_ne_zero hlo)).2 ⟨hlo, hhi⟩
  have hz : 6 - n = z := by omega
  have hn : 6 - z = n := by omega
  simp only [dm8Units, hlog, hz, hn]

/-- The units are 1 / 64,000: the factors of two and of ten of a decade join to 2^6 × 10^6 in every decade. -/
theorem dm8Units_mul_decade {z n b : Nat} (hzn : z + n = 6) (hlo : 2 ^ n ≤ b) (hhi : b < 2 ^ (n + 1)) :
    dm8Units b * (2 ^ n * 10 ^ z) = 64000 * (10 ^ 3 * (2 ^ n + 9 * (b % 2 ^ n))) :=
  calc dm8Units b * (2 ^ n * 10 ^ z)
      = 2 ^ (z + n) * 10 ^ (z + n) * (2 ^ n + 9 * (b % 2 ^ n)) := by
        rw [dm8Units_of_marker hzn hlo hhi, Nat.pow_add, Nat.pow_add]; ac_rfl
    _ = 64000 * 10 ^ 3 * (2 ^ n + 9 * (b % 2 ^ n)) := by
        have hunit : 2 ^ 6 * 10 ^ 6 = 64000 * 10 ^ 3 := by decide
        rw [hzn, hunit]
    _ = 64000 * (10 ^ 3 * (2 ^ n + 9 * (b % 2 ^ n))) := Nat.mul_assoc ..

/-- Settles O44: codes with no marker by their own equation, the others by the decade of their marker. -/
theorem decimalMarkerValues : Obligations.DecimalMarkerValues := by
  intro c hc neg b
  refine ⟨dm8Value_of_mod_eq_zero hc, fun z n hzn hlo hhi => ?_⟩
  exact ⟨dm8Units b, 64000, dm8Value_of_mod_ne_zero hc (marked_ne_zero hlo), by decide, dm8Units_mul_decade hzn hlo hhi⟩

end Sys2Proof.Machine

/-! # Proofs: tokens, calls, format words, replies and mailboxes (R117, R224, R244 to R248) -/

namespace Sys2Proof.Machine

/-! ## The meaning of each word -/

section

variable (s : State) (h : CoxH)

theorem exec_twait (k : BitVec 4) (n : BitVec 16) : exec (.twait h k n) s = execTwait h k n s := rfl
theorem exec_tsig (k : BitVec 4) (n : BitVec 16) : exec (.tsig h k n) s = execTsig h k n s := rfl
theorem exec_callv (ty : CallTy) (a : SReg) (g : BitVec 3) : exec (.callv h ty a g) s = callOut s h true ty a g :=
  rfl
theorem exec_calla (ty : CallTy) (a : SReg) (g : BitVec 3) : exec (.calla h ty a g) s = callOut s h false ty a g :=
  rfl
theorem exec_fmtp (a : SReg) : exec (.fmtp h a) s = execFmtp h a s := rfl
theorem exec_rqp (d : SReg) : exec (.rqp h d) s = execRqp h d s := rfl
theorem exec_mbsend (a : SReg) (k : BitVec 2) : exec (.mbsend h a k) s = execMbsend h a k s := rfl
theorem exec_mbrecv (d : SReg) : exec (.mbrecv h d) s = execMbrecv h d s := rfl

end

/-! ## Operations on a context -/

/-- While no command is stopped, a format word goes behind the others (R117, R147). -/
theorem pushFmt_of_not_held {c : Ctx} (hc : c.held = []) (w : Word) :
    c.pushFmt w = { c with fq := c.fq ++ [w] }.bumpPush 9 := by
  rw [Ctx.pushFmt, hc]; rfl

theorem mail_available_iff (m : Mail) (now : Nat) : m.available now = true ↔ m.ready = true ∨ m.at_ + 24 ≤ now := by
  rw [Mail.available, Bool.or_eq_true, decide_eq_true_iff]

theorem mail_not_available {m : Mail} {now : Nat} (hr : m.ready = false) (hn : now < m.at_ + 24) :
    m.available now = false := by
  rw [Mail.available, hr, Bool.false_or, decide_eq_false_iff_not]
  exact Nat.not_le.mpr hn

/-- A command at the head of an engine queue of home `hm` takes of token k in this cycle (DEDUCED, assumption log 102). -/
def State.engineTakes (s : State) (hm : Nat) (k : BitVec 4) : Bool :=
  decide (hm < 1024 ∧ k ≠ 0) && (s.mxTakes hm k.toNat || s.cpTakes hm k.toNat)

theorem engineTakes_iff (s : State) (hm : Nat) (k : BitVec 4) : s.engineTakes hm k = true ↔
    hm < 1024 ∧ k ≠ 0 ∧ (s.mxTakes hm k.toNat = true ∨ s.cpTakes hm k.toNat = true) := by
  rw [State.engineTakes, Bool.and_eq_true, decide_eq_true_iff, Bool.or_eq_true, and_assoc]

/-- The context of a home behind a TWAIT that has taken its count of token k (R244, R245). -/
def Ctx.takeCount (c : Ctx) (k : BitVec 4) (n : BitVec 16) : Ctx :=
  ((c.setToken k.toNat (c.token k.toNat - n)).unfetch).joinToken k.toNat

section

variable {s : State} {t : Thread} {h : CoxH}

/-! ## Tokens (R244, R245) -/

/-- TWAIT goes on at once for a count of zero, waits for its count and for the engines, and otherwise takes and joins. -/
theorem exec_twait_issues (I : Issues s t .any h []) (k : BitVec 4) (n : BitVec 16) :
    exec (.twait h k n) s =
      if n = 0 then .next (s.next t)
      else if (s.ctx t.home).token k.toNat < n ∨ s.engineTakes t.home k = true then .next s
      else .next ((s.setCtx t.home ((s.ctx t.home).takeCount k n)).next t) := by
  rw [exec_twait, execTwait, coxForm_issues I]
  simp only [engineTakes_iff, BitVec.lt_def, Ctx.takeCount]

theorem exec_twait_zero (I : Issues s t .any h []) (k : BitVec 4) : exec (.twait h k 0) s = .next (s.next t) := by
  rw [exec_twait_issues I, if_pos rfl]

theorem exec_twait_waits (I : Issues s t .any h []) {k : BitVec 4} {n : BitVec 16} (hn : 0 < n)
    (hw : (s.ctx t.home).token k.toNat < n ∨ s.engineTakes t.home k = true) : exec (.twait h k n) s = .next s := by
  rw [exec_twait_issues I, if_neg (BitVec.ne_of_lt hn).symm, if_pos hw]

theorem exec_twait_takes (I : Issues s t .any h []) {k : BitVec 4} {n : BitVec 16} (hn : 0 < n)
    (hk : n ≤ (s.ctx t.home).token k.toNat) (he : s.engineTakes t.home k = false) :
    exec (.twait h k n) s = .next ((s.setCtx t.home ((s.ctx t.home).takeCount k n)).next t) := by
  have hgo : ¬ ((s.ctx t.home).token k.toNat < n ∨ s.engineTakes t.home k = true) :=
    not_or.mpr ⟨BitVec.not_lt.mpr hk, Bool.eq_false_iff.mp he⟩
  rw [exec_twait_issues I, if_neg (BitVec.ne_of_lt hn).symm, if_neg hgo]

theorem exec_tsig_issues (I : Issues s t .any h []) (k : BitVec 4) (n : BitVec 16) :
    exec (.tsig h k n) s = .next ((s.setCtx t.home ((s.ctx t.home).addToken k.toNat n.toNat)).next t) := by
  rw [exec_tsig, execTsig, coxForm_issues I]

/-! ## Calls and format words (R117, R246) -/

theorem callOut_pushes {a : SReg} (I : Issues s t .coxOnly h [a]) {vec : Bool}
    (hl : ((s.ctx t.home).calls vec).length < 64) (ty : CallTy) (g : BitVec 3) :
    callOut s h vec ty a g = .next ((s.setCtx t.home
      (((s.ctx t.home).setCalls vec ((s.ctx t.home).calls vec ++ [{ ty := ty, payload := s.reg t a, g := g }])).bumpPush
        (if vec then 0 else 1))).next t) := by
  rw [callOut, coxForm_issues I]
  exact if_neg (Nat.not_le.mpr hl)

theorem callOut_full {a : SReg} (I : Issues s t .coxOnly h [a]) {vec : Bool}
    (hl : 64 ≤ ((s.ctx t.home).calls vec).length) (ty : CallTy) (g : BitVec 3) :
    callOut s h vec ty a g = .next s := by
  rw [callOut, coxForm_issues I]
  exact if_pos hl

theorem exec_fmtp_pushes {a : SReg} (I : Issues s t .coxOnly h [a]) (hl : (s.ctx t.home).fq.length < 16) :
    exec (.fmtp h a) s = .next ((s.setCtx t.home ((s.ctx t.home).pushFmt (s.reg t a))).next t) := by
  rw [exec_fmtp, execFmtp, coxForm_issues I]
  exact if_neg (Nat.not_le.mpr hl)

theorem exec_fmtp_full {a : SReg} (I : Issues s t .coxOnly h [a]) (hl : 16 ≤ (s.ctx t.home).fq.length) :
    exec (.fmtp h a) s = .next s := by
  rw [exec_fmtp, execFmtp, coxForm_issues I]
  exact if_pos hl

/-! ## Replies (R247) -/

theorem exec_rqp_empty {d : SReg} (I : Issues s t .coxOnly h [d]) (hq : (s.ctx t.home).rq = []) :
    exec (.rqp h d) s = .next s := by
  simp only [exec_rqp, execRqp, coxForm_issues I, hq]

theorem exec_rqp_pops {d : SReg} (I : Issues s t .coxOnly h [d]) {w : Word} {r : List Word}
    (hq : (s.ctx t.home).rq = w :: r) (hp : s.headPoisoned t.home 8 = false) :
    exec (.rqp h d) s =
      .next (((s.setCtx t.home ({ s.ctx t.home with rq := r }.bumpPop 8)).setReg t d w).next t) := by
  simp [exec_rqp, execRqp, coxForm_issues I, hq, hp]

theorem exec_rqp_damaged {d : SReg} (I : Issues s t .coxOnly h [d]) (hq : (s.ctx t.home).rq ≠ [])
    (hp : s.headPoisoned t.home 8 = true) : exec (.rqp h d) s = .next (s.fault t poisonCause 0) := by
  obtain ⟨w, r, hq⟩ := List.exists_cons_of_ne_nil hq
  simp [exec_rqp, execRqp, coxForm_issues I, hq, hp, poisonCause]

/-! ## Mailboxes (R224, R248) -/

theorem exec_mbrecv_empty {d : SReg} (I : Issues s t .coxOnly h [d]) (hq : (s.ctx t.home).mailbox = []) :
    exec (.mbrecv h d) s = .next s := by
  simp only [exec_mbrecv, execMbrecv, coxForm_issues I, hq]

section

variable {d : SReg} {m : Mail} {r : List Mail}

theorem exec_mbrecv_waits (I : Issues s t .coxOnly h [d]) (hq : (s.ctx t.home).mailbox = m :: r)
    (ha : m.available (s.crewNow (crewOf t.home)) = false) : exec (.mbrecv h d) s = .next s := by
  simp [exec_mbrecv, execMbrecv, coxForm_issues I, hq, ha]

theorem exec_mbrecv_damaged (I : Issues s t .coxOnly h [d]) (hq : (s.ctx t.home).mailbox = m :: r)
    (ha : m.available (s.crewNow (crewOf t.home)) = true) (hb : m.bad = true) :
    exec (.mbrecv h d) s = .next (s.fault t poisonCause 0) := by
  simp [exec_mbrecv, execMbrecv, coxForm_issues I, hq, ha, hb]

theorem exec_mbrecv_takes (I : Issues s t .coxOnly h [d]) (hq : (s.ctx t.home).mailbox = m :: r)
    (ha : m.available (s.crewNow (crewOf t.home)) = true) (hb : m.bad = false) :
    exec (.mbrecv h d) s =
      .next (((s.setCtx t.home { s.ctx t.home with mailbox := r }).setReg t d m.value).next t) := by
  simp [exec_mbrecv, execMbrecv, coxForm_issues I, hq, ha, hb]

end

section

variable {a : SReg} {k : BitVec 2} {p : Nat}

theorem exec_mbsend_no_peer (I : Issues s t .coxOnly h [a]) (hp : s.peer t.home k.toNat = none) :
    exec (.mbsend h a k) s = .next s := by
  simp only [exec_mbsend, execMbsend, coxForm_issues I, hp]

theorem exec_mbsend_full (I : Issues s t .coxOnly h [a]) (hp : s.peer t.home k.toNat = some p)
    (hl : 16 ≤ (s.ctx p).mailbox.length) : exec (.mbsend h a k) s = .next s := by
  simp only [exec_mbsend, execMbsend, coxForm_issues I, hp, if_pos hl]

theorem exec_mbsend_puts (I : Issues s t .coxOnly h [a]) (hp : s.peer t.home k.toNat = some p)
    (hl : (s.ctx p).mailbox.length < 16) :
    exec (.mbsend h a k) s = .next ((s.setCtx p { s.ctx p with mailbox := (s.ctx p).mailbox ++
      [{ value := s.reg t a, at_ := s.crewNow (crewOf p), ready := false, bad := false }] }).next t) := by
  simp only [exec_mbsend, execMbsend, coxForm_issues I, hp, if_neg (Nat.not_le.mpr hl)]

end

end

/-- Settles O20: each word by the lemma of the case that its hypotheses name. -/
theorem tokensCallsMail : Obligations.TokensCallsMail := by
  refine ⟨fun s t h k n I => ?tokens, fun s t h ty a g I => ?pushes, fun s t h d I => ?receives, fun s t h a k I => ?sends⟩
  case tokens =>
    exact ⟨exec_twait_waits I, fun hk hn he => exec_twait_takes I hn hk he, fun hn => hn ▸ exec_twait_zero I k,
      exec_tsig_issues I k n⟩
  case pushes =>
    have hfmtp (hl : (s.ctx t.home).fq.length < 16) (hc : (s.ctx t.home).held = []) := by
      simpa only [pushFmt_of_not_held hc] using exec_fmtp_pushes I hl
    exact ⟨fun hl => (exec_callv ..).trans (callOut_pushes I (vec := true) hl ty g),
      fun hl => (exec_callv ..).trans (callOut_full I (vec := true) hl ty g),
      fun hl => (exec_calla ..).trans (callOut_pushes I (vec := false) hl ty g),
      fun hl => (exec_calla ..).trans (callOut_full I (vec := false) hl ty g), hfmtp, exec_fmtp_full I⟩
  case receives =>
    refine ⟨exec_rqp_empty I, fun w r => exec_rqp_pops I, exec_rqp_damaged I, exec_mbrecv_empty I,
      fun m r hq hr hn => exec_mbrecv_waits I hq (mail_not_available hr hn), fun m r hq ha => ?_⟩
    have hav := (mail_available_iff m _).mpr ha
    exact ⟨exec_mbrecv_damaged I hq hav, exec_mbrecv_takes I hq hav⟩
  case sends =>
    exact ⟨exec_mbsend_no_peer I, fun p => exec_mbsend_full I, fun p => exec_mbsend_puts I⟩

end Sys2Proof.Machine

/-! # Proofs: the lane-wise and the row-wise vector words (R153 to R155, R158 to R164, R170 to R174, R187) -/

namespace Sys2Proof.Machine

/-! ## The two wrappers when their word issues -/

section

variable {s : State} {j : Nat} {h : LaneH} {f : VForm}

/-- Container l of the result is `op` of the containers l of the sources (R150). -/
theorem vecLanes_issues (I : VecIssues s j h f) (op : Bool → List Nat → Nat) :
    vecLanes s h f op = .next (s.vecEnd j h f (widthOf (s.w16 j)) (rowOf (widthOf (s.w16 j))
      ((List.range (lanesOf (s.w16 j))).map fun l =>
        op (s.w16 j) (f.srcs.map fun r => elem (widthOf (s.w16 j)) (s.srcRow j r) l)))) := by
  rw [vecLanes, vecForm_issues I _ rfl]
  simp only [List.map_map, Function.comp_def]

/-- The result row is `op` of the source rows (R154). -/
theorem vecRow_issues (I : VecIssues s j h f) (k : Bool → Nat) (op : Nat → Bool → List Row → Row) :
    vecRow s h f k op =
      .next (s.vecEnd j h f (k (s.w16 j)) (op j (s.w16 j) (f.srcs.map (s.srcRow j)))) := by
  rw [vecRow, vecForm_issues I _ rfl]

end

/-! ## The meaning of each word is one of the wrappers -/

/-- The arithmetic, special and shift words apply the function of their form in each lane (R158 to R162, R164). VSHL
reads the width that bounds its counts off its element type, so its two types are two cases. -/
theorem exec_of_lanesForm {i : Instr} {h : LaneH} {f : VForm} {op : List Nat → Nat}
    (e : i.lanesForm = some (h, f, op)) (s : State) : exec i s = vecLanes s h f fun _ => op := by
  cases i with
  | vadd | vsub | vmul | vfma | vmin | vmax | vabs | vneg | vexp2 | vlog2 | vrcp | vrsq | vtanh | vsigm | vshr =>
    cases e; rfl
  | vshl h ty D A B =>
    cases ty with
    | i32 => cases e; rfl
    | i16 => cases e; rfl
  | _ => cases e

/-- The words of logic, moves, quantised rows, reductions, permutation and bitmaps apply the function of their form to
whole rows, which does not depend on the job (R163, R170 to R174, R187). -/
theorem exec_of_rowForm {i : Instr} {h : LaneH} {f : VForm} {k : Bool → Nat} {op : Bool → List Row → Row}
    (e : i.rowForm = some (h, f, k, op)) (s : State) : exec i s = vecRow s h f k fun _ => op := by
  cases i with
  | vand | vor | vxor | vmov | vqnt | vdqnt | vrsum | vrmax | vargm | vperm | vrank | vselb => cases e; rfl
  | _ => cases e

/-- Settles O37: each word is its wrapper with the function of its form, and the wrapper issues. -/
theorem vectorWords : Obligations.VectorWords :=
  ⟨fun _ s _ _ _ op e I => (exec_of_lanesForm e s).trans (vecLanes_issues I fun _ => op),
    fun _ s _ _ _ k op e I => (exec_of_rowForm e s).trans (vecRow_issues I k fun _ => op)⟩

end Sys2Proof.Machine

/-! # Proofs: results of integer, bit, compare, select and load-immediate words (R216, R217, R233 to R238) -/

namespace Sys2Proof.Machine

/-! ## The values of Table 9.2 as arithmetic -/

theorem shiftLeft_eq_mul_two_pow (x : Word) (n : Nat) : x <<< n = BitVec.ofNat 64 (x.toNat * 2 ^ n) := by
  rw [← Nat.shiftLeft_eq]; rfl

theorem ushiftRight_eq_div_two_pow (x : Word) (n : Nat) : x >>> n = BitVec.ofNat 64 (x.toNat / 2 ^ n) := by
  rw [← Nat.shiftRight_eq_div_pow, ← BitVec.toNat_ushiftRight, BitVec.ofNat_toNat, BitVec.setWidth_eq]

theorem sshiftRight_eq_div_two_pow (x : Word) (n : Nat) : x.sshiftRight n = BitVec.ofInt 64 (x.toInt / 2 ^ n) := by
  rw [BitVec.sshiftRight_eq, Int.shiftRight_eq_div_pow]
  norm_cast

theorem signedMin_eq (x y : Word) : signedMin x y = if x.toInt ≤ y.toInt then x else y := by
  simp only [signedMin, BitVec.sle_iff_toInt_le]

theorem signedMax_eq (x y : Word) : signedMax x y = if x.toInt ≤ y.toInt then y else x := by
  simp only [signedMax, BitVec.sle_iff_toInt_le]

/-- The quotient of −2^63 by −1 is 2^63, which wraps, so only a divisor of zero needs a case of its own (R234). -/
theorem divRem_fst (x y : Word) :
    (divRem x y).1 = if y = 0 then BitVec.allOnes 64 else BitVec.ofInt 64 (x.toInt.tdiv y.toInt) := by
  unfold divRem
  split
  · rfl
  · split
    · next h => obtain ⟨rfl, rfl⟩ := h; decide
    · rfl

theorem divRem_snd (x y : Word) :
    (divRem x y).2 = BitVec.ofInt 64 (x.toInt - x.toInt.tdiv y.toInt * y.toInt) := by
  unfold divRem
  split
  · next h => subst h; simp
  · split
    · next h => obtain ⟨rfl, rfl⟩ := h; decide
    · rfl

/-- Replacing the bits from 30 on keeps the 30 bits below them (R237). -/
theorem withField_load_high (x : Word) (i : BitVec 30) :
    withField x 30 34 i.toNat = BitVec.ofNat 64 (i.toNat * 2 ^ 30 + x.toNat % 2 ^ 30) := by
  refine BitVec.eq_of_getLsbD_eq fun j hj => ?_
  rw [withField_getLsbD _ _ _ _ _ hj, BitVec.getLsbD_ofNat, Nat.mul_comm,
    Nat.testBit_two_pow_mul_add _ (Nat.mod_lt _ (Nat.two_pow_pos 30)), Nat.testBit_mod_two_pow]
  by_cases hlow : j < 30
  · simp [hj, hlow, Nat.not_le.mpr hlow, BitVec.getLsbD]
  · simp [hj, hlow, Nat.not_lt.mp hlow]

/-! ## Words that compute a scalar -/

/-- Each word computes the function that Table 9.2 gives it. -/
theorem exec_of_aluForm {i : Instr} {h : CoxH} {d : SReg} {l : List SReg} {f : Word → Word → Word}
    (e : i.aluForm = some (h, d, l, f)) (s : State) :
    exec i s = coxResult s h d l fun v => f (v.getD 0 0) (v.getD 1 0) := by
  cases i with
  | add | addImm | sub | mul | mulImm | mulh | and | andImm | or | orImm | xor | xorImm | clz | popc | bfx | bfi | ldi =>
    cases e; rfl
  | div => cases e; simp only [← divRem_fst]; rfl
  | rem => cases e; simp only [← divRem_snd]; rfl
  | min => cases e; simp only [← signedMin_eq]; rfl
  | max => cases e; simp only [← signedMax_eq]; rfl
  | shl | shlImm => cases e; simp only [← shiftLeft_eq_mul_two_pow]; rfl
  | shr | shrImm => cases e; simp only [← ushiftRight_eq_div_two_pow]; rfl
  | sar | sarImm => cases e; simp only [← sshiftRight_eq_div_two_pow]; rfl
  | ldih => cases e; simp only [← withField_load_high]; rfl
  | _ => cases e

/-- A source that a word does not name counts as s0, which reads as zero under every boost level (R49). -/
theorem getD_map_srcOf (s : State) (t : Thread) (h : CoxH) (l : List SReg) (n : Nat) :
    (l.map fun r => s.srcOf t h r).getD n 0 = s.srcOf t h (l.getD n 0) := by
  rw [List.getD_eq_getElem?_getD, List.getD_eq_getElem?_getD, List.getElem?_map]
  cases l[n]? with
  | none => rfl
  | some r => rfl

theorem exec_alu_issues {i : Instr} {s : State} {t : Thread} {h : CoxH} {d : SReg} {l : List SReg}
    {f : Word → Word → Word} (e : i.aluForm = some (h, d, l, f)) (I : Issues s t .any h (d :: l)) :
    exec i s = .next (s.putResult t h d l (f (s.srcOf t h (l.getD 0 0)) (s.srcOf t h (l.getD 1 0)))) := by
  rw [exec_of_aluForm e, coxResult_issues I, getD_map_srcOf, getD_map_srcOf]

/-! ## CMP and SEL (R235, R238) -/

theorem exec_cmp (h : CoxH) (cc : CoxCC) (p : BitVec 3) (a b : SReg) (s : State) :
    exec (.cmp h cc p a b) s = execCmp h cc p a b s := rfl

theorem exec_sel (h : CoxH) (d a b : SReg) (neg : Bool) (p : BitVec 3) (s : State) :
    exec (.sel h d a b neg p) s = execSel h d a b neg p s := rfl

theorem exec_cmp_issues {s : State} {t : Thread} {h : CoxH} {a b : SReg} (I : Issues s t .any h [a, b])
    (cc : CoxCC) (p : BitVec 3) :
    exec (.cmp h cc p a b) s = .next ((s.setCox t ((s.cox t).putP h.bl.toNat p.toNat
      (CoxCC.holds cc (s.srcOf t h a) (s.srcOf t h b)) (s.poisonOf t h [a, b]))).next t) := by
  rw [exec_cmp, execCmp, coxForm_issues I]
  rfl

/-- A further source passes its poison on when the predicate and the sources before it have none. -/
theorem poisonOf_or (s : State) (t : Thread) (h : CoxH) (l : List SReg) (x : Option Poison) :
    (s.poisonOf t h l).or x =
      (((s.cox t).pred h.bl.toNat h.pred).2 :: (l.map fun r => ((s.cox t).src h.bl.toNat r).2) ++ [x]).findSome? id := by
  rw [List.findSome?_append]
  cases x <;> rfl

theorem exec_sel_issues {s : State} {t : Thread} {h : CoxH} {d a b : SReg} (I : Issues s t .any h [d, a, b])
    (neg : Bool) (p : BitVec 3) :
    exec (.sel h d a b neg p) s = .next ((s.setCox t ((s.cox t).put h.bl.toNat d
      (if ((s.cox t).srcP h.bl.toNat p.toNat).1 = neg then s.srcOf t h b else s.srcOf t h a)
      ((s.poisonOf t h [a, b]).or ((s.cox t).srcP h.bl.toNat p.toNat).2))).next t) := by
  rw [exec_sel, execSel, coxForm_issues I, poisonOf_or]
  simp only [bne_iff_ne, ne_eq, ite_not]
  rfl

/-- Settles O8: words that compute a scalar by the function of their form, CMP condition by condition, SEL by the
predicate that it names. -/
theorem scalarResults : Obligations.ScalarResults := by
  refine ⟨fun i s t h d l f e _ I => exec_alu_issues e I, fun s t h cc p a b I => ?compare,
    fun s t h d a b neg p I => ?select⟩
  case compare => cases cc <;> exact exec_cmp_issues I _ p
  case select => exact exec_sel_issues I neg p

end Sys2Proof.Machine

/-! # Proofs: quotient and remainder of DIV and REM (R234) -/

namespace Sys2Proof.Machine

/-! ## Quotient and remainder as the signed division of bit vectors -/

theorem divRem_zero (x : Word) : divRem x 0 = (BitVec.allOnes 64, x) := if_pos rfl

/-- The quotient of −2^63 by −1 wraps in signed division too, so only a divisor of zero is apart. -/
theorem divRem_fst_eq_sdiv (x : Word) {y : Word} (hy : y ≠ 0) : (divRem x y).1 = x.sdiv y := by
  rw [divRem_fst, if_neg hy, ← BitVec.toInt_inj, BitVec.toInt_ofInt, BitVec.toInt_sdiv]

/-- Signed division leaves the dividend when the divisor is zero, as R234 has it. -/
theorem divRem_snd_eq_srem (x y : Word) : (divRem x y).2 = x.srem y := by
  rw [divRem_snd, Int.mul_comm, ← Int.tmod_def, ← BitVec.toInt_srem, BitVec.ofInt_toInt]

/-- Only −2^63 by −1 overflows; every other quotient is the truncated one. -/
theorem toInt_divRem_fst {x y : Word} (hy : y ≠ 0) (ho : ¬(x.toInt = -(2 ^ 63) ∧ y.toInt = -1)) :
    (divRem x y).1.toInt = x.toInt.tdiv y.toInt := by
  rw [divRem_fst_eq_sdiv x hy]
  refine BitVec.toInt_sdiv_of_ne_or_ne x y (Decidable.not_and_iff_not_or_not.mp fun h => ho ?_)
  obtain ⟨rfl, rfl⟩ := h
  decide

theorem divRem_overflow {x y : Word} (hx : x.toInt = -(2 ^ 63)) (hy : y.toInt = -1) :
    divRem x y = (BitVec.intMin 64, 0) := by
  obtain rfl : x = BitVec.intMin 64 := BitVec.eq_of_toInt_eq hx
  obtain rfl : y = -1#64 := BitVec.eq_of_toInt_eq hy
  decide

/-- A nonzero remainder of truncated division has the sign of the dividend. -/
theorem srem_eq_zero_or_neg_iff (x y : Word) : x.srem y = 0 ∨ ((x.srem y).toInt < 0 ↔ x.toInt < 0) := by
  have hsign := Int.sign_tmod x.toInt y.toInt
  rw [← BitVec.toInt_srem] at hsign
  split at hsign
  · exact .inl (BitVec.eq_of_toInt_eq (Int.sign_eq_zero_iff_zero.mp hsign))
  · exact .inr (by rw [← Int.sign_eq_neg_one_iff_neg, hsign, Int.sign_eq_neg_one_iff_neg])

theorem natAbs_srem_lt (x : Word) {y : Word} (hy : y ≠ 0) : (x.srem y).toInt.natAbs < y.toInt.natAbs := by
  rw [BitVec.toInt_srem, Int.natAbs_tmod]
  exact Nat.mod_lt _ (Int.natAbs_pos.mpr fun h => hy (BitVec.eq_of_toInt_eq h))

/-! ## Words without a boost -/

theorem Cox.src_unboosted (c : Cox) {h : CoxH} (hb : h.bl = 0) (r : SReg) : c.src h.bl.toNat r = (c.reg r, none) := by
  rw [hb]
  unfold Cox.src Cox.reg
  split <;> rfl

theorem Cox.put_unboosted (c : Cox) {h : CoxH} (hb : h.bl = 0) (d : SReg) (v : Word) (p : Option Poison) :
    c.put h.bl.toNat d v p = c.setReg d v := by
  rw [hb]
  unfold Cox.put Cox.setReg
  split <;> rfl

theorem Cox.reg_setReg_same (c : Cox) {d : SReg} (hd : d ≠ 0) (v : Word) : (c.setReg d v).reg d = v := by
  rw [Cox.reg, if_neg hd, Cox.setReg, if_neg hd, Tab.get_set_same]

theorem srcOf_unboosted (s : State) (t : Thread) {h : CoxH} (hb : h.bl = 0) (r : SReg) : s.srcOf t h r = s.reg t r :=
  congrArg Prod.fst (Cox.src_unboosted (s.cox t) hb r)

theorem putResult_unboosted (s : State) (t : Thread) {h : CoxH} (hb : h.bl = 0) (d : SReg) (l : List SReg) (v : Word) :
    s.putResult t h d l v = (s.setReg t d v).next t := by
  rw [State.putResult, Cox.put_unboosted _ hb, State.setReg]

theorem reg_setReg_next (s : State) {t : Thread} (ht : IsCox t) {d : SReg} (hd : d ≠ 0) (v : Word) :
    ((s.setReg t d v).next t).reg t d = v := by
  rw [next_cox _ _ ht, State.reg, State.setCox_cox, State.setReg, State.setCox_cox]
  exact Cox.reg_setReg_same (s.cox t) hd v

section
variable {s : State} {t : Thread} {h : CoxH} {d a b : SReg}

theorem exec_div_unboosted (I : Issues s t .any h [d, a, b]) (hb : h.bl = 0) :
    exec (.div h d a b) s = .next ((s.setReg t d (divRem (s.reg t a) (s.reg t b)).1).next t) := by
  rw [exec_alu_issues rfl I, putResult_unboosted s t hb, srcOf_unboosted s t hb, srcOf_unboosted s t hb, ← divRem_fst]
  rfl

theorem exec_rem_unboosted (I : Issues s t .any h [d, a, b]) (hb : h.bl = 0) :
    exec (.rem h d a b) s = .next ((s.setReg t d (divRem (s.reg t a) (s.reg t b)).2).next t) := by
  rw [exec_alu_issues rfl I, putResult_unboosted s t hb, srcOf_unboosted s t hb, srcOf_unboosted s t hb, ← divRem_snd]
  rfl

end

/-- Settles O35: the words write the two halves of divRem, whose values are those of truncated division but for a divisor
of zero and the one overflow (R234). -/
theorem division : Obligations.Division := by
  intro s t h d a b I hb x y
  refine ⟨(divRem x y).1, (divRem x y).2, exec_div_unboosted I hb, exec_rem_unboosted I hb,
    fun hd => ⟨reg_setReg_next s I.isCox hd _, reg_setReg_next s I.isCox hd _⟩, fun hy => ?byZero,
    fun hx hy => ?overflow, fun hy ho => ?truncated⟩
  case byZero => rw [hy, divRem_zero]; exact ⟨BitVec.toInt_allOnes, rfl⟩
  case overflow => rw [divRem_overflow hx hy]; decide
  case truncated =>
    rw [toInt_divRem_fst hy ho, divRem_snd_eq_srem]
    refine ⟨rfl, ?_, natAbs_srem_lt x hy, srem_eq_zero_or_neg_iff x y⟩
    rw [BitVec.toInt_srem, Int.tdiv_mul_add_tmod]

end Sys2Proof.Machine
